-- ==== Sys2Proof/Word.lean ====
section
/-! DEFINITION. The word types of the Diern Q16: 64-bit words, bytes, and the plainest names of numbers
(spec/00_scope.md R4 to R7, spec/01_module_overview.md R18). -/
namespace Sys2Proof

/-- A 64-bit word: a scalar register, a register of the register window, one instruction word. -/
abbrev Word := BitVec 64

/-- One byte. -/
abbrev Byte := BitVec 8

/-- A core number, 32 times the die plus 8 times the form plus the index (R18). -/
abbrev CoreId := BitVec 6

/-- A context number, 0 to 63 (R20). -/
abbrev CtxId := BitVec 6

/-- A sequence slot number, 0 to 16 383 (R20, R282). -/
abbrev SlotId := BitVec 14

/-- A Quaz port number; 0 to 5 exist (R343). -/
abbrev PortId := BitVec 3

/-- A channel controller, 32 times the stack plus the channel within the stack (R309, R318). -/
abbrev ChanId := BitVec 8

end Sys2Proof
end

