-- ==== Sys2Proof/Syntax.lean ====
section
/-! DEFINITION. The commands of the module: one constructor of Instr per row of spec/opcode_table.json, with the
operands the row's event carries. The word layouts are those of spec/06_akaux_programming_model.md Tables 6.3 to 6.6. -/
namespace Sys2Proof

/-- Format F0 without its opcode, Table 6.3. -/
structure F0 where
  guard : BitVec 4
  d : BitVec 5
  a : BitVec 5
  b : BitVec 5
  c : BitVec 5
  kt : BitVec 4
  sub : BitVec 8
  x : BitVec 20
  deriving DecidableEq, Repr

/-- Format F1 without its opcode, Table 6.4. -/
structure F1 where
  guard : BitVec 4
  d : BitVec 5
  a : BitVec 5
  sub : BitVec 6
  kt : BitVec 4
  imm : BitVec 32
  deriving DecidableEq, Repr

/-- Format F2 without its opcode, Table 6.5; also the first word of F3. -/
structure F2 where
  guard : BitVec 4
  kt : BitVec 4
  tdo : BitVec 4
  tdl : BitVec 4
  tdr : BitVec 4
  anc : BitVec 3
  rnd : BitVec 2
  eng : BitVec 2
  chn : BitVec 5
  mode : BitVec 24
  deriving DecidableEq, Repr

/-- Format F3: a first word of Table 6.5 and the second word of Table 6.6. -/
structure F3 where
  w1 : F2
  td3 : BitVec 4
  td4 : BitVec 4
  s1 : BitVec 5
  s2 : BitVec 5
  s3 : BitVec 5
  s4 : BitVec 5
  ext : BitVec 36
  deriving DecidableEq, Repr

/-- The register and the immediate form of an arithmetic instruction or of CMP (R148, R149). -/
inductive AluForm where
  | reg (f : F0)
  | imm (f : F1)
  deriving DecidableEq, Repr

/-- The engines of a core that hold a queue (Table 5.1). -/
inductive Engine where
  | arrayA | arrayB | sfu | attn | dma | crumb
  deriving DecidableEq, Repr

/-- What an error-correcting code finds at a read (R105, R318, R319). -/
inductive Ecc where
  | clean | corrected | uncorrectable
  deriving DecidableEq, Repr

/-- The two events of an engine instruction: the sequencer issues it (R88), or its engine performs the effect of
the started instruction at place `i` of the queue of engine `e` (R89, R131); `bad` is what the code finds at a scratchpad word
it reads (R105). -/
inductive Ev (α : Type) where
  | issue (w : α)
  | run (e : Engine) (i : Nat) (bad : Option (Nat × Ecc))
  deriving DecidableEq, Repr

/-- A unit of a compute die that carries an epoch (R139, Table 16.11). `die` true is C1. -/
inductive UnitId where
  | core (n : CoreId)
  | timetable (die : Bool)
  | channel (n : ChanId)
  | allocator (die : Bool)
  | prefixIndex (die : Bool)
  | port (p : PortId)
  deriving DecidableEq, Repr

/-- A library read that met an uncorrectable codeword: its retries begin, or how it ends (R331). -/
inductive LibErr where
  | begins
  | retryOk
  | rebuilt
  | lost (second : Option (BitVec 20))
  deriving DecidableEq, Repr

/-- One 1 us sample of the input and of the eight rails (R430): millivolts, 10 mA, watts; millivolts and 0.1 A. -/
structure PowerReading where
  vinMv : Nat
  iin10mA : Nat
  pinW : Nat
  railMv : List Nat
  railDa : List Nat
  deriving DecidableEq, Repr

/-- One sample of every temperature, in 0.1 degree Celsius (R340, R436, R437). -/
structure ThermalReading where
  stackTemps : List Int
  libs : List Int
  dies : List Int
  inlet : Int
  deriving DecidableEq, Repr

/-- A signed image as start-up reads it (Table 18.1): its header, its body, and the key that KEY_ID names if the signature over bytes
0 to 141 is valid under it: the Evbin root key (true), the owner key (false), none (log 11). -/
structure FwImage where
  header : List Byte
  body : List Byte
  signer : Option Bool
  deriving DecidableEq, Repr

/-- A received CONTROL flit that passed its CRC: the header of Table 14.2, and the payload, byte 0 lowest. -/
structure ControlFlit where
  head : BitVec 64
  payload : BitVec 1920
  deriving DecidableEq, Repr

/-- What start-up measures or reads at the pins and from the dies (R447, R448, R456). -/
structure StartReading where
  straps : BitVec 3
  refOk : Bool
  railMv : List Nat
  railDa : List Nat
  vinMv : Nat
  meshOk : Bool
  lidOk : Bool
  /-- Boot firmware and runtime firmware (Table 18.2). -/
  bootFw : FwImage
  runFw : FwImage
  /-- The root key's signature over bytes 0 to 397 of the identity record is valid (R456, R459). -/
  identityOk : Bool
  /-- Copies of the system area that no longer read as written: 4 times the item's number plus the stack, and the item and tag that
  are read (R451). -/
  decay : List (Nat × List Byte)
  /-- The public value that each die's PUF key derives: C0, C1, control die (R457). -/
  puf : List (List Byte)
  /-- The two master image slots (R455). -/
  images : List FwImage
  tempoSteps : List Nat
  idleW : Nat
  deriving DecidableEq, Repr

/-- What an access of the master names, with the value and the 26-bit offset of REGISTER_WRITE beside it (R19, R401). The table has
one row for them all (log 45). Sizes are exponents: an access is of 1, 2, 4 or 8 bytes. -/
inductive RegSpace where
  /-- A register of the 64 MiB window, written or read (R404). -/
  | window | windowRead
  /-- The watchdogs in the control die's own space (R473). -/
  | watchdog
  /-- A store to main memory or a load from it by a hart; `page` is the offset's upper bits. -/
  | main (page : BitVec 13) (size : BitVec 2)
  | mainLoad (page : BitVec 13) (size : BitVec 2) (hart : BitVec 4)
  /-- The 16 MiB of SRAM on the control die. -/
  | sram (size : BitVec 2) | sramLoad (size : BitVec 2)
  /-- The 1 MiB of it that holds tenant session keys (R464). -/
  | session (size : BitVec 2) | sessionLoad (size : BitVec 2)
  /-- An Ethernet port: its address, its enable, a frame for a transmit ring with the tag and the checksums to insert, the frame a
  receive ring holds longest (R408). -/
  | ethMac (n : Bool) | ethEnable (n : Bool)
  | ethPost (n : Bool) (ring : BitVec 6) (frame : List Byte) (tag : Option (BitVec 16)) (sums : Bool)
  | ethTake (n : Bool) (ring : BitVec 6)
  /-- The PCIe endpoint: the range of BAR2, the view of BAR4, an MSI-X vector (R409, R410). -/
  | pcieBar2 (len : Nat) | pcieBar4 | msix (vector : BitVec 6)
  /-- An outbound window to host memory, and a store or a load through it (R410). -/
  | outWindow (i : BitVec 4) (len : Nat) | hostStore (i : BitVec 4) (size : BitVec 2) | hostLoad (i : BitVec 4) (size : BitVec 2)
  deriving DecidableEq, Repr

/-- A bell time stamp: nanoseconds and sixty-fourths (R359). -/
structure Stamp where
  ns : Word
  frac : BitVec 6
  deriving DecidableEq, Repr

/-- What the management port can be asked for (R411, R463). -/
inductive MgtItem where
  | devId | devRev | devState
  | thmStack (s : BitVec 3) | thmLib (s : BitVec 2) | thmDie (d : BitVec 2) | thmInlet
  | pwrInput | errLogProd | errAlert
  | identityDigest (q : BitVec 3)
  | lockLog (i : Nat)
  deriving DecidableEq, Repr

/-- The two test-port events outside the public instructions (R487). -/
inductive TapEvent where
  | load (code : BitVec 32)
  | leaveReset
  deriving DecidableEq, Repr

/-- The commands of the block: one constructor per row of spec/opcode_table.json. -/
inductive Instr where
  -- scalar arithmetic, compare, select, constants (R148 to R151)
  | add (c : CoreId) (o : AluForm)
  | sub (c : CoreId) (o : AluForm)
  | mul (c : CoreId) (o : AluForm)
  | and (c : CoreId) (o : AluForm)
  | or (c : CoreId) (o : AluForm)
  | xor (c : CoreId) (o : AluForm)
  | shl (c : CoreId) (o : AluForm)
  | shr (c : CoreId) (o : AluForm)
  | sar (c : CoreId) (o : AluForm)
  | cmp (c : CoreId) (o : AluForm)
  | sel (c : CoreId) (f : F0)
  | li (c : CoreId) (f : F1)
  | liHigh (c : CoreId) (f : F1)
  -- branches (R153, R154)
  | br (c : CoreId) (f : F1)
  | brIndirect (c : CoreId) (f : F1)
  | brc (c : CoreId) (f : F1)
  | call (c : CoreId) (f : F1)
  | callIndirect (c : CoreId) (f : F1)
  | ret (c : CoreId) (f : F0)
  -- special registers, scalar accesses (R152, R155 to R158)
  | getx (c : CoreId) (f : F1)
  | putx (c : CoreId) (f : F1)
  | ldS (c : CoreId) (f : F1) (ecc : Ecc)
  | stS (c : CoreId) (f : F1)
  | ldG (c : CoreId) (f : F1)
  | stG (c : CoreId) (f : F1)
  | ldGDataReturn (c : CoreId) (ecc : Ecc)
  | stGPerformed (c : CoreId) (i : Nat)
  -- waiting and ending (R130, R133, R170 to R175)
  | wait (c : CoreId) (f : F1)
  | waitRelease (c : CoreId)
  | fence (c : CoreId) (f : F1)
  | fenceRelease (c : CoreId)
  | bellWait (c : CoreId) (f : F1)
  | bellWaitRelease (c : CoreId)
  | yield (c : CoreId) (f : F1)
  | halt (c : CoreId) (f : F1)
  | threadEnd (c : CoreId)
  | trap (c : CoreId) (f : F1)
  | chainDef (c : CoreId) (f : F1)
  -- issue, start and completion of engine instructions (R88, R129, R136)
  | issueResume (c : CoreId)
  | engineStart (c : CoreId) (e : Engine) (bad : Option (Nat × Ecc))
  | instructionComplete (c : CoreId) (e : Engine) (i : Nat)
  -- crumb unit (R162 to R169)
  | aadd (c : CoreId) (v : Ev F0)
  | amax (c : CoreId) (v : Ev F0)
  | circSet (c : CoreId) (v : Ev F1)
  | circAdv (c : CoreId) (v : Ev F1)
  | crumbGet (c : CoreId) (v : Ev F3)
  -- bulk DMA (R159 to R161, R205 to R221)
  | bulkGet (c : CoreId) (v : Ev F3)
  | bulkPut (c : CoreId) (v : Ev F3)
  | send (c : CoreId) (v : Ev F3)
  | rsum (c : CoreId) (v : Ev F3)
  | bcast (c : CoreId) (v : Ev F3)
  | kvAlloc (c : CoreId) (v : Ev F3)
  | kvFree (c : CoreId) (v : Ev F3)
  | ptEdit (c : CoreId) (v : Ev F3)
  | pfxLookup (c : CoreId) (v : Ev F3)
  | pfxInsert (c : CoreId) (v : Ev F3)
  | pfxRelease (c : CoreId) (v : Ev F3)
  -- arrays, SFU, attention (R182 to R204)
  | mm (c : CoreId) (v : Ev F2)
  | mmAcc (c : CoreId) (v : Ev F3)
  | pralineSpill (c : CoreId) (v : Ev F2)
  | vop (c : CoreId) (v : Ev F2)
  | softmax (c : CoreId) (v : Ev F2)
  | convert (c : CoreId) (v : Ev F2)
  | transpose (c : CoreId) (v : Ev F2)
  | tallyClose (c : CoreId) (v : Ev F3)
  | norm (c : CoreId) (v : Ev F3)
  | tallyWaitEnd (c : CoreId) (e : Engine)
  | attnFwd (c : CoreId) (v : Ev F3)
  | attnBwd (c : CoreId) (v : Ev F3)
  | sortb (c : CoreId) (v : Ev F3)
  -- hall pass and circular regions (R111 to R113, R285)
  | hallPassGrant (slot : SlotId)
  | slotFilled (c : CoreId) (r : BitVec 4) (k : BitVec 16)
  | circFullWaitEnd (c : CoreId) (r : BitVec 4)
  | circEmptyWaitEnd (c : CoreId) (r : BitVec 4)
  -- channel controllers and adders (R318 to R327)
  | granulePerformed (ch : ChanId) (ecc : Ecc)
  | crumbServed (ch : ChanId) (ecc : Ecc)
  | adderPiece (ch : ChanId) (ecc : Ecc)
  | patrolScrub (u : BitVec 34) (ecc : Ecc)
  -- library tier (R329 to R337)
  | migrationComplete (k : BitVec 20)
  | libReadError (page : BitVec 20) (how : LibErr)
  | dropComplete (k : BitVec 20)
  | libOpen (page count : BitVec 20)
  | libWrite (page count : BitVec 20)
  | libSeal (page count : BitVec 20)
  | libPrefetch (first count : BitVec 20)
  | libDrop (first count : BitVec 20)
  | libRepair (page count : BitVec 20)
  | libCommandDone
  | memTlbFlush (v : Word)
  | tlbFlushDone
  | memImport (i : BitVec 4) (second : Bool) (v : Word)
  -- KV allocator (R283, R289 to R295, R418)
  | kvAssign (slot : SlotId) (ctx : CtxId)
  | kvUnassign (slot : SlotId)
  | kvLeave (slot : SlotId)
  | kvEvictable (slot : SlotId) (on : Bool)
  | kvCommit
  | commitResume
  | kvEdit (slot : SlotId)
  | kvFlush (pool : SlotId)
  | kvPoolEnable (p : BitVec 4) (v : Word)
  | poolReady (p : BitVec 4)
  -- contexts and the Timetable (R377, R387 to R399)
  | ctxStart (ctx : CtxId)
  | ctxRefresh (ctx : CtxId)
  | ctxStop (ctx : CtxId)
  | ctxKill (ctx : CtxId)
  | timetableScan
  | sliceEnd (c : CoreId)
  | coreSwitch (c : CoreId)
  | teardownCleanup (ctx : CtxId)
  | reportCardClose
  | finalReportCard (ctx : CtxId)
  | arrivalQueueRoom (ctx : CtxId) (die : Bool)
  | idleEntry
  | coreCtrlOffline (c : CoreId)
  | coreCtrlReturn (c : CoreId)
  | returnSequence (u : UnitId)
  | unitInternalError (u : UnitId)
  -- links, routing and packets (R347 to R368)
  | fillDefault
  | reroute
  | retrain (p : PortId) (v : Word)
  | laneTraining (p : PortId) (lanes : BitVec 5)
  | hello (p : PortId) (msg : ControlFlit)
  | measure (p : PortId) (msg : ControlFlit) (at4 : Stamp)
  | ready (p : PortId) (msg : ControlFlit)
  | messageRepeat (p : PortId)
  | rollCallTimeout (p : PortId)
  | dataFlit (p : PortId) (flit : BitVec 2048)
  | idleFlit (p : PortId) (flit : BitVec 2048)
  | laneLockLost (p : PortId)
  | portOutTimeout (p : PortId)
  | readPacket (i : Nat) (ecc : Ecc)
  | writePacket (i : Nat)
  | crumbReadPacket (i : Nat) (ecc : Ecc)
  | atomicAddPacket (i : Nat)
  | sendPacket (i : Nat)
  | pralineReducePacket (i : Nat)
  | readDataPacket (i : Nat)
  | donePacket (i : Nat)
  | unroutablePacket (i : Nat)
  -- bell (R370 to R373)
  | bellExchangeTimer (p : PortId)
  | bellMessage (p : PortId) (msg : ControlFlit) (at4 : Stamp)
  | bellSet (v : Word)
  -- sleep, power, heat and start-up (R426 to R449)
  | sleep (p : PortId) (msg : ControlFlit)
  | doze
  | hibernate
  | sleepEntryComplete
  | wakeTimer
  | wakeEthernet (n : Bool)
  | sleepExitComplete
  | powerSample (r : PowerReading)
  | tempoMeterSample (steps : List Nat)
  | thermalSample (r : ThermalReading)
  | thermalCeilingStep
  | pwrInstall (v : Word)
  | installCopyDone
  | underVoltage (vinMv : Nat)
  | overVoltage
  | powerLoss
  | powerGood (r : StartReading)
  | resetAssert
  | resetRelease (r : StartReading)
  | startupDone
  | clockExcursion
  -- security monitor (R453 to R466)
  | meshCheck (broken : Bool)
  | lidCheck (broken : Bool)
  | attest (arg : BitVec 33)
  | extend (arg : BitVec 33) (m : BitVec 4)
  | load (arg : BitVec 33)
  | ownerSet (arg : BitVec 33)
  | secAlarmCfg (v : Word)
  -- control die (R405, R406, R473, R474)
  | wdtKick (cl : BitVec 2) (v : Word)
  | watchdogExpiry (cl : BitVec 2)
  | cdUncorr (hart : BitVec 4) (addr : Word) (code : Bool)
  | ucieModuleOut (u : BitVec 4)
  -- register writes and reads with an effect of their own (R10, R420, R421)
  | errLogCons (v : Word)
  | errAlert (v : Word)
  | thmTempoMeter (n : BitVec 3)
  | libEvents
  | lnkPortErr (p : PortId)
  | bellStatus
  | pwrPeak
  | pwrWakeCause
  | coreErr (c : CoreId)
  | errLogLost
  | errHbm
  | errSpad
  | errDiscard
  | errUcie
  | errCd
  | perfSnap (v : Word)
  | snapValid
  | accessSize (off : BitVec 26) (size : Nat) (isWrite : Bool)
  | registerWrite (sp : RegSpace) (off : BitVec 26) (v : Word)
  -- management port, test port (R411, R487)
  | setdasa (addr : BitVec 7) (dyn : BitVec 7)
  | entdaa (dyn : BitVec 7) (won : Bool)
  | mgtRead (what : MgtItem)
  | tapBypass (tdi : Bool)
  | tapIdcode
  | tapSamplePreload (pins : BitVec 9) (preload : BitVec 9)
  | tapExtest
  | evbinTestUnlock (block : List Byte)
  | privateInstruction (ev : TapEvent)
  -- Ethernet and PCIe (R408 to R410)
  | ethFrameRx (n : Bool) (frame : List Byte) (stamp : Word)
  | ethFrameTx (n : Bool) (ring : BitVec 6) (stamp : Word)
  | pcieLinkTraining (x16 x8 : Bool) (rate : BitVec 8)
  | pcieBarAccess (bar : BitVec 3) (off : Word) (size : Nat) (val : Option Word)
  | reservedOpcode (c : CoreId) (w : Word)
  | secCommandDone
  | pcieHotReset
  | ucieRetry (u : BitVec 4)
  | eraseComplete
  deriving DecidableEq, Repr

end Sys2Proof
end

