-- ==== Sys2Proof/Decode.lean ====
section
/-! DEFINITION. The words of an instruction: the opcode maps (Tables 7.1, 7.2 and 8.1), the formats (R124) and the field layouts
(Tables 6.3 to 6.6). A sequencer fetches these words; the command that a word stands for reaches the module through the queue of
State. Every row of spec/opcode_table.json gives no bits ("fields" is empty in all 211 rows), so no word of the table's own
spells a command. -/
namespace Sys2Proof

/-- Format F0 (Table 6.3). -/
def wordF0 (w : Word) : F0 :=
  ⟨w.extractLsb 55 52, w.extractLsb 51 47, w.extractLsb 46 42, w.extractLsb 41 37, w.extractLsb 36 32, w.extractLsb 31 28,
   w.extractLsb 27 20, w.extractLsb 19 0⟩

/-- Format F1 (Table 6.4). -/
def wordF1 (w : Word) : F1 :=
  ⟨w.extractLsb 55 52, w.extractLsb 51 47, w.extractLsb 46 42, w.extractLsb 41 36, w.extractLsb 35 32, w.extractLsb 31 0⟩

/-- Format F2, and the first word of F3 (Table 6.5). -/
def wordF2 (w : Word) : F2 :=
  ⟨w.extractLsb 55 52, w.extractLsb 51 48, w.extractLsb 47 44, w.extractLsb 43 40, w.extractLsb 39 36, w.extractLsb 35 33,
   w.extractLsb 32 31, w.extractLsb 30 29, w.extractLsb 28 24, w.extractLsb 23 0⟩

/-- Format F3 (Tables 6.5 and 6.6). -/
def wordF3 (w v : Word) : F3 :=
  ⟨wordF2 w, v.extractLsb 63 60, v.extractLsb 59 56, v.extractLsb 55 51, v.extractLsb 50 46, v.extractLsb 45 41, v.extractLsb 40 36,
   v.extractLsb 35 0⟩

/-- The major opcode of a word. -/
def opcodeOf (w : Word) : Nat := (w.extractLsb 63 56).toNat

/-- An F3 opcode: the instruction takes two words (R124). -/
def isF3 (w : Word) : Bool := decide (0xC0 ≤ opcodeOf w)

/-- The arithmetic row of a minor opcode; one that Table 7.2 does not list is a word of the first row, which faults on it. -/
def aluInstr (c : CoreId) (minor : Nat) (o : AluForm) : Instr :=
  match minor with
  | 1 => .sub c o
  | 2 => .mul c o
  | 3 => .and c o
  | 4 => .or c o
  | 5 => .xor c o
  | 6 => .shl c o
  | 7 => .shr c o
  | 8 => .sar c o
  | _ => .add c o

/-- The opcodes of format F0 (Table 7.1). -/
def instrF0 (c : CoreId) (op : Nat) (f : F0) : Option Instr :=
  match op with
  | 0x01 => some (aluInstr c f.sub.toNat (.reg f))
  | 0x02 => some (.cmp c (.reg f))
  | 0x03 => some (.sel c f)
  | 0x04 => some (.ret c f)
  | 0x08 => some (.aadd c (.issue f))
  | 0x09 => some (.amax c (.issue f))
  | _ => none

/-- The opcodes of format F1 (Tables 7.1 and 8.1). -/
def instrF1 (c : CoreId) (op : Nat) (f : F1) : Option Instr :=
  match op with
  | 0x41 => some (aluInstr c f.sub.toNat (.imm f))
  | 0x42 => some (.cmp c (.imm f))
  | 0x43 => some (if f.sub = 1 then .liHigh c f else .li c f)
  | 0x44 => some (if f.sub = 1 then .brIndirect c f else .br c f)
  | 0x45 => some (.brc c f)
  | 0x46 => some (if f.sub = 1 then .callIndirect c f else .call c f)
  | 0x48 => some (.getx c f)
  | 0x49 => some (.putx c f)
  | 0x4A => some (.ldS c f .clean)
  | 0x4B => some (.stS c f)
  | 0x4C => some (.ldG c f)
  | 0x4D => some (.stG c f)
  | 0x4E => some (.chainDef c f)
  | 0x50 => some (.circSet c (.issue f))
  | 0x51 => some (.circAdv c (.issue f))
  | 0x58 => some (.wait c f)
  | 0x59 => some (.fence c f)
  | 0x5A => some (.bellWait c f)
  | 0x5B => some (.yield c f)
  | 0x5C => some (.halt c f)
  | 0x5D => some (.trap c f)
  | _ => none

/-- The opcodes of format F2 (Table 8.1). -/
def instrF2 (c : CoreId) (op : Nat) (f : F2) : Option Instr :=
  match op with
  | 0x80 => some (.mm c (.issue f))
  | 0x81 => some (.pralineSpill c (.issue f))
  | 0x84 => some (.vop c (.issue f))
  | 0x85 => some (.softmax c (.issue f))
  | 0x86 => some (.convert c (.issue f))
  | 0x87 => some (.transpose c (.issue f))
  | _ => none

/-- The opcodes of format F3 (Tables 7.1 and 8.1). -/
def instrF3 (c : CoreId) (op : Nat) (f : F3) : Option Instr :=
  match op with
  | 0xC0 => some (.bulkGet c (.issue f))
  | 0xC1 => some (.bulkPut c (.issue f))
  | 0xC2 => some (.crumbGet c (.issue f))
  | 0xC4 => some (.mmAcc c (.issue f))
  | 0xC8 => some (.tallyClose c (.issue f))
  | 0xC9 => some (.norm c (.issue f))
  | 0xD0 => some (.attnFwd c (.issue f))
  | 0xD1 => some (.attnBwd c (.issue f))
  | 0xD2 => some (.sortb c (.issue f))
  | 0xD8 => some (.kvAlloc c (.issue f))
  | 0xD9 => some (.kvFree c (.issue f))
  | 0xDA => some (.ptEdit c (.issue f))
  | 0xDB => some (.pfxLookup c (.issue f))
  | 0xDC => some (.pfxInsert c (.issue f))
  | 0xDD => some (.pfxRelease c (.issue f))
  | 0xE0 => some (.send c (.issue f))
  | 0xE1 => some (.rsum c (.issue f))
  | 0xE2 => some (.bcast c (.issue f))
  | _ => none

/-- The instruction that core `c` issues from a word, and from the word after it where the opcode is an F3 one; none where no
reference entry lists the opcode (R124, R144, R176). -/
def wordInstr (c : CoreId) (w v : Word) : Option Instr :=
  let op := opcodeOf w
  if op < 0x40 then instrF0 c op (wordF0 w)
  else if op < 0x80 then instrF1 c op (wordF1 w)
  else if op < 0xC0 then instrF2 c op (wordF2 w)
  else instrF3 c op (wordF3 w v)

/-- The opcode of a word is reserved: no reference entry lists it (R124). -/
def reservedOp (w : Word) : Bool := (wordInstr 0 w 0).isNone

/-- The command a word of `nbits` bits spells by the table: none, since no row gives bits. -/
def decodeTableWord (_nbits _w : Nat) : Option Instr := none

end Sys2Proof
end

