-- ==== Sys2Proof/Machine/Bits.lean ====
section
/-! DEFINITION. Bit fields, little-endian byte order (spec/00_scope.md R5, R6), sparse maps in one canonical form, and the
byte memories of the module. -/
namespace Sys2Proof.Machine

/-- Bits [hi:lo] of a number (R5). -/
def bitField (n hi lo : Nat) : Nat := (n >>> lo) % 2 ^ (hi + 1 - lo)

/-- Bits [hi:lo] of a 64-bit word (R5). -/
def fieldOf (w : Word) (hi lo : Nat) : Nat := bitField w.toNat hi lo

/-- Bit i of a number. -/
def bitAt (n i : Nat) : Bool := n.testBit i

/-- A number with bits [hi:lo] replaced by the low bits of `v`. -/
def putField (n hi lo v : Nat) : Nat :=
  n - (bitField n hi lo) * 2 ^ lo + (v % 2 ^ (hi + 1 - lo)) * 2 ^ lo

/-- A 32-bit immediate sign-extended to 64 bits (Table 6.4). -/
def sextImm (i : BitVec 32) : Word := i.signExtend 64

/-- Rounds `n` up to a multiple of `k`. -/
def roundUp (n k : Nat) : Nat := (n + k - 1) / k * k

/-- The ceiling of `n / k`. -/
def ceilDiv (n k : Nat) : Nat := (n + k - 1) / k

/-- The `len` bytes of `v`, byte 0 the least significant (R6). -/
def leBytes : (len v : Nat) → List Byte
  | 0, _ => []
  | len + 1, v => BitVec.ofNat 8 v :: leBytes len (v / 256)

/-- The number whose bytes are given, byte 0 the least significant (R6). -/
def ofLeBytes : List Byte → Nat
  | [] => 0
  | b :: t => b.toNat + 256 * ofLeBytes t

/-! Sparse maps: a list of keys and values, keys strictly rising. -/

abbrev SMap (α : Type) := List (Nat × α)

/-- The value at a key, if it is listed. -/
def mapGet {α : Type} : SMap α → Nat → Option α
  | [], _ => none
  | (k, v) :: t, a => if a = k then some v else if a < k then none else mapGet t a

/-- The map with a key set. -/
def mapSet {α : Type} : SMap α → Nat → α → SMap α
  | [], a, x => [(a, x)]
  | (k, v) :: t, a, x =>
    if a < k then (a, x) :: (k, v) :: t else if a = k then (a, x) :: t else (k, v) :: mapSet t a x

/-- The map with a key taken out. -/
def mapDel {α : Type} : SMap α → Nat → SMap α
  | [], _ => []
  | (k, v) :: t, a => if a < k then (k, v) :: t else if a = k then t else (k, v) :: mapDel t a

/-- A set of numbers as a strictly rising list. -/
abbrev NatSet := List Nat

def setHas : NatSet → Nat → Bool
  | [], _ => false
  | k :: t, a => if a = k then true else if a < k then false else setHas t a

def setAdd : NatSet → Nat → NatSet
  | [], a => [a]
  | k :: t, a => if a < k then a :: k :: t else if a = k then k :: t else k :: setAdd t a

def setDel : NatSet → Nat → NatSet
  | [], _ => []
  | k :: t, a => if a < k then k :: t else if a = k then t else k :: setDel t a

/-! Byte memories: addresses strictly rising, and no entry equal to what an unlisted address reads as. -/

abbrev Mem := List Host.Cell

/-- What an unlisted address reads as. Main memory: start-up zero-fills it (R447 row 10, R437). -/
def memDefault : Byte := 0

/-- One byte of a memory. -/
def memRead : Mem → Nat → Byte
  | [], _ => memDefault
  | (k, b) :: t, a => if a = k then b else if a < k then memDefault else memRead t a

/-- The memory with one byte written, in canonical form. -/
def memWrite : Mem → Nat → Byte → Mem
  | [], a, x => if x = memDefault then [] else [(a, x)]
  | (k, b) :: t, a, x =>
    if a < k then (if x = memDefault then (k, b) :: t else (a, x) :: (k, b) :: t)
    else if a = k then (if x = memDefault then t else (a, x) :: t)
    else (k, b) :: memWrite t a x

/-- `len` bytes from `a` up. -/
def memBytes (m : Mem) (a : Nat) : (len : Nat) → List Byte
  | 0 => []
  | len + 1 => memRead m a :: memBytes m (a + 1) len

/-- The memory with a list of bytes written from `a` up. -/
def memPut (m : Mem) : (a : Nat) → List Byte → Mem
  | _, [] => m
  | a, b :: t => memPut (memWrite m a b) (a + 1) t

/-- A little-endian field of `len` bytes at `a` (R6). -/
def memLoad (m : Mem) (a len : Nat) : Nat := ofLeBytes (memBytes m a len)

/-- The memory with a little-endian field of `len` bytes stored at `a` (R6). -/
def memStore (m : Mem) (a len v : Nat) : Mem := memPut m a (leBytes len v)

/-- Every entry of a memory lies at or above `lo`, the addresses rise strictly, and no entry holds the default. -/
def memWfFrom : Nat → Mem → Bool
  | _, [] => true
  | lo, (k, b) :: t => decide (lo ≤ k) && decide (b ≠ memDefault) && memWfFrom (k + 1) t

/-- The canonical form of a memory. -/
def memWf (m : Mem) : Bool := memWfFrom 0 m

/-- `f 0`, `f 1`, up to `f (n - 1)`. -/
def tabulate {α : Type} (n : Nat) (f : Nat → α) : List α := (List.range n).map f

end Sys2Proof.Machine
end

