-- ==== Sys2Proof/Machine/Numbers.lean ====
section
/-! DEFINITION. Number formats, exact values, rounding and the numeric flags: spec/03_number_formats.md R48 to R72. -/
namespace Sys2Proof.Machine

/-- The format codes of Table 3.1. -/
inductive Fmt where
  | fp32 | bf16 | fp16 | e4m3 | e5m2 | e3m2 | e2m3 | e2m1
  | int8 | uint8 | int4 | uint4 | w64 | praline
  | mxe4m3 | mxe5m2 | mxe3m2 | mxe2m3 | mxe2m1 | mxint8
  deriving DecidableEq, Repr

/-- The format a 5-bit code names; codes 0x0E to 0x12 and 0x19 to 0x1F are reserved (R48). -/
def fmtOfCode : Nat → Option Fmt
  | 0x00 => some .fp32 | 0x01 => some .bf16 | 0x02 => some .fp16 | 0x03 => some .e4m3
  | 0x04 => some .e5m2 | 0x05 => some .e3m2 | 0x06 => some .e2m3 | 0x07 => some .e2m1
  | 0x08 => some .int8 | 0x09 => some .uint8 | 0x0A => some .int4 | 0x0B => some .uint4
  | 0x0C => some .w64 | 0x0D => some .praline
  | 0x13 => some .mxe4m3 | 0x14 => some .mxe5m2 | 0x15 => some .mxe3m2 | 0x16 => some .mxe2m3
  | 0x17 => some .mxe2m1 | 0x18 => some .mxint8
  | _ => none

/-- Bits of one element, without the scale (Table 3.1). -/
def fmtBits : Fmt → Nat
  | .fp32 => 32 | .bf16 => 16 | .fp16 => 16 | .e4m3 => 8 | .e5m2 => 8 | .e3m2 => 6 | .e2m3 => 6 | .e2m1 => 4
  | .int8 => 8 | .uint8 => 8 | .int4 => 4 | .uint4 => 4 | .w64 => 64 | .praline => 128
  | .mxe4m3 => 8 | .mxe5m2 => 8 | .mxe3m2 => 6 | .mxe2m3 => 6 | .mxe2m1 => 4 | .mxint8 => 8

/-- The formats with a block scale. -/
def fmtIsMx : Fmt → Bool
  | .mxe4m3 | .mxe5m2 | .mxe3m2 | .mxe2m3 | .mxe2m1 | .mxint8 => true
  | _ => false

/-- Table 3.1, column Array input. -/
def fmtArrayInput : Fmt → Bool
  | .fp32 | .w64 | .praline => false
  | _ => true

/-- Table 3.1, column Vector and SFU input, without Praline's special roles. -/
def fmtVectorInput : Fmt → Bool
  | .praline => false
  | _ => true

/-- Table 3.1, column Stored output, without Praline's special role. -/
def fmtStoredOutput : Fmt → Bool
  | .praline => false
  | _ => true

/-- A floating-point layout of Table 3.2: exponent bits, fraction bits, bias, and what the top exponent codes. -/
structure FloatLayout where
  ebits : Nat
  tbits : Nat
  bias : Int
  /-- The format has infinities, with NaN at the top exponent and a nonzero fraction. -/
  hasInf : Bool
  /-- The format has NaN. -/
  hasNan : Bool
  deriving DecidableEq, Repr

/-- An element grid: a floating-point layout, or an integer of `width` bits with a unit of weight 2^`unit`. -/
inductive Layout where
  | float (l : FloatLayout)
  | int (width : Nat) (signed : Bool) (unit : Int)
  deriving DecidableEq, Repr

/-- The layout of each format's elements: Table 3.2 and the integer formats. W64 counts its 52 bits above [11:0]. -/
def fmtLayout : Fmt → Layout
  | .fp32 => .float ⟨8, 23, 127, true, true⟩
  | .bf16 => .float ⟨8, 7, 127, true, true⟩
  | .fp16 => .float ⟨5, 10, 15, true, true⟩
  | .e4m3 | .mxe4m3 => .float ⟨4, 3, 7, false, true⟩
  | .e5m2 | .mxe5m2 => .float ⟨5, 2, 15, true, true⟩
  | .e3m2 | .mxe3m2 => .float ⟨3, 2, 3, false, false⟩
  | .e2m3 | .mxe2m3 => .float ⟨2, 3, 1, false, false⟩
  | .e2m1 | .mxe2m1 => .float ⟨2, 1, 1, false, false⟩
  | .w64 => .float ⟨12, 39, 2047, true, true⟩
  | .int8 => .int 8 true 0
  | .uint8 => .int 8 false 0
  | .int4 => .int 4 true 0
  | .uint4 => .int 4 false 0
  | .mxint8 => .int 8 true (-6)
  | .praline => .int 128 false 0

/-- The class of a value (R58). -/
inductive Cls where
  | zero | fin | inf | nan
  deriving DecidableEq, Repr

/-- An exact value: (-1)^neg * n * 2^q when finite, with n > 0. -/
structure Val where
  cls : Cls
  neg : Bool
  n : Nat
  q : Int
  deriving DecidableEq, Repr

def valZero (neg : Bool) : Val := ⟨.zero, neg, 0, 0⟩
def valInf (neg : Bool) : Val := ⟨.inf, neg, 0, 0⟩
def valNan : Val := ⟨.nan, false, 0, 0⟩

/-- A finite value, or the zero of its sign. -/
def valFin (neg : Bool) (n : Nat) (q : Int) : Val := if n = 0 then valZero neg else ⟨.fin, neg, n, q⟩

/-- The four sticky flags of one engine: bit 0 overflow, 1 underflow, 2 inexact, 3 invalid (R68). -/
abbrev Flags := BitVec 4
def flOverflow : Flags := 1
def flUnderflow : Flags := 2
def flInexact : Flags := 4
def flInvalid : Flags := 8
def flIf (c : Bool) (f : Flags) : Flags := if c then f else 0

/-- The index of the highest set bit of a positive number. -/
def msbIndex (n : Nat) : Nat := n.log2

/-- `n * 2^k` for an exponent at or above zero, and the truncated quotient below zero. -/
def shiftInt (n : Nat) (k : Int) : Nat := if 0 ≤ k then n <<< k.toNat else n >>> (-k).toNat

/-- Decodes one element to its exact value; `xs` is the E8M0 scale of an MX block or of a page (R49, R55, R58). -/
def decodeVal (f : Fmt) (code : Nat) (xs : Option Nat) : Val :=
  if xs = some 0xFF then valNan else
  let scale : Int := match xs with | some x => (x : Int) - 127 | none => 0
  match fmtLayout f with
  | .float l =>
    let raw := if f = .w64 then code >>> 12 else code
    let s := raw.testBit (l.ebits + l.tbits)
    let x := bitField raw (l.ebits + l.tbits - 1) l.tbits
    let t := raw % 2 ^ l.tbits
    let top := 2 ^ l.ebits - 1
    if l.hasInf && x == top then (if t = 0 then valInf s else valNan)
    else if l.hasNan && !l.hasInf && x == top && t == 2 ^ l.tbits - 1 then valNan
    else if x = 0 then valFin s t (1 - l.bias - l.tbits + scale)
    else ⟨.fin, s, 2 ^ l.tbits + t, (x : Int) - l.bias - l.tbits + scale⟩
  | .int w signed unit =>
    let raw := code % 2 ^ w
    if signed && raw.testBit (w - 1) then ⟨.fin, true, 2 ^ w - raw, unit + scale⟩
    else valFin false raw (unit + scale)

/-- The stochastic generator (R65). -/
def srBits (seed : Word) (i j : BitVec 32) : Nat :=
  let tr : Word := (i >>> 7).setWidth 64
  let tc : Word := (j >>> 7).setWidth 64
  let ix : Word := (((i &&& 127) <<< 7) ||| (j &&& 127)).setWidth 64
  let x := seed ^^^ (tr * 0x8F3A6D21C4B90E57) ^^^ (tc * 0x5D17E2A9B36C4F81) ^^^ (ix * 0xE4C91B753A8D62F3)
  let x := x ^^^ (x >>> 31)
  let x := x * 0xA0F73C5E9B12D469
  let x := x ^^^ (x >>> 29)
  let x := x * 0xC6A4D3E17F285B0B
  let x := x ^^^ (x >>> 32)
  bitField x.toNat 47 32

/-- The rounding mode of a conversion: RNE, RTZ, or SR with its 16-bit draw (R62). -/
inductive Rnd where
  | rne | rtz | sr (draw : Nat)
  deriving DecidableEq, Repr

/-- The rounding a 2-bit code names at output position (i, j); code 3 is reserved. -/
def rndOf (code : BitVec 2) (seed : Word) (i j : BitVec 32) : Rnd :=
  if code = 1 then .rtz else if code = 2 then .sr (srBits seed i j) else .rne

/-- The result of rounding a magnitude: k * 2^lsb, and whether bits were discarded. -/
structure Rounded where
  k : Nat
  lsb : Int
  inexact : Bool
  deriving DecidableEq, Repr

/-- R62 on the grid of weight 2^lsb: `prec` is P for a floating-point destination. -/
def roundAt (prec : Option Nat) (lsb : Int) (mode : Rnd) (n : Nat) (q : Int) : Rounded :=
  let sh := lsb - q
  if sh ≤ 0 then ⟨n <<< (-sh).toNat, lsb, false⟩ else
  let w := sh.toNat
  let k := n >>> w
  let rem := n % 2 ^ w
  let up : Bool := match mode with
    | .rne => decide (2 * rem > 2 ^ w) || (decide (2 * rem = 2 ^ w) && k.testBit 0)
    | .rtz => false
    | .sr d => decide (0x10000 ≤ (if 16 ≤ w then rem >>> (w - 16) else rem <<< (16 - w)) + d)
  let k := if up then k + 1 else k
  match prec with
  | some p => if k = 2 ^ p then ⟨2 ^ (p - 1), lsb + 1, rem ≠ 0⟩ else ⟨k, lsb, rem ≠ 0⟩
  | none => ⟨k, lsb, rem ≠ 0⟩

/-- R62: rounds the magnitude n * 2^q, n > 0, to a layout's grid. -/
def roundMag (l : Layout) (mode : Rnd) (n : Nat) (q : Int) : Rounded :=
  match l with
  | .float f =>
    let p := f.tbits + 1
    roundAt (some p) (max ((msbIndex n : Int) + q) (1 - f.bias) - f.tbits) mode n q
  | .int _ _ unit => roundAt none unit mode n q

/-- The largest finite magnitude with the given sign, as k * 2^lsb (Table 3.2, integer ranges). -/
def maxFinite (l : Layout) (neg : Bool) : Nat × Int :=
  match l with
  | .float f =>
    let top : Int := 2 ^ f.ebits - 1
    if f.hasInf then (2 ^ (f.tbits + 1) - 1, top - 1 - f.bias - f.tbits)
    else if f.hasNan then (2 ^ (f.tbits + 1) - 2, top - f.bias - f.tbits)
    else (2 ^ (f.tbits + 1) - 1, top - f.bias - f.tbits)
  | .int w signed unit =>
    if signed then (if neg then 2 ^ (w - 1) else 2 ^ (w - 1) - 1, unit)
    else (if neg then 0 else 2 ^ w - 1, unit)

/-- k1 * 2^e1 > k2 * 2^e2. -/
def magGt (k1 : Nat) (e1 : Int) (k2 : Nat) (e2 : Int) : Bool :=
  let e := min e1 e2
  decide (k1 <<< (e1 - e).toNat > k2 <<< (e2 - e).toNat)

/-- The bits of a finite k * 2^lsb that lies on a layout's grid, before W64's reserved bits are added. -/
def packFinite (l : Layout) (neg : Bool) (k : Nat) (lsb : Int) : Nat :=
  match l with
  | .float f =>
    let s := if neg then 2 ^ (f.ebits + f.tbits) else 0
    if k ≥ 2 ^ f.tbits then s + (lsb + f.tbits + f.bias).toNat * 2 ^ f.tbits + (k - 2 ^ f.tbits) else s + k
  | .int w _ _ => if neg then (2 ^ w - k % 2 ^ w) % 2 ^ w else k % 2 ^ w

/-- Element bits as stored: W64 keeps its 12 reserved low bits zero (R56). -/
def storedBits (f : Fmt) (raw : Nat) : Nat := if f = .w64 then raw <<< 12 else raw

/-- The bits of an infinity, for a layout that has one. -/
def infBits (l : FloatLayout) (neg : Bool) : Nat :=
  (if neg then 2 ^ (l.ebits + l.tbits) else 0) + (2 ^ l.ebits - 1) * 2 ^ l.tbits

/-- The canonical NaN of Table 3.2. -/
def nanBits (l : FloatLayout) : Nat :=
  if l.hasInf then (2 ^ l.ebits - 1) * 2 ^ l.tbits + 2 ^ (l.tbits - 1)
  else 2 ^ (l.ebits + l.tbits) - 1

/-- The largest or smallest value a format holds, as bits. -/
def maxBits (f : Fmt) (neg : Bool) : Nat :=
  let m := maxFinite (fmtLayout f) neg
  storedBits f (packFinite (fmtLayout f) neg m.1 m.2)

/-- The zero of a sign; integers have one zero. -/
def zeroBits (f : Fmt) (neg : Bool) : Nat := storedBits f (packFinite (fmtLayout f) neg 0 0)

/-- Table 3.6, from NaN. -/
def writeNan (f : Fmt) : Nat × Flags :=
  match fmtLayout f with
  | .float l => if l.hasNan then (storedBits f (nanBits l), 0) else (0, flInvalid)
  | .int _ _ _ => (0, flInvalid)

/-- Table 3.6, from an infinity. -/
def writeInf (f : Fmt) (neg : Bool) : Nat × Flags :=
  match fmtLayout f with
  | .float l => if l.hasInf then (storedBits f (infBits l neg), 0) else (maxBits f neg, flInvalid)
  | .int _ _ _ => (maxBits f neg, flInvalid)

/-- Table 3.5: the overflow result, with overflow and inexact (R63, R85). -/
def writeOverflow (f : Fmt) (mode : Rnd) (neg : Bool) : Nat × Flags :=
  match fmtLayout f with
  | .float l =>
    if l.hasInf && mode == .rne then (storedBits f (infBits l neg), flOverflow ||| flInexact)
    else (maxBits f neg, flOverflow ||| flInexact)
  | .int _ _ _ => (maxBits f neg, flOverflow ||| flInexact)

/-- The exact value lies below the layout's smallest normal value (Table 3.9, underflow). -/
def belowNormal (l : Layout) (n : Nat) (q : Int) : Bool :=
  match l with
  | .float f => decide ((msbIndex n : Int) + q < 1 - f.bias)
  | .int _ _ _ => false

/-- Writes the rounded magnitude with its sign (R63) and the flags of Table 3.9; `n`, `q` are the exact magnitude. -/
def writeRounded (f : Fmt) (mode : Rnd) (neg : Bool) (n : Nat) (q : Int) (r : Rounded) : Nat × Flags :=
  let l := fmtLayout f
  let m := maxFinite l neg
  if magGt r.k r.lsb m.1 m.2 then writeOverflow f mode neg
  else (storedBits f (packFinite l neg r.k r.lsb),
    flIf r.inexact flInexact ||| flIf (r.inexact && belowNormal l n q) flUnderflow)

/-- W64 outputs round to nearest-even whatever the code says (R57). -/
def modeFor (f : Fmt) (mode : Rnd) : Rnd := if f = .w64 then .rne else mode

/-- Converts an exact value to a format without a block scale (R62 to R64). -/
def encodeVal (f : Fmt) (mode : Rnd) (v : Val) : Nat × Flags :=
  let mode := modeFor f mode
  match v.cls with
  | .nan => writeNan f
  | .inf => writeInf f v.neg
  | .zero => (zeroBits f v.neg, 0)
  | .fin => writeRounded f mode v.neg v.n v.q (roundMag (fmtLayout f) mode v.n v.q)

/-- The exponent of the element format's largest power of two (R67). -/
def mxEmax : Fmt → Int
  | .mxe4m3 => 8 | .mxe5m2 => 15 | .mxe3m2 => 4 | .mxe2m3 => 2 | .mxe2m1 => 2 | _ => 0

/-- The floor of log2 of the largest magnitude of a list, if one is nonzero (R67 step 3). -/
def maxLog2 : List Val → Option Int
  | [] => none
  | v :: t =>
    let r := maxLog2 t
    if v.cls = .fin then
      let e := (msbIndex v.n : Int) + v.q
      match r with
      | some x => some (max e x)
      | none => some e
    else r

/-- One MX element after its block's scale is chosen (R67 steps 4 and 5): the clamp sets inexact, not overflow. -/
def encodeMxElem (f : Fmt) (scale : Nat) (mode : Rnd) (v : Val) : Nat × Flags :=
  let l := fmtLayout f
  match v.cls with
  | .fin =>
    let q := v.q - ((scale : Int) - 127)
    let r := roundMag l mode v.n q
    let m := maxFinite l false
    if magGt r.k r.lsb m.1 m.2 then (packFinite l v.neg m.1 m.2, flInexact)
    else (packFinite l v.neg r.k r.lsb,
      flIf r.inexact flInexact ||| flIf (r.inexact && belowNormal l v.n q) flUnderflow)
  | _ => (packFinite l v.neg 0 0, 0)

/-- Conversion of one block of results into an MX format (R67): element codes, scale byte, flags. Each value comes
with the rounding of its own position. -/
def encodeMxBlock (f : Fmt) (vs : List (Val × Rnd)) : List Nat × Nat × Flags :=
  if vs.any (fun p => p.1.cls = .nan || p.1.cls = .inf) then (vs.map (fun _ => 0), 0xFF, flInvalid) else
  let top := maxLog2 (vs.map Prod.fst)
  let sc : Nat × Flags := match top with
    | none => (0, 0)
    | some e =>
      let x := e - mxEmax f + 127
      if x > 254 then (0xFE, flOverflow) else if x < 0 then (0, 0) else (x.toNat, 0)
  let es := vs.map (fun p => encodeMxElem f sc.1 p.2 p.1)
  (es.map Prod.fst, sc.1, es.foldl (fun a e => a ||| e.2) sc.2)

/-! The wide form W: a value rounded to nearest-even at 40 significand bits within the W64 range (R56, R57). -/

/-- Rounds an exact value into W. -/
def toW (v : Val) : Val × Flags :=
  let r := encodeVal .w64 .rne v
  (decodeVal .w64 r.1 none, r.2)

/-- A signed count of units of weight 2^e as a value; zero is +0 (R59). -/
def valOfInt (i : Int) (e : Int) : Val := if i = 0 then valZero false else valFin (decide (i < 0)) i.natAbs e

/-- The signed significand of a finite or zero value in units of 2^e, for e at or below its exponent. -/
def intAt (v : Val) (e : Int) : Int :=
  match v.cls with
  | .fin => let m : Int := (v.n <<< (v.q - e).toNat : Nat); if v.neg then -m else m
  | _ => 0

/-- The exact sum of two values; infinities of both signs give NaN and invalid; an exact zero sum is +0 (R59). -/
def addExact (x y : Val) : Val × Flags :=
  if x.cls = .nan || y.cls = .nan then (valNan, 0)
  else if x.cls = .inf then
    (if y.cls = .inf && x.neg ≠ y.neg then (valNan, flInvalid) else (valInf x.neg, 0))
  else if y.cls = .inf then (valInf y.neg, 0)
  else if x.cls = .zero && y.cls = .zero then (valZero false, 0)
  else if x.cls = .zero then (y, 0)
  else if y.cls = .zero then (x, 0)
  else
    let e := min x.q y.q
    (valOfInt (intAt x e + intAt y e) e, 0)

def valNeg (x : Val) : Val := if x.cls = .nan then x else { x with neg := !x.neg }
def valAbs (x : Val) : Val := if x.cls = .nan then x else { x with neg := false }

/-- The exact product of two values; zero times infinity gives NaN and invalid. -/
def mulExact (x y : Val) : Val × Flags :=
  if x.cls = .nan || y.cls = .nan then (valNan, 0)
  else if (x.cls = .inf && y.cls = .zero) || (x.cls = .zero && y.cls = .inf) then (valNan, flInvalid)
  else
    let s := x.neg != y.neg
    if x.cls = .inf || y.cls = .inf then (valInf s, 0)
    else if x.cls = .zero || y.cls = .zero then (valZero s, 0)
    else (valFin s (x.n * y.n) (x.q + y.q), 0)

/-- An exact result rounded once into W, with both parts' flags. -/
def wRound (r : Val × Flags) : Val × Flags :=
  let w := toW r.1
  (w.1, r.2 ||| w.2)

def wAdd (x y : Val) : Val × Flags := wRound (addExact x y)
def wSub (x y : Val) : Val × Flags := wRound (addExact x (valNeg y))
def wMul (x y : Val) : Val × Flags := wRound (mulExact x y)

/-- x * 2^k (R57). -/
def wScale (x : Val) (k : Int) : Val × Flags :=
  match x.cls with
  | .fin => toW { x with q := x.q + k }
  | _ => (x, 0)

/-- The order of two values that are not NaN, with -0 below +0 (R61). -/
def valLt (x y : Val) : Bool :=
  let rank (v : Val) : Int := match v.cls with
    | .inf => if v.neg then -2 else 2
    | .fin => if v.neg then -1 else 1
    | _ => 0
  if rank x ≠ rank y then decide (rank x < rank y)
  else match x.cls with
    | .fin => let e := min x.q y.q; decide (intAt x e < intAt y e)
    | .zero => x.neg && !y.neg
    | _ => false

/-- MAX by R61. -/
def valMax (x y : Val) : Val :=
  if x.cls = .nan then y else if y.cls = .nan then x else if valLt x y then y else x

/-- MIN by R61. -/
def valMin (x y : Val) : Val :=
  if x.cls = .nan then y else if y.cls = .nan then x else if valLt y x then y else x

/-- The exact ratio num * 2^e / den with a sticky bit, as round_ratio forms it (R237). -/
def ratioMag (num : Nat) (e : Int) (den : Nat) : Nat × Int :=
  let bl (n : Nat) : Nat := if n = 0 then 0 else msbIndex n + 1
  let z := 64 + bl den - bl num
  let qt := (num <<< z) / den
  let rm := (num <<< z) % den
  (2 * qt + (if rm = 0 then 0 else 1), e - z - 1)

/-- The exact ratio num * 2^e / den, num > 0, rounded once to a format (R237, R62, R63). -/
def encodeRatio (f : Fmt) (mode : Rnd) (neg : Bool) (num : Nat) (e : Int) (den : Nat) : Nat × Flags :=
  let r := ratioMag num e den
  encodeVal f mode (valFin neg r.1 r.2)

end Sys2Proof.Machine
end

