-- ==== Sys2Proof/Config.lean ====
section
/-! DEFINITION. What one implementation fixes and the spec leaves open: uninterpreted constants. Nothing in Lean can evaluate
one or prove a value of it, so every statement holds for every value. Each is named in the assumption log. -/
namespace Sys2Proof.Config

/-- A fresh value each time: applied to State.fresh, which the step advances (log 5). -/
opaque freeWord : Nat → Word

/-- From which exact result on a special function gives a W value within the bound of R249: by function code, branch between
turning points, and W value (R247, R249; log 10). -/
opaque sfuPick : (code : Nat) → (branch : Int) → (value : Word) → Nat

/-- Ed448 verification in its pure form with an empty context (R452): public key, message, signature (log 11). -/
opaque ed448Verify : (key : List Byte) → (msg : List Byte) → (sig : List Byte) → Bool

/-- The Ed448 signature the security monitor makes with the module's identity key (R459, R460; log 11). -/
opaque identitySign : (msg : List Byte) → List Byte

/-- The 57-byte Evbin root public key in the control die's boot ROM (R453; log 11). -/
opaque rootKey : List Byte

/-- What Evbin wrote into this module's identity record (Table 18.4; log 11): the serial, per die its lot, wafer, place
and PUF_BIND, the stack serials, the public identity key, the signature. -/
opaque serial : List Byte
opaque dieLot : (die : Nat) → List Byte
opaque diePlace : (die : Nat) → List Byte
opaque pufBind : (die : Nat) → List Byte
opaque stackSerial : (stack : Nat) → List Byte
opaque deviceKey : List Byte
opaque identitySig : List Byte

/-- The key of the system area's tags, derived from the control die's PUF (R451; log 11). -/
opaque tagKey : List Byte

/-- The IDCODE of the test port (R487; log 12). -/
opaque idcode : BitVec 32

/-- The key of the Toeplitz hash that spreads received frames over the rings (R408; log 13). -/
opaque toeplitzKey : List Byte

end Sys2Proof.Config
end

