-- ==== Sys2Proof/Machine/Hash.lean ====
section
/-! DEFINITION. SHAKE256 of FIPS 202, which the spec names for digests, hashes and measurements (R296, R330, R452, R459), and the
CRC-64 of a flit (R346). -/
namespace Sys2Proof.Machine

/-- Round constants of Keccak-f[1600]. -/
def keccakRc : List Word :=
  [0x0000000000000001, 0x0000000000008082, 0x800000000000808A, 0x8000000080008000, 0x000000000000808B, 0x0000000080000001,
   0x8000000080008081, 0x8000000000008009, 0x000000000000008A, 0x0000000000000088, 0x0000000080008009, 0x000000008000000A]
  ++ [0x000000008000808B, 0x800000000000008B, 0x8000000000008089, 0x8000000000008003, 0x8000000000008002, 0x8000000000000080,
   0x000000000000800A, 0x800000008000000A, 0x8000000080008081, 0x8000000000008080, 0x0000000080000001, 0x8000000080008008]

/-- Rotation of lane x + 5y. -/
def keccakRot : List Nat :=
  [0, 1, 62, 28, 27, 36, 44, 6, 55, 20, 3, 10, 43] ++ [25, 39, 41, 45, 15, 21, 8, 18, 2, 61, 56, 14]

def rotl (w : Word) (n : Nat) : Word := (w <<< n) ||| (w >>> (64 - n))

def lane (a : List Word) (i : Nat) : Word := a.getD i 0

/-- One round: theta, rho, pi, chi, iota. -/
def keccakRound (a : List Word) (rc : Word) : List Word :=
  let c := tabulate 5 (fun x => lane a x ^^^ lane a (x + 5) ^^^ lane a (x + 10) ^^^ lane a (x + 15) ^^^ lane a (x + 20))
  let d := tabulate 5 (fun x => lane c ((x + 4) % 5) ^^^ rotl (lane c ((x + 1) % 5)) 1)
  let a := tabulate 25 (fun i => lane a i ^^^ lane d (i % 5))
  let b := tabulate 25 (fun i =>
    let x := i % 5
    let y := i / 5
    let j := (x + 3 * y) % 5 + 5 * x
    rotl (lane a j) (keccakRot.getD j 0))
  let e := tabulate 25 (fun i =>
    let x := i % 5
    let r := i - x
    lane b i ^^^ (~~~(lane b (r + (x + 1) % 5)) &&& lane b (r + (x + 2) % 5)))
  match e with
  | [] => []
  | h :: t => (h ^^^ rc) :: t

def keccak (a : List Word) : List Word := keccakRc.foldl keccakRound a

/-- The rate of SHAKE256 in bytes. -/
def shakeRate : Nat := 136

def xorBlock (a : List Word) (blk : List Byte) : List Word :=
  tabulate 25 (fun i => lane a i ^^^ BitVec.ofNat 64 (ofLeBytes ((blk.drop (8 * i)).take 8)))

/-- The padding: 0x1F, zeros, and 0x80 in the last byte. -/
def shakePad (n : Nat) : List Byte :=
  let k := shakeRate - n % shakeRate
  if k = 1 then [0x9F] else [0x1F] ++ List.replicate (k - 2) 0 ++ [0x80]

def absorb : (blocks : Nat) → List Word → List Byte → List Word
  | 0, a, _ => a
  | n + 1, a, m => absorb n (keccak (xorBlock a (m.take shakeRate))) (m.drop shakeRate)

def laneBytes (a : List Word) : List Byte := (a.map (fun w => leBytes 8 w.toNat)).flatten

/-- The first 64 bytes or fewer of SHAKE256. -/
def shake256 (m : List Byte) (len : Nat) : List Byte :=
  let p := m ++ shakePad m.length
  (laneBytes (absorb (p.length / shakeRate) (List.replicate 25 0) p)).take len

/-- KEY_ID of a public key (Table 18.1). -/
def keyId (key : List Byte) : List Byte := shake256 key 16

/-- The first `n` bytes of a byte string, zero-padded. -/
def padTo (n : Nat) (b : List Byte) : List Byte := (b ++ List.replicate n 0).take n

/-- The revision code of a die: this module is at revision A1 (R1, Table 16.4). -/
def dieRev : List Byte := [0xA1]

/-- DIEi of the identity record: lot, wafer, x, y, revision, zeros, PUF_BIND (Table 18.4). -/
def dieField (i : Nat) : List Byte :=
  padTo 8 (Config.dieLot i) ++ padTo 3 (Config.diePlace i) ++ dieRev ++ List.replicate 4 0 ++ padTo 16 (Config.pufBind i)

/-- The identity record Evbin wrote: 512 bytes as Table 18.4 lays them out (R459). -/
def builtRecord : List Byte :=
  [0x01, 0x00, 0, 0] ++ [0x45, 0x56, 0x42, 0x2D, 0x44, 0x51, 0x31, 0x36] ++ padTo 16 Config.serial
  ++ (tabulate 3 dieField).flatten ++ (tabulate 12 (fun j => padTo 16 (Config.stackSerial j))).flatten
  ++ padTo 57 Config.deviceKey ++ padTo 16 (keyId Config.rootKey) ++ List.replicate 9 0 ++ padTo 114 Config.identitySig

/-- One byte of the CRC-64 with the ECMA-182 polynomial, most significant bit first, eight steps. -/
def crcStep : (n : Nat) → Word → Word
  | 0, c => c
  | n + 1, c => crcStep n (if c.getLsbD 63 then (c <<< 1) ^^^ 0x42F0E1EBA9EA3693 else c <<< 1)

/-- CRC-64, initial value zero, no final inversion (R346). -/
def crc64 (m : List Byte) : Word := m.foldl (fun c b => crcStep 8 (c ^^^ ((b.setWidth 64 : Word) <<< (56 : Nat)))) 0

end Sys2Proof.Machine
end

