-- ==== Sys2Proof/Machine/State.lean ====
section
/-! DEFINITION. The state of the module as plain data, the two kinds of stop, and the state after reset. Every field names the
rule of spec/ that gives it; INVENTORY.md lists them with their reset values. A field the spec gives no reset value for holds
zero, none or empty (DESIGN CHOICE, log 4). -/
namespace Sys2Proof.Machine

/-- The kinds of engine instruction (Tables 7.1 and 8.1). -/
inductive Kind where
  | aadd | amax | circSet | circAdv | crumbGet
  | bulkGet | bulkPut | send | rsum | bcast
  | kvAlloc | kvFree | ptEdit | pfxLookup | pfxInsert | pfxRelease
  | mm | mmAcc | pralineSpill
  | vop | softmax | convert | transpose | tallyClose | norm
  | attnFwd | attnBwd | sortb
  deriving DecidableEq, Repr

/-- What a started or head instruction waits for before it goes on (Table 15.7). -/
inductive Why where
  | circFull (r : BitVec 4)
  | circEmpty (r : BitVec 4)
  | tally
  | hall (slot : SlotId)
  | commit
  | link
  deriving DecidableEq, Repr

/-- Where an instruction of an engine queue stands (R88, R129, R135). -/
inductive Phase where
  | queued
  | waiting (why : Why)
  | started
  | held (why : Why)
  | performed
  | finished
  deriving DecidableEq, Repr

/-- One work-list entry of an attention instruction after its snapshot (R200, R284). -/
structure Snap where
  slot : SlotId
  status : Nat
  entries : List Word
  deriving DecidableEq, Repr

/-- An engine instruction with the operands captured at issue (R145). -/
structure Item where
  kind : Kind
  serial : Nat
  addr : Word
  kt : BitVec 4
  sub : Nat
  ext : Nat
  rnd : BitVec 2
  eng : BitVec 2
  chn : BitVec 5
  anc : BitVec 12
  tdo : BitVec 256
  tdl : BitVec 256
  tdr : BitVec 256
  td3 : BitVec 256
  td4 : BitVec 256
  n1 : BitVec 5
  n2 : BitVec 5
  n3 : BitVec 5
  n4 : BitVec 5
  s1 : Word
  s2 : Word
  s3 : Word
  s4 : Word
  chain : List Word
  /-- The tile descriptors of the thread, which the stages of a chain name (R223). -/
  tds : List (BitVec 256)
  /-- The word that PT.EDIT with CAS captured (R210). -/
  cas : Word
  seed : Word
  torigin : Word
  phase : Phase
  /-- The second place of an instruction that names both arrays, in the queue of array B (R96). -/
  twin : Bool
  steps : Nat
  /-- Slots claimed as a producer: region and slot number (R111). -/
  claims : List (BitVec 4 × BitVec 16)
  /-- Slots read as a consumer: region and slot number (R113). -/
  reads : List (BitVec 4 × BitVec 16)
  /-- Requests of this instruction not yet performed (R131). -/
  out : Nat
  /-- Crumbs that have arrived, by index (R163). -/
  got : SMap (List Byte)
  /-- The step of a sequence of effects an instruction has reached (RSUM, attention). -/
  stage : Nat
  snaps : List Snap
  /-- The reader marks it holds (R284). -/
  marks : List SlotId
  /-- What an attention instruction has written, by work-list entry: scratchpad spans, and spans at global addresses (R258, R272). -/
  padOuts : List (Nat × Nat × Nat)
  globOuts : List (Nat × Word × Nat)
  deriving DecidableEq, Repr

/-- A scalar load from main memory that holds the sequencer (R158). `rec` names the weight record of its page. -/
structure Load where
  d : BitVec 5
  width : Nat
  sx : Bool
  chip : Option (BitVec 12)
  off : Nat
  wrec : Option Nat
  /-- The data a remote chip returned, or the status it answered. -/
  answer : Option (Nat × List Byte)
  deriving DecidableEq, Repr

/-- The words of an engine instruction (Tables 6.3 to 6.6). -/
inductive Op where
  | f0 (f : F0)
  | f1 (f : F1)
  | f2 (f : F2)
  | f3 (f : F3)
  deriving DecidableEq, Repr

/-- What holds issue (R130, R133, R158, R172, R174, R88, R128). -/
inductive Hold where
  | wait (k : BitVec 4) (n : Nat)
  | fence (mask : BitVec 7)
  | bellWait (d : BitVec 3) (t : Word)
  | halt
  | load (l : Load)
  | issue (kind : Kind) (op : Op)
  deriving DecidableEq, Repr

/-- A posted ST.G not yet performed (R132, R158). -/
structure Posted where
  chip : Option (BitVec 12)
  off : Nat
  width : Nat
  v : Word
  /-- The address of the ST.G. -/
  addr : Word
  /-- The TAG of the packet that carries it to another chip, until DONE has answered it. -/
  tag : Option (BitVec 16)
  deriving DecidableEq, Repr

/-- A circular region: CIRCn_CFG and CIRCn_PTR, and the slots filled ahead of TAIL (R109, R112). -/
structure Circ where
  baseW : BitVec 17
  slotW : BitVec 15
  slots : BitVec 9
  en : Bool
  head : BitVec 16
  tail : BitVec 16
  claim : BitVec 16
  broken : Bool
  filled : List (BitVec 16)
  deriving DecidableEq, Repr

/-- The architectural state of a thread (R118). -/
structure Thread where
  sregs : Vector Word 32
  preds : BitVec 8
  tds : Vector (BitVec 256) 16
  anchors : Vector (BitVec 12) 8
  tokens : Vector (BitVec 10) 16
  pc : Word
  flags : BitVec 16
  seed : Word
  torigin : Word
  circs : Vector Circ 16
  /-- Chain slots 1 to 31; one not listed is empty. -/
  chains : SMap (List Word)
  openTally : Int
  deriving DecidableEq, Repr

/-- A thread in its save frame (R396). -/
structure Saved where
  th : Thread
  queues : Vector (List Item) 6
  pad : Mem
  clean : NatSet
  deriving DecidableEq, Repr

/-- A seat of a core (R389). `saved` none: the thread has not run yet, or runs now. -/
structure Seat where
  ctx : CtxId
  /-- The launch entry index, modulo 2^32. -/
  entry : BitVec 32
  tag : BitVec 32
  /-- The save frame number (R376). -/
  frame : Nat
  pc : Word
  args : List Word
  fresh : Bool
  /-- The class the thread took at its last slice start: latency-critical (R377). -/
  lc : Bool
  /-- The peer grants the thread took at its last slice start (R377). -/
  peers : List Word
  saved : Option Saved
  deriving DecidableEq, Repr

/-- Why the slice of a running thread is ending (R135, R392, R393, R173, R414, R440, R397). -/
inductive Stop where
  | slice | preempt | yield | offline | sleep | ended | lost | teardown
  deriving DecidableEq, Repr

/-- Why and how a core is leaving service or coming back (R139, R141, R414). -/
inductive Leave where
  | stay | leaving | returning
  deriving DecidableEq, Repr

/-- A compute core (R88 to R142). -/
structure Core where
  th : Thread
  /-- The seat that runs. -/
  seat : Option (BitVec 2)
  stop : Option Stop
  /-- Bell ns for which started instructions have run on past the end of the slice (R395). -/
  late : Nat
  hold : Option Hold
  posted : List Posted
  queues : Vector (List Item) 6
  nextSerial : Nat
  pad : Mem
  clean : NatSet
  stepcnt : Word
  /-- Producers that wait for a slot, in the order they came: a region and an instruction's serial; none: the arrivals (R42, R43). -/
  line : List (BitVec 4 × Option Nat)
  seats : Vector (Option Seat) 4
  /-- The seat of each class that ran last: best-effort, latency-critical (R391). -/
  lastBe : BitVec 2
  lastLc : BitVec 2
  sliceEnd : Nat
  lastCtx : Option CtxId
  epoch : BitVec 16
  inService : Bool
  offline : Bool
  leave : Leave
  spadCorr : Nat
  spadUncorr : Nat
  discards : Nat
  deriving DecidableEq, Repr

/-- What a request of the memory network does at its controller (R159 to R166, R322). -/
inductive ReqOp where
  | toPad (scratch : Nat)
  | write (data : List Byte)
  | crumb (index : Nat)
  | piece (type : Nat) (isMax : Bool) (data : List Byte)
  deriving DecidableEq, Repr

/-- A granule, a crumb or an adder piece waiting at a channel controller or before it (R322). -/
structure Req where
  core : CoreId
  serial : Nat
  ctx : CtxId
  /-- Main-tier offset, or the offset within the page of weight record `wrec`. -/
  off : Nat
  wrec : Option Nat
  len : Nat
  op : ReqOp
  /-- The low 4 bits of the sender's epoch (R140). -/
  epoch : BitVec 4
  /-- It has passed its form's crumb lane (R323). -/
  lane : Bool
  deriving DecidableEq, Repr

/-- A Quaz packet (R349). -/
structure Packet where
  type : BitVec 4
  vc : BitVec 2
  detour : Bool
  dst : BitVec 12
  src : BitVec 12
  ctx : CtxId
  len : Nat
  tag : BitVec 16
  addr : BitVec 48
  sub : BitVec 4
  hops : BitVec 6
  data : List Byte
  deriving DecidableEq, Repr

/-- A packet waiting for an output port: the port it came by, as it was looked up, and as it will leave (R362, R365). -/
structure Queued where
  via : Option PortId
  pkt : Packet
  out : Packet
  deriving DecidableEq, Repr

/-- An arrival for a thread: a fragment of a SEND, from a packet or from a core of this module (R218, R352, R384). -/
structure Arrival where
  pkt : Packet
  /-- The port it came by; none for a transfer inside the module. -/
  port : Option PortId
  /-- The sending core and serial, inside the module. -/
  sender : Option (CoreId × Nat)
  deriving DecidableEq, Repr

/-- A transfer that has claimed its slot (R111, R114, R352). -/
structure Incoming where
  core : CoreId
  /-- The thread whose region claimed the slot: its context and seat (R218). -/
  ctx : CtxId
  seat : BitVec 2
  region : BitVec 4
  src : BitVec 12
  sender : Nat
  /-- The claimed slot; none when the transfer is written nowhere (R114). -/
  slot : Option (BitVec 16)
  next : Nat
  /-- The last fragment, once every byte is written: its sender is answered when the slot counts as filled. -/
  last : Option Arrival
  deriving DecidableEq, Repr

/-- A request sent to another chip that awaits its response (R349, R354). -/
structure Asked where
  tag : BitVec 16
  core : CoreId
  serial : Nat
  ctx : CtxId
  /-- What the answer is for: an item of a queue, the outstanding LD.G, or a posted ST.G. -/
  what : Nat
  /-- Scratch offset, or crumb index, of the data. -/
  place : Nat
  /-- Bytes of the packet's chunks. -/
  len : Nat
  /-- Answered UNROUTABLE: it stays pending (R368). -/
  lost : Bool
  deriving DecidableEq, Repr

/-- The open Report Card of a context (Table 15.6). -/
structure Card where
  step : Word
  tOpen : Nat
  merged : Nat
  launched : Nat
  ended : Nat
  slices : Nat
  preempted : Nat
  overrunNs : Nat
  kvGranted : Nat
  kvDeferred : Nat
  kvRefused : Nat
  slotsLost : Nat
  pfxHits : Nat
  stepsArray : Nat
  stepsAttn : Nat
  stepsSfu : Nat
  runNs : Nat
  /-- WAIT[1] to WAIT[18]. -/
  waits : SMap Nat
  deriving DecidableEq, Repr

/-- STATE of a context record (Table 15.1). -/
inductive CtxState where
  | off | active | draining | teardown
  deriving DecidableEq, Repr

/-- A teardown in progress (R397). -/
structure Teardown where
  cause : Nat
  t0 : Nat
  core : Option CoreId
  tag : BitVec 32
  grants : Word
  /-- The scratchpads are poisoned, the seats freed, the leaves are in the pending transaction. -/
  cleaned : Bool
  /-- The commit that applies the leaves is done. -/
  committed : Bool
  deriving DecidableEq, Repr

/-- A context (R375, R377, R384, R399). The master's fields are those read at START or REFRESH. -/
structure Ctx where
  state : CtxState
  cores : Word
  sliceNs : Nat
  lc : Bool
  ltBase : Nat
  ltLog2 : Nat
  rcLog2 : Nat
  rcBase : Nat
  saveBase : Nat
  maxt : Nat
  arqBase : Nat
  arqKib : Nat
  peers : List Word
  cons : BitVec 32
  /-- PROD as the last scan of the launch table found it (Table 15.7). -/
  seen : BitVec 32
  rcProd : BitVec 32
  debtNs : Nat
  threads : Nat
  rangeNoted : Bool
  card : Option Card
  /-- The card that the last boundary closed, until it is written (R399). -/
  old : Option Card
  /-- The open card becomes the final card (R399). -/
  closing : Bool
  tClose : Nat
  teardown : Option Teardown
  /-- Arrival queues of C0 and C1 (R384). -/
  arrivals0 : List Arrival
  arrivals1 : List Arrival
  deriving DecidableEq, Repr

/-- Slot states (Table 12.3). -/
inductive SlotState where
  | unassigned | idle | live | paused | failed | prefixLost
  deriving DecidableEq, Repr

/-- Who holds or waits for a hall pass (R284, R285). -/
structure Passer where
  /-- none: the master's EDIT. -/
  who : Option (CoreId × Nat)
  editor : Bool
  deriving DecidableEq, Repr

/-- A KV slot (R282, R284). -/
structure Slot where
  state : SlotState
  evictable : Bool
  ctx : CtxId
  length : Nat
  cap : Nat
  pt : Nat
  /-- The slot was IDLE when a loss reached it (R307). -/
  lostIdle : Bool
  marks : Nat
  holders : List Passer
  waiting : List Passer
  deriving DecidableEq, Repr

/-- A KV pool (R417). -/
structure Pool where
  base : Nat
  frame : Nat
  ns : Nat
  sets : Nat
  srec : Nat
  hdr : Nat
  defHdr : Nat
  en : Bool
  ready : Bool
  deriving DecidableEq, Repr

/-- KV_CTXc_A and KV_CTXc_B (R417). -/
structure KvCtx where
  pool : BitVec 4
  domain : BitVec 16
  idxB : BitVec 5
  idx : Nat
  deriving DecidableEq, Repr

/-- An edit: slot, stream, block, new entry. -/
structure Edit where
  slot : SlotId
  stream : Nat
  block : Nat
  entry : Word
  deriving DecidableEq, Repr

/-- A request of the pending transaction (R206 to R209). -/
structure KvReq where
  slot : SlotId
  ctx : CtxId
  release : Bool
  join : Bool
  master : Bool
  length : Nat
  /-- The place of its result word: another chip, or this module; and the offset. -/
  result : Option (Option (BitVec 12) × Nat)
  outcome : Option (Nat × Nat)
  deriving DecidableEq, Repr

/-- Library page states (R329). -/
inductive LibState where
  | erased | opened | sealed | lost
  deriving DecidableEq, Repr

/-- A library page (R329, R330). -/
structure LibPage where
  state : LibState
  written : Bool
  digest : List Byte
  deriving DecidableEq, Repr

/-- STATE of a port (Table 14.11). -/
inductive PortState where
  | down | training | rollCall | up | failed | disabled
  deriving DecidableEq, Repr

/-- A Quaz port (R343 to R373). -/
structure Port where
  state : PortState
  lanes : Nat
  partnerChip : BitVec 12
  partnerPort : BitVec 3
  mismatch : Bool
  lengthDm : Nat
  session : BitVec 8
  en : Bool
  halfOk : Bool
  expectChip : BitVec 12
  expectPort : BitVec 3
  expectEn : Bool
  fecCorr : Nat
  fecUncorr : Nat
  replays : Nat
  retrains : Nat
  sessionDiscards : Nat
  inService : Bool
  epoch : BitVec 16
  /-- Roll call: own proposal, kept session, partner's HELLO seen, its PROP, RESUME, exchanges done, sum of RTT. -/
  prop : BitVec 8
  firstProp : Bool
  kept : Option (BitVec 8)
  helloSeen : Bool
  helloRev : BitVec 8
  helloCap : BitVec 16
  partnerProp : BitVec 8
  resume : Bool
  partnerRx : BitVec 12
  exchanges : Nat
  rttSum : Int
  readySent : Bool
  /-- The last CONTROL message this port sends, byte 0 lowest (R357, R359). -/
  lastMsg : List Byte
  sleeping : Option (BitVec 8)
  sleepSent : Bool
  /-- It lost lane lock and has not been UP since, and when (R368). -/
  lostLock : Bool
  lostAt : Nat
  /-- DATA flits not yet acknowledged, oldest first: SEQ, payload, START, and the TAGs of this chip's requests in them (R347). -/
  replay : List (BitVec 12 × List Byte × BitVec 15 × List (BitVec 16))
  nextSeq : BitVec 12
  rxLast : BitVec 12
  nak : Bool
  replayCount : Nat
  /-- Flits handed to the lanes, oldest first. -/
  sent : List (List Byte)
  /-- Credit in chunks the partner grants, per VC, and credit to return. -/
  window : Vector Nat 4
  credit : Vector Nat 4
  owe : Vector Nat 4
  queue : List Queued
  /-- The VCs with a waiting packet, and per VC its sources (a port, or 6 for the local link engine), in the order of their
  requests (R42, R356). -/
  vcLine : List Nat
  srcLine : List (Nat × Nat)
  /-- Packets whose header broke R350; no register shows the count. -/
  badHeaders : Nat
  /-- Chunks of a packet not yet whole, and the data chunks still to come. -/
  partIn : List Byte
  partLeft : Nat
  /-- BELL exchange: last TX of the partner, its arrival here (1/64 ns), twice the last theta (1/64 ns), good exchanges. -/
  echoTx : Nat
  echoRx : Nat
  theta : Int
  good : Nat
  partnerRoot : Bool
  partnerLocked : Bool
  index : BitVec 16
  /-- PORTp and LENGTHp of roll call (R448). -/
  rcPort : Bool
  rcLength : Bool
  deriving DecidableEq, Repr

/-- The bell's state (R371). -/
inductive BellState where
  | free | locking | locked | holdover
  deriving DecidableEq, Repr

/-- The power and thermal block (R426 to R449). -/
structure Power where
  mode : Bool
  target0 : Nat
  target1 : Nat
  cap : Nat
  samples : List PowerReading
  peak : Nat
  capActive : Bool
  capFloor : Bool
  miss0 : Bool
  miss1 : Bool
  /-- Where the input lies: 0 in range, 1 in the low warning band, 2 in the high one (R428). -/
  vinBand : Nat
  lastOff : Nat
  wakeAt : Word
  wakeEn : BitVec 3
  wakeCause : BitVec 3
  installBase : Nat
  installBusy : Bool
  /-- The record being copied (R446). -/
  installCopy : List Byte
  installRefused : Bool
  rcResult : BitVec 18
  stateBusy : Bool
  stateResult : Bool
  stateOp : Nat
  /-- Rails of C0 and C1, and their cap and thermal ceilings, in 5 mV steps above 0.62 V (R431 to R435). -/
  rail0 : Nat
  rail1 : Nat
  capCeil0 : Nat
  capCeil1 : Nat
  thermCeil0 : Nat
  thermCeil1 : Nat
  throttle : Bool
  releasing : Bool
  emergency : Bool
  inletAt : Option Nat
  /-- Samples in a row that found a rail outside its window, by rail (Table 18.6). -/
  railOut : Vector Nat 8
  stackTemps : List Int
  libs : List Int
  dies : List Int
  inlet : Int
  /-- Per stack throttle level (R340). -/
  levels : Vector Nat 8
  /-- Per library stack: 0 full rate, 1 half rate, 2 serves nothing (R436). -/
  libLevels : Vector Nat 4
  /-- Tempo meters: the last 1 024 samples of the eight meters, newest first, and BELOW_FLOOR (R33). -/
  meters : List (List Nat)
  below : Vector Nat 8
  /-- Sleep: entry under way, wake kept, idle since. -/
  entering : Option Nat
  wakeKept : Option (BitVec 3)
  idleSince : Option Nat
  deriving DecidableEq, Repr

/-- An event record waiting in the internal buffer, or just formed (R422, R423). -/
structure Event where
  bell : Nat
  cls : Nat
  src : Nat
  code : Nat
  ctx : Option CtxId
  core : Option CoreId
  tag : BitVec 32
  addr : Nat
  detail : List Byte
  deriving DecidableEq, Repr

/-- The security monitor and the system area (R451 to R467). -/
structure Sec where
  helper : Bool
  wrappedKey : Bool
  ownerKey : Option (List Byte)
  floors : Vector (BitVec 16) 3
  levels : Vector Nat 9
  install : Option (List Byte)
  /-- The identity record (Table 18.4). -/
  identity : List Byte
  /-- Copies of items of the system area that do not read as last written, by 4 times the item's number plus the stack: the item
  and its tag (R451). -/
  copies : SMap (List Byte)
  /-- The installation record that start-up found good; a later one takes effect at the next start-up (R446). -/
  record : Option (List Byte)
  sensors : BitVec 9
  alarm : Nat
  identityOk : Bool
  meas : Vector (BitVec 512) 8
  svn1 : BitVec 16
  svn2 : BitVec 16
  busy : Bool
  result : Nat
  op : Nat
  /-- The result a running command will report, applied by SEC_COMMAND_DONE. -/
  pendingResult : Nat
  /-- A trip abandoned the running command: BUSY stays until the next start-up (R465). -/
  abandoned : Bool
  /-- Alarm records of a lock; the log holds 64 (R463). -/
  lockLog : List Event
  erasing : Bool
  sessionStore : Mem
  deriving DecidableEq, Repr

/-- The event log and the ERR block (R420 to R423). -/
structure Log where
  base : Nat
  log2 : Nat
  en : Bool
  mask : BitVec 5
  prod : BitVec 32
  cons : BitVec 32
  lostNotices : Nat
  lostOther : Nat
  alert : Bool
  buffer : List Event
  hbmCorr : Nat
  hbmUncorr : Nat
  spadCorr : Nat
  spadUncorr : Nat
  discardEpoch : Nat
  discardArrival : Nat
  ucieRetries : Nat
  ucieOut : BitVec 16
  cdCorr : Nat
  cdWatchdog : Nat
  deriving DecidableEq, Repr

/-- A cluster's watchdog (R473). -/
structure Watchdog where
  timeoutMs : Nat
  en : Bool
  stage : Nat
  counted : Nat
  deriving DecidableEq, Repr

/-- A frame in a receive ring: its bytes without the tag, its bell time stamp, and whether its IPv4 header, TCP and UDP checksums
are right (R408). -/
structure RxFrame where
  bytes : List Byte
  stamp : Word
  sums : Bool
  deriving DecidableEq, Repr

/-- An Ethernet port (R408). -/
structure Eth where
  mac : Option (BitVec 48)
  en : Bool
  /-- Per priority: the bell time until which the partner has paused it. -/
  pause : SMap Nat
  rx : SMap (List RxFrame)
  tx : SMap (List (List Byte))
  sent : List (List Byte × Word)
  deriving DecidableEq, Repr

/-- The PCIe endpoint (R409, R410). -/
structure Pcie where
  width : Nat
  rate : Nat
  bar0 : Mem
  bar2 : Option (Nat × Nat)
  bar4 : Bool
  /-- MSI-X vectors raised, oldest first. -/
  raised : List (BitVec 6)
  /-- Outbound windows: base in host memory and length; and the stores sent through them, oldest first. -/
  windows : SMap (Nat × Nat)
  toHost : List (Nat × List Byte)
  deriving DecidableEq, Repr

/-- The test port (R487, R488). -/
structure Tap where
  instr : Nat
  shiftOut : Bool
  bsr : BitVec 9
  bypass : Bool
  drive : Bool
  evbin : Bool
  deriving DecidableEq, Repr

/-- How far the module has come up (R427, R438, R447, R456, R463). -/
inductive Life where
  | off | inReset | starting | running | locked | bootStopped
  deriving DecidableEq, Repr

/-- PSTATE while running (R438). -/
inductive PState where
  | none | active | idle | doze | hibernate
  deriving DecidableEq, Repr

/-- The state of the module. -/
structure State where
  /-- Commands waiting, first in, first out. -/
  pending : List Instr
  /-- The free-value counter of the model (log 5). -/
  fresh : Nat
  /-- What the last read of a register, a port or a test register returned (log 7). -/
  rdata : Word
  /-- The module's bell, ns (R369, R373). -/
  bell : Nat
  life : Life
  pstate : PState
  boot : Nat
  straps : BitVec 3
  resetN : Bool
  powerGood : Bool
  reading : Option StartReading
  -- cores
  cores : SMap Core
  -- main memory (R308, R319, R322)
  mem : Mem
  memPoison : NatSet
  net : List Req
  /-- Per channel: the port served last, bulk and narrow (R322). -/
  lastBulk : SMap Nat
  lastNarrow : SMap Nat
  /-- Per form: the core its crumb lane served last (R323). -/
  laneLast : SMap Nat
  scrubAt : Nat
  -- MEM block (R317)
  wrecBase : Nat
  wrecCount : Nat
  flushBusy : Bool
  flushAll : Bool
  flushCtx : CtxId
  ttbase : SMap Word
  winA : SMap Word
  winB : SMap Word
  impA : SMap Word
  impB : SMap Word
  -- library tier (R328 to R337)
  lib : Mem
  libPages : SMap LibPage
  parity : NatSet
  libSrc : Nat
  libBusy : Bool
  libOp : Nat
  libResult : Nat
  libPendingResult : Nat
  libRetryOk : Nat
  libRebuilt : Nat
  libLost : Nat
  dropWait : NatSet
  /-- Pages in steps 1 and 2 of R331. -/
  libRetry : NatSet
  /-- Migrations asked for and not done, in the order they start on their library stacks: the record, whether a read demands it
  (R335). -/
  migs : List (Nat × Bool)
  /-- LPAGE and HPAGE of a record as its last migration took them (R335, R338). -/
  wlatch : SMap (Nat × Nat)
  /-- PAGE and COUNT of the library command that is BUSY. -/
  libPage0 : Nat
  libCount : Nat
  /-- 32-byte units whose atomics a form cache holds (R327). -/
  formLines : NatSet
  -- units out of service with their epochs; die epochs (R139)
  unitsOut : List (UnitId × BitVec 16)
  epoch0 : BitVec 16
  epoch1 : BitVec 16
  -- DEV block (R413)
  devScratch : Word
  intr : BitVec 4
  intrEn : BitVec 4
  -- contexts (R375, R415)
  ctxs : SMap Ctx
  ttCtxBase : Nat
  ttBusy : Bool
  ttResult : Bool
  ttOp : Nat
  ttCtx : CtxId
  -- KV (R417)
  pools : SMap Pool
  kvCtxs : SMap KvCtx
  slots : SMap Slot
  kvArg0 : Nat
  kvArg1 : Word
  kvArg2 : Word
  kvBusy : Bool
  kvResult : Bool
  kvOp : Nat
  kvSlot : SlotId
  kvStep : Word
  /-- Bell time of the last batch-step boundary (R289). -/
  kvBoundary : Nat
  kvTrans : List KvReq
  /-- The transaction a commit is applying; the boundary has passed (R294). -/
  kvCommitting : Option (List KvReq)
  /-- The master's EDIT that waits for a hall pass, with the word written (R283). -/
  kvEdit : Option (Edit × Word)
  retired : NatSet
  /-- Private sets in which an error was found, by pool and number, until they are scrubbed (R305). -/
  failedSets : NatSet
  -- links (R343 to R368)
  chipId : BitVec 12
  chipValid : Bool
  dims : BitVec 12
  routes : SMap (BitVec 8)
  ports : SMap Port
  /-- Packets delivered to this chip with the port they came by, oldest first. -/
  inbox : List (Option PortId × Packet)
  asked : List Asked
  nextTag : BitVec 16
  incoming : List Incoming
  /-- Packets that no route takes, with the port they came by: UNROUTABLE responses (R364), and packets that are not answered
  (R221, log 70). -/
  stuck : List (Option PortId × Packet)
  /-- Arrivals held at the link input (R384). -/
  heldIn : List Arrival
  -- bell (R370 to R373)
  bellRoot : Bool
  bellState : BellState
  bellRate : Int
  bellMax : Nat
  bellLost : Nat
  bellStepped : Bool
  /-- It slews toward a negative first offset (R370). -/
  bellSlew : Bool
  -- blocks
  power : Power
  sec : Sec
  log : Log
  wdts : SMap Watchdog
  hartErr : NatSet
  /-- The SRAM of the control die (R401). -/
  sram : Mem
  eths : SMap Eth
  pcie : Pcie
  mgtAddr : Option (BitVec 7)
  tap : Tap
  perf : SMap Nat
  perfCopy : SMap Nat
  /-- A snapshot is latched and SNAP_VALID has not risen yet (R421). -/
  snapPending : Bool
  snapValid : Bool
  deriving DecidableEq, Repr

/-- No command of this block ends in a fault: every error the spec describes is a next state (R137, R463, R469). -/
inductive Fault where
  deriving DecidableEq, Repr

/-- What the model refuses. Each is safe: the machine goes on, the model stops. -/
inductive Refusal where
  /-- An arm of exec without a meaning. -/
  | notModelled (mnemonic : String)
  /-- PRIVATE_INSTRUCTION in Evbin test mode or at board test, where the spec does not say what it does (R487). -/
  | privateTest
  deriving DecidableEq, Repr

def Circ.reset : Circ := ⟨0, 0, 0, false, 0, 0, 0, false, []⟩

/-- A thread's reset values (Table 6.1, R120). -/
def Thread.reset : Thread where
  sregs := .replicate 32 0
  preds := 1
  tds := .replicate 16 0
  anchors := .replicate 8 0
  tokens := .replicate 16 0
  pc := 0
  flags := 0
  seed := 0
  torigin := 0
  circs := .replicate 16 Circ.reset
  chains := []
  openTally := 0

/-- A core at reset: not in service, every scratchpad word poisoned (R108, Table 16.4). -/
def Core.reset : Core where
  th := Thread.reset
  seat := none
  stop := none
  late := 0
  hold := none
  posted := []
  queues := .replicate 6 []
  nextSerial := 0
  pad := []
  clean := []
  stepcnt := 0
  line := []
  seats := .replicate 4 none
  lastBe := 3
  lastLc := 3
  sliceEnd := 0
  lastCtx := none
  epoch := 0
  inService := false
  offline := false
  leave := .stay
  spadCorr := 0
  spadUncorr := 0
  discards := 0

def Card.reset : Card := ⟨0, 0, 0, 0, 0, 0, 0, 0, 0, 0, 0, 0, 0, 0, 0, 0, 0, []⟩

def Ctx.reset : Ctx where
  state := .off
  cores := 0
  sliceNs := 0
  lc := false
  ltBase := 0
  ltLog2 := 0
  rcLog2 := 0
  rcBase := 0
  saveBase := 0
  maxt := 0
  arqBase := 0
  arqKib := 0
  peers := []
  cons := 0
  seen := 0
  rcProd := 0
  debtNs := 0
  threads := 0
  rangeNoted := false
  card := none
  old := none
  closing := false
  tClose := 0
  teardown := none
  arrivals0 := []
  arrivals1 := []

def Slot.reset : Slot := ⟨.unassigned, false, 0, 0, 0, 0, false, 0, [], []⟩
def Pool.reset : Pool := ⟨0, 0, 0, 0, 0, 0, 0, false, false⟩
def KvCtx.reset : KvCtx := ⟨0, 0, 0, 0⟩
def LibPage.reset : LibPage := ⟨.erased, false, []⟩

def Port.reset : Port where
  state := .down
  lanes := 0
  partnerChip := 0
  partnerPort := 0
  mismatch := false
  lengthDm := 0
  session := 0
  en := false
  halfOk := false
  expectChip := 0
  expectPort := 0
  expectEn := false
  fecCorr := 0
  fecUncorr := 0
  replays := 0
  retrains := 0
  sessionDiscards := 0
  inService := true
  epoch := 0
  prop := 0
  firstProp := true
  kept := none
  helloSeen := false
  helloRev := 0
  helloCap := 0
  partnerProp := 0
  resume := false
  partnerRx := 0
  exchanges := 0
  rttSum := 0
  readySent := false
  lastMsg := []
  sleeping := none
  sleepSent := false
  lostLock := false
  lostAt := 0
  replay := []
  nextSeq := 0
  rxLast := 0xFFF
  nak := false
  replayCount := 0
  sent := []
  window := .replicate 4 0
  credit := .replicate 4 0
  owe := .replicate 4 0
  queue := []
  vcLine := []
  srcLine := []
  badHeaders := 0
  partIn := []
  partLeft := 0
  echoTx := 0
  echoRx := 0
  theta := 0
  good := 0
  partnerRoot := false
  partnerLocked := false
  index := 0
  rcPort := false
  rcLength := false

/-- Table 17.2; the rails stand at 0.75 V, 26 steps above 0.62 V (Table 17.1). -/
def Power.reset : Power where
  mode := true
  target0 := 0x5AA
  target1 := 0x5AA
  cap := 0x960
  samples := []
  peak := 0
  capActive := false
  capFloor := false
  miss0 := false
  miss1 := false
  vinBand := 0
  lastOff := 0
  wakeAt := 0
  wakeEn := 7
  wakeCause := 0
  installBase := 0
  installBusy := false
  installCopy := []
  installRefused := false
  rcResult := 0
  stateBusy := false
  stateResult := false
  stateOp := 0
  rail0 := 26
  rail1 := 26
  capCeil0 := 46
  capCeil1 := 46
  thermCeil0 := 46
  thermCeil1 := 46
  throttle := false
  releasing := false
  emergency := false
  inletAt := none
  railOut := .replicate 8 0
  stackTemps := .replicate 8 0
  libs := .replicate 4 0
  dies := .replicate 3 0
  inlet := 0
  levels := .replicate 8 0
  libLevels := .replicate 4 0
  meters := []
  below := .replicate 8 0
  entering := none
  wakeKept := none
  idleSince := none

/-- The security monitor; the alarm levels are the defaults of Table 18.6. -/
def Sec.reset : Sec where
  helper := true
  wrappedKey := true
  ownerKey := none
  floors := .replicate 3 0
  levels := ⟨#[3, 3, 2, 2, 2, 2, 2, 2, 1], by decide⟩
  install := none
  identity := builtRecord
  copies := []
  record := none
  sensors := 0
  alarm := 0
  identityOk := false
  meas := .replicate 8 0
  svn1 := 0
  svn2 := 0
  busy := false
  result := 0
  op := 0
  pendingResult := 0
  abandoned := false
  lockLog := []
  erasing := false
  sessionStore := []

def Log.reset : Log := ⟨0, 0, false, 0, 0, 0, 0, 0, false, [], 0, 0, 0, 0, 0, 0, 0, 0, 0, 0⟩

def Watchdog.reset : Watchdog := ⟨2000, true, 0, 0⟩
def Eth.reset : Eth := ⟨none, false, [], [], [], []⟩
def Pcie.reset : Pcie := ⟨0, 0, [], none, false, [], [], []⟩
def Tap.reset : Tap := ⟨0, false, 0, false, false, false⟩

/-- The module with its input good and RESET_N held low: every register at the reset value the spec gives (R427, R447). -/
def State.reset : State where
  pending := []
  fresh := 0
  rdata := 0
  bell := 0
  life := .inReset
  pstate := .none
  boot := 0
  straps := 0
  resetN := false
  powerGood := true
  reading := none
  cores := []
  mem := []
  memPoison := []
  net := []
  lastBulk := []
  lastNarrow := []
  laneLast := []
  scrubAt := 0
  wrecBase := 0
  wrecCount := 0
  flushBusy := false
  flushAll := false
  flushCtx := 0
  ttbase := []
  winA := []
  winB := []
  impA := []
  impB := []
  lib := []
  libPages := []
  parity := []
  libSrc := 0
  libBusy := false
  libOp := 0
  libResult := 0
  libPendingResult := 0
  libRetryOk := 0
  libRebuilt := 0
  libLost := 0
  dropWait := []
  libRetry := []
  migs := []
  wlatch := []
  libPage0 := 0
  libCount := 0
  formLines := []
  unitsOut := []
  epoch0 := 0
  epoch1 := 0
  devScratch := 0
  intr := 0
  intrEn := 0
  ctxs := []
  ttCtxBase := 0
  ttBusy := false
  ttResult := false
  ttOp := 0
  ttCtx := 0
  pools := []
  kvCtxs := []
  slots := []
  kvArg0 := 0
  kvArg1 := 0
  kvArg2 := 0
  kvBusy := false
  kvResult := false
  kvOp := 0
  kvSlot := 0
  kvStep := 0
  kvBoundary := 0
  kvTrans := []
  kvCommitting := none
  kvEdit := none
  retired := []
  failedSets := []
  chipId := 0
  chipValid := false
  dims := 0xFFF
  routes := []
  ports := []
  inbox := []
  asked := []
  nextTag := 0
  incoming := []
  stuck := []
  heldIn := []
  bellRoot := false
  bellState := .free
  bellRate := 0
  bellMax := 0
  bellLost := 0
  bellStepped := false
  bellSlew := false
  power := Power.reset
  sec := Sec.reset
  log := Log.reset
  wdts := []
  hartErr := []
  sram := []
  eths := []
  pcie := Pcie.reset
  mgtAddr := none
  tap := Tap.reset
  perf := []
  perfCopy := []
  snapPending := false
  snapValid := false

end Sys2Proof.Machine
end

