-- ==== Sys2Proof/Machine/Ops.lean ====
section
/-! DEFINITION. The named operations over the state: one home for every register file, map and memory; the event log
(R422, R423); faults and the start of a teardown (R137, R138, R397, R471); scratchpad and main memory with poison. -/
namespace Sys2Proof.Machine

/-! One entry of each map; an entry not listed is at reset. -/

def State.core (s : State) (c : CoreId) : Core := (mapGet s.cores c.toNat).getD Core.reset
def State.setCore (s : State) (c : CoreId) (k : Core) : State := { s with cores := mapSet s.cores c.toNat k }
def State.modCore (s : State) (c : CoreId) (f : Core → Core) : State := s.setCore c (f (s.core c))

def State.ctx (s : State) (c : CtxId) : Ctx := (mapGet s.ctxs c.toNat).getD Ctx.reset
def State.setCtx (s : State) (c : CtxId) (x : Ctx) : State := { s with ctxs := mapSet s.ctxs c.toNat x }
def State.modCtx (s : State) (c : CtxId) (f : Ctx → Ctx) : State := s.setCtx c (f (s.ctx c))

def State.slot (s : State) (n : SlotId) : Slot := (mapGet s.slots n.toNat).getD Slot.reset
def State.setSlot (s : State) (n : SlotId) (x : Slot) : State := { s with slots := mapSet s.slots n.toNat x }
def State.modSlot (s : State) (n : SlotId) (f : Slot → Slot) : State := s.setSlot n (f (s.slot n))

def State.pool (s : State) (p : BitVec 4) : Pool := (mapGet s.pools p.toNat).getD Pool.reset
def State.setPool (s : State) (p : BitVec 4) (x : Pool) : State := { s with pools := mapSet s.pools p.toNat x }
def State.modPool (s : State) (p : BitVec 4) (f : Pool → Pool) : State := s.setPool p (f (s.pool p))

def State.kvCtx (s : State) (c : CtxId) : KvCtx := (mapGet s.kvCtxs c.toNat).getD KvCtx.reset
def State.setKvCtx (s : State) (c : CtxId) (x : KvCtx) : State := { s with kvCtxs := mapSet s.kvCtxs c.toNat x }

def State.port (s : State) (p : PortId) : Port := (mapGet s.ports p.toNat).getD Port.reset
def State.setPort (s : State) (p : PortId) (x : Port) : State := { s with ports := mapSet s.ports p.toNat x }
def State.modPort (s : State) (p : PortId) (f : Port → Port) : State := s.setPort p (f (s.port p))

def State.libPage (s : State) (p : Nat) : LibPage := (mapGet s.libPages p).getD LibPage.reset
def State.setLibPage (s : State) (p : Nat) (x : LibPage) : State := { s with libPages := mapSet s.libPages p x }

def State.wdt (s : State) (c : BitVec 2) : Watchdog := (mapGet s.wdts c.toNat).getD Watchdog.reset
def State.setWdt (s : State) (c : BitVec 2) (x : Watchdog) : State := { s with wdts := mapSet s.wdts c.toNat x }

def State.eth (s : State) (n : Bool) : Eth := (mapGet s.eths n.toNat).getD Eth.reset
def State.setEth (s : State) (n : Bool) (x : Eth) : State := { s with eths := mapSet s.eths n.toNat x }

/-- A 64-bit register of a block of like registers; zero at reset. -/
def regOf (m : SMap Word) (i : Nat) : Word := (mapGet m i).getD 0

/-- The next free value; the counter advances (log 5). -/
def State.free (s : State) : Word × State := (Config.freeWord s.fresh, { s with fresh := s.fresh + 1 })

/-- `n` free bytes; the counter advances past them. -/
def State.freeBytes (s : State) (n : Nat) : List Byte × State :=
  (tabulate n (fun j => (Config.freeWord (s.fresh + j)).setWidth 8), { s with fresh := s.fresh + n })

/-- All numbers of cores. -/
def allCores : List CoreId := tabulate 64 (fun n => BitVec.ofNat 6 n)
def allCtxs : List CtxId := tabulate 64 (fun n => BitVec.ofNat 6 n)
def allPorts : List PortId := tabulate 6 (fun n => BitVec.ofNat 3 n)
def allPools : List (BitVec 4) := tabulate 16 (fun n => BitVec.ofNat 4 n)

/-- Adds to a count that saturates at `top`. -/
def satAdd (top n k : Nat) : Nat := min top (n + k)

/-- The die of a core (R18). -/
def coreDie (c : CoreId) : Bool := c.getLsbD 5

/-! Main memory (R308, R319, R320). Offsets are below 2^39. -/

/-- Units of 32 bytes that `len` bytes from `off` touch. -/
def unitsOf (off len : Nat) : List Nat := if len = 0 then [] else tabulate ((off + len - 1) / 32 - off / 32 + 1) (fun i => off / 32 + i)

/-- A byte of the range lies in a poisoned unit. -/
def State.poisoned (s : State) (off len : Nat) : Bool :=
  s.memPoison.any (fun u => decide (0 < len) && decide (32 * u < off + len) && decide (off < 32 * u + 32))

/-- The units a write covers whole (R320). -/
def wholeUnits (off len : Nat) : List Nat := (unitsOf off len).filter (fun u => decide (off ≤ 32 * u) && decide (32 * u + 32 ≤ off + len))

/-- A write to main memory; a unit it covers whole loses its poison (R320). -/
def State.write (s : State) (off : Nat) (bs : List Byte) : State :=
  { s with mem := memPut s.mem off bs, memPoison := (wholeUnits off bs.length).foldl setDel s.memPoison }

/-- A little-endian field stored in main memory. -/
def State.store (s : State) (off len v : Nat) : State := s.write off (leBytes len v)

/-- A little-endian field of main memory. -/
def State.fetch (s : State) (off len : Nat) : Nat := memLoad s.mem off len

/-- The entries of a memory from `lo` up to but not at `hi` taken out. -/
def memDrop (m : Mem) (lo hi : Nat) : Mem := m.filter (fun e => !(decide (lo ≤ e.1) && decide (e.1 < hi)))

/-- `len` bytes of `src` from `a` copied into `dst` at `b`. -/
def memCopy (dst src : Mem) (a b len : Nat) : Mem :=
  (src.filter (fun e => decide (a ≤ e.1) && decide (e.1 < a + len))).foldl
    (fun m e => memWrite m (b + (e.1 - a)) e.2) (memDrop dst b (b + len))

/-- Bytes `len` from `off` of main memory made zero, and their poison cleared. -/
def State.zero (s : State) (off len : Nat) : State :=
  { s with mem := memDrop s.mem off (off + len),
           memPoison := s.memPoison.filter (fun u => !(decide (off ≤ 32 * u) && decide (32 * u + 32 ≤ off + len))) }

/-- The range lies in the master carve-out (R310). -/
def inCarveOut (off len : Nat) : Bool :=
  decide (off + len ≤ 2 ^ 34) || (decide (2 ^ 38 ≤ off) && decide (off + len ≤ 2 ^ 38 + 2 ^ 34))

/-- The range touches the master carve-out (R310). -/
def touchesCarveOut (off len : Nat) : Bool :=
  decide (0 < len) && (decide (off < 2 ^ 34) || (decide (off < 2 ^ 38 + 2 ^ 34) && decide (2 ^ 38 < off + len)))

/-- Two ranges share a byte. -/
def overlap (a n b m : Nat) : Bool := decide (0 < n) && decide (0 < m) && decide (a < b + m) && decide (b < a + n)

/-- The channel controller of a main-tier offset (R309): 32 times the stack plus the channel within it. -/
def channelOf (off : Nat) : ChanId :=
  let c := (bitField off 17 11) ^^^ (bitField off 24 18) ^^^ (bitField off 31 25)
  BitVec.ofNat 8 (128 * bitField off 38 38 + c)

/-- The byte of a main-tier offset within its channel (R309). -/
def channelByte (off : Nat) : Nat := bitField off 37 18 * 2 ^ 11 + bitField off 10 0

/-! Performance counters and Report Card counters (R399, R421). -/

/-- Adds to the counter at an offset of the PERF block, modulo 2^64. -/
def State.count (s : State) (off k : Nat) : State :=
  { s with perf := mapSet s.perf off (((mapGet s.perf off).getD 0 + k) % 2 ^ 64) }

/-- Changes the open Report Card of a context, if one is open. -/
def State.modCard (s : State) (c : CtxId) (f : Card → Card) : State :=
  s.modCtx c (fun x => { x with card := x.card.map f })

/-- Adds to WAIT[w] of a context's open card (R400). -/
def State.addWait (s : State) (c : CtxId) (w k : Nat) : State :=
  s.modCard c (fun r => { r with waits := mapSet r.waits w (satAdd (2 ^ 64 - 1) ((mapGet r.waits w).getD 0) k) })

/-! The event log (R422, R423). -/

/-- The 64 bytes of an event record (Table 16.9). -/
def eventBytes (e : Event) (seq : Nat) : List Byte :=
  leBytes 8 e.bell ++ leBytes 4 seq ++ leBytes 1 e.cls ++ leBytes 1 e.src ++ leBytes 2 e.code
  ++ leBytes 1 (match e.ctx with | some c => 64 + c.toNat | none => 0)
  ++ leBytes 1 (match e.core with | some c => 64 + c.toNat | none => 0)
  ++ leBytes 2 0 ++ leBytes 4 e.tag.toNat ++ leBytes 8 e.addr
  ++ (e.detail ++ List.replicate 32 0).take 32

/-- Records the ring holds. -/
def logSize (l : Log) : Nat := 2 ^ (l.log2 + 6)

/-- The ring can take a record. -/
def logRoom (l : Log) : Bool := l.en && decide ((l.prod - l.cons).toNat < logSize l)

/-- Writes one record into the ring. -/
def State.logWrite (s : State) (e : Event) : State :=
  let seq := s.log.prod.toNat
  let s := s.write (s.log.base + 64 * (seq % logSize s.log)) (eventBytes e seq)
  { s with
    log := { s.log with prod := s.log.prod + 1, alert := s.log.alert || s.log.mask.getLsbD e.cls },
    intr := s.intr ||| 1 }

/-- Places of the notices of a buffer. -/
def noticePlaces (b : List Event) : List Nat := (List.range b.length).filter (fun i => (b[i]?.map (·.cls)) == some 0)

/-- Counts a record that is dropped (R422). -/
def countLost (l : Log) (cls : Nat) : Log :=
  if cls = 0 then { l with lostNotices := satAdd 0xFFFF l.lostNotices 1 } else { l with lostOther := satAdd 0xFFFF l.lostOther 1 }

/-- A record that the ring cannot take yet: it waits in the buffer of 1 024; which buffered notice makes room is open
(log 5). -/
def State.logBuffer (s : State) (e : Event) : State :=
  if s.log.buffer.length < 1024 then { s with log := { s.log with buffer := s.log.buffer ++ [e] } }
  else
    match noticePlaces s.log.buffer with
    | [] => { s with log := countLost s.log e.cls }
    | p :: ps =>
      let f := s.free
      let i := (p :: ps).getD (f.1.toNat % (p :: ps).length) p
      let l := countLost f.2.log 0
      { f.2 with log := { l with buffer := l.buffer.eraseIdx i ++ [e] } }

/-- Records an event (R422). -/
def State.logEvent (s : State) (e : Event) : State :=
  if logRoom s.log && s.log.buffer.isEmpty then s.logWrite e else s.logBuffer e

/-- Moves up to `n` buffered records into the ring as it has room. -/
def State.logDrain : (n : Nat) → State → State
  | 0, s => s
  | n + 1, s =>
    match s.log.buffer with
    | [] => s
    | e :: t => if logRoom s.log then State.logDrain n (State.logWrite { s with log := { s.log with buffer := t } } e) else s

/-- A record of the module itself. -/
def State.report (s : State) (cls src code addr : Nat) (detail : List Byte) : State :=
  s.logEvent ⟨s.bell, cls, src, code, none, none, 0, addr, detail⟩

def State.notice (s : State) (src code addr : Nat) (detail : List Byte) : State := s.report 0 src code addr detail
def State.error (s : State) (src code addr : Nat) (detail : List Byte) : State := s.report 3 src code addr detail

/-- A RESERVED_WRITE notice (R10, R13). -/
def State.reservedWrite (s : State) (off : Nat) (v : Word) : State := s.notice 2 0x0001 off (leBytes 8 v.toNat)

/-- A CMD_REFUSED notice. -/
def State.cmdRefused (s : State) (off : Nat) (v : Word) : State := s.notice 2 0x0002 off (leBytes 8 v.toNat)

/-! Context records: the module writes its fields through to the record (R375). -/

def ctxRecord (s : State) (c : CtxId) : Nat := s.ttCtxBase + 128 * c.toNat

def ctxStateCode : CtxState → Nat
  | .off => 0 | .active => 1 | .draining => 2 | .teardown => 3

/-- CONS, RC_PROD, DEBT_NS, STATE and THREADS of context `c`, bytes 80 to 93 of its record. -/
def State.syncCtx (s : State) (c : CtxId) : State :=
  let x := s.ctx c
  s.write (ctxRecord s c + 80)
    (leBytes 4 x.cons.toNat ++ leBytes 4 x.rcProd.toNat ++ leBytes 4 x.debtNs ++ leBytes 1 (ctxStateCode x.state) ++ leBytes 1 x.threads)

/-! Seats and the running thread. -/

/-- The seat that runs on a core. -/
def Core.running (k : Core) : Option Seat := k.seat.bind (fun i => k.seats[i.toFin])

/-- The context of the thread that runs on a core. -/
def Core.runCtx (k : Core) : Option CtxId := k.running.map (·.ctx)

/-- The instruction has begun and must complete (R135). -/
def phaseStarted : Phase → Bool
  | .queued => false
  | .waiting _ => false
  | _ => true

/-- The six engine queues by number: array A, array B, SFU, attention, DMA, crumb (Table 5.1). -/
def engFin : Engine → Fin 6
  | .arrayA => 0 | .arrayB => 1 | .sfu => 2 | .attn => 3 | .dma => 4 | .crumb => 5

def allEngines : List Engine := [.arrayA, .arrayB, .sfu, .attn, .dma, .crumb]

def Core.queue (k : Core) (e : Engine) : List Item := k.queues[engFin e]
def Core.setQueue (k : Core) (e : Engine) (q : List Item) : Core := { k with queues := k.queues.set (engFin e) q }

/-- A hall pass of an instruction in a list. -/
def passerOf (c : CoreId) (is : List Item) (x : Passer) : Bool := x.who.any (fun w => w.1 == c && is.any (fun i => i.serial == w.2))

/-- The instructions of a core that meet `p` give up their reader marks and hall passes (R284, R285). -/
def State.giveUp (s : State) (c : CoreId) (p : Item → Bool) : State :=
  let is := ((allEngines.map (s.core c).queue).flatten).filter (fun i => !i.twin && p i)
  let s := (is.map (·.marks)).flatten.foldl (fun s n => s.modSlot n (fun t => { t with marks := t.marks - 1 })) s
  { s with slots := s.slots.map (fun e => (e.1, { e.2 with
      holders := e.2.holders.filter (fun x => !passerOf c is x), waiting := e.2.waiting.filter (fun x => !passerOf c is x) })) }

/-- Keeps the started instructions of every queue. -/
def keepStarted (q : Vector (List Item) 6) : Vector (List Item) 6 := q.map (List.filter (fun i => phaseStarted i.phase))

/-- The core stops issue for a teardown and discards what has not started (R397). -/
def Core.tearStop (k : Core) : Core := { k with stop := some .teardown, hold := none, line := [], queues := keepStarted k.queues }

/-- Cores that run a thread of context `c` stop issue. -/
def State.tearCores (s : State) (c : CtxId) : State :=
  allCores.foldl (fun s n => if (s.core n).runCtx = some c then (s.giveUp n (fun i => !phaseStarted i.phase)).modCore n Core.tearStop else s) s

/-- Starts the teardown of a context (R397); a context that is OFF or in teardown already does not change (R471). -/
def State.tearDown (s : State) (c : CtxId) (cause : Nat) (core : Option CoreId) (tag : BitVec 32) : State :=
  match (s.ctx c).state with
  | .active | .draining =>
    let s := s.modCtx c (fun x => { x with state := .teardown, teardown := some ⟨cause, s.bell, core, tag, 0, false, false⟩ })
    (s.syncCtx c).tearCores c
  | _ => s

/-- A fault of context `c` (R137, R138): the FAULT record and the start of the teardown. -/
def State.faultCtx (s : State) (c : CtxId) (core : Option CoreId) (tag : BitVec 32) (cause : Nat) (addr : Word) (detail : List Byte) : State :=
  match (s.ctx c).state with
  | .active | .draining =>
    let src := match core with | some n => (coreDie n).toNat | none => 0
    (s.logEvent ⟨s.bell, 1, src, cause, some c, core, tag, addr.toNat, detail⟩).tearDown c cause core tag
  | _ => s

/-- A fault of the thread that runs on core `n`, by the instruction at `addr`. -/
def State.fault (s : State) (n : CoreId) (cause : Nat) (addr : Word) (detail : List Byte) : State :=
  match (s.core n).running with
  | some x => s.faultCtx x.ctx (some n) x.tag cause addr detail
  | none => s

/-! The causes of Table 6.8. -/
def cReserved : Nat := 0x01
def cFormat : Nat := 0x02
def cDescriptor : Nat := 0x03
def cAnchor : Nat := 0x04
def cBank : Nat := 0x05
def cPoison : Nat := 0x06
def cTranslation : Nat := 0x07
def cAlignment : Nat := 0x08
def cCircular : Nat := 0x09
def cStepLimit : Nat := 0x0A
def cShape : Nat := 0x0B
def cTally : Nat := 0x0C
def cTrap : Nat := 0x0D
def cUnitLost : Nat := 0x0E

/-! Registers of a thread. -/

/-- A scalar register; s0 reads zero (R119). -/
def Thread.s (t : Thread) (r : BitVec 5) : Word := if r = 0 then 0 else t.sregs[r.toFin]

/-- A write of a scalar register; one to s0 is discarded (R119). -/
def Thread.setS (t : Thread) (r : BitVec 5) (v : Word) : Thread := if r = 0 then t else { t with sregs := t.sregs.set r.toFin v }

/-- A predicate; p0 reads 1 (R119). -/
def Thread.p (t : Thread) (r : BitVec 3) : Bool := if r = 0 then true else t.preds.getLsbD r.toNat

/-- A predicate register file with one bit changed. -/
def putBit8 (w : BitVec 8) (i : Nat) (b : Bool) : BitVec 8 :=
  if b then w ||| (1#8 <<< i) else w &&& ~~~(1#8 <<< i)

/-- A write of a predicate; one to p0 is discarded (R119). -/
def Thread.setP (t : Thread) (r : BitVec 3) (b : Bool) : Thread := if r = 0 then t else { t with preds := putBit8 t.preds r.toNat b }

def Thread.td (t : Thread) (n : BitVec 4) : BitVec 256 := t.tds[n.toFin]
def Thread.setTd (t : Thread) (n : BitVec 4) (v : BitVec 256) : Thread := { t with tds := t.tds.set n.toFin v }
def Thread.anc (t : Thread) (n : BitVec 3) : BitVec 12 := t.anchors[n.toFin]
def Thread.setAnc (t : Thread) (n : BitVec 3) (v : BitVec 12) : Thread := { t with anchors := t.anchors.set n.toFin v }
def Thread.tok (t : Thread) (n : BitVec 4) : BitVec 10 := t.tokens[n.toFin]
def Thread.setTok (t : Thread) (n : BitVec 4) (v : BitVec 10) : Thread := { t with tokens := t.tokens.set n.toFin v }
def Thread.circ (t : Thread) (n : BitVec 4) : Circ := t.circs[n.toFin]
def Thread.setCirc (t : Thread) (n : BitVec 4) (v : Circ) : Thread := { t with circs := t.circs.set n.toFin v }

/-- Changes the thread of a core. -/
def Core.modTh (k : Core) (f : Thread → Thread) : Core := { k with th := f k.th }
def State.modTh (s : State) (c : CoreId) (f : Thread → Thread) : State := s.modCore c (fun k => k.modTh f)

/-- Depth of a queue (Table 5.1). -/
def queueDepth : Engine → Nat
  | .attn => 4 | .dma => 16 | _ => 8

/-- Changes the items of a queue that carry a serial number. -/
def modSerial (n : Nat) (f : Item → Item) (q : List Item) : List Item := q.map (fun i => if i.serial = n then f i else i)

/-- Changes an instruction of a core wherever it is queued. -/
def Core.modItem (k : Core) (n : Nat) (f : Item → Item) : Core := { k with queues := k.queues.map (modSerial n f) }

/-- The instruction of a core that carries a serial number. -/
def Core.item (k : Core) (n : Nat) : Option Item :=
  (allEngines.map k.queue).flatten.find? (fun i => decide (i.serial = n) && !i.twin)

/-! Scratchpad (R97, R105 to R108). -/

def padSize : Nat := 2 ^ 23

/-- Words of 64 bytes that `len` bytes from `a` touch. -/
def padWords (a len : Nat) : List Nat := if len = 0 then [] else tabulate ((a + len - 1) / 64 - a / 64 + 1) (fun i => a / 64 + i)

/-- A word of the span is poisoned. -/
def Core.padPoison (k : Core) (a len : Nat) : Bool := (padWords a len).any (fun w => !setHas k.clean w)

/-- The words a write covers whole (R107). -/
def padWhole (a len : Nat) : List Nat := (padWords a len).filter (fun w => decide (a ≤ 64 * w) && decide (64 * w + 64 ≤ a + len))

/-- A scratchpad write: a word it covers whole loses its poison (R107). -/
def Core.padWrite (k : Core) (a : Nat) (bs : List Byte) : Core :=
  { k with pad := memPut k.pad a bs, clean := (padWhole a bs.length).foldl setAdd k.clean }

def Core.padStore (k : Core) (a len v : Nat) : Core := k.padWrite a (leBytes len v)
def Core.padLoad (k : Core) (a len : Nat) : Nat := memLoad k.pad a len
def Core.padBytes (k : Core) (a len : Nat) : List Byte := memBytes k.pad a len

/-- Every word poisoned (R108). The bytes stay in place and are never read. -/
def Core.padPoisonAll (k : Core) : Core := { k with clean := [] }

/-- An uncorrectable scratchpad word is poisoned, counted and logged (R105): the counts are the log (log 14). -/
def State.spadUncorr (s : State) (c : CoreId) (w : Nat) : State :=
  let s := s.modCore c (fun k => { k with clean := setDel k.clean w, spadUncorr := satAdd 0xFFFF k.spadUncorr 1 })
  { s with log := { s.log with spadUncorr := satAdd 0xFFFF s.log.spadUncorr 1 } }

/-- A corrected scratchpad error is counted (R105). -/
def State.spadCorr (s : State) (c : CoreId) : State :=
  let s := s.modCore c (fun k => { k with spadCorr := satAdd 0xFFFF k.spadCorr 1 })
  { s with log := { s.log with spadCorr := satAdd (2 ^ 32 - 1) s.log.spadCorr 1 } }

/-- What the code of a scratchpad read finds (R105). -/
def State.spadEcc (s : State) (c : CoreId) (w : Nat) : Ecc → State
  | .clean => s
  | .corrected => s.spadCorr c
  | .uncorrectable => s.spadUncorr c w

/-- What the code finds at a scratchpad word that an instruction reads; none: nothing (R105). -/
def State.spadFound (s : State) (c : CoreId) (bad : Option (Nat × Ecc)) : State :=
  match bad with
  | some (w, e) => if w < 2 ^ 17 then s.spadEcc c w e else s
  | none => s

/-- The module runs: its cores issue and its engines act (R438, R447, R463). -/
def State.up (s : State) : Bool := s.life == .running && (s.pstate == .active || s.pstate == .idle)

/-- A unit is in service (R139). -/
def State.unitIn (s : State) (u : UnitId) : Bool :=
  match u with
  | .core n => (s.core n).inService
  | .port p => (s.port p).inService
  | u => !(s.unitsOut.any (fun e => e.1 = u))

/-- The UCIe modules that join the control die to a compute die (`die` true: U4 to U7 to C1) are not all out of service (R406). -/
def dieReached (s : State) (die : Bool) : Bool := bitField s.log.ucieOut.toNat (if die then 7 else 3) (if die then 4 else 0) != 0xF

/-- U8 to U15, which join the compute dies, are not all out of service (R406). -/
def diesJoined (s : State) : Bool := bitField s.log.ucieOut.toNat 15 8 != 0xFF

/-- The two dies named can reach each other (R406). -/
def joined (s : State) (a b : Bool) : Bool := a == b || diesJoined s

def dieEpoch (s : State) (die : Bool) : BitVec 16 := if die then s.epoch1 else s.epoch0

/-- A main-tier uncorrectable error is counted (R319). -/
def State.hbmUncorr (s : State) : State := { s with log := { s.log with hbmUncorr := satAdd 0xFFFF s.log.hbmUncorr 1 } }
def State.hbmCorr (s : State) : State := { s with log := { s.log with hbmCorr := satAdd (2 ^ 32 - 1) s.log.hbmCorr 1 } }

end Sys2Proof.Machine
end

