-- ==== Sys2Proof/Machine/Translate.lean ====
section
/-! DEFINITION. Addresses: the chip map, context translation, windows, import ranges and the pool check
(spec/13_memory_tiers.md R308 to R316, spec/12_kv_pages_prefix.md R281, R298). -/
namespace Sys2Proof.Machine

/-- Where an access lies after translation. -/
inductive Loc where
  | main (off : Nat)
  | weight (k : Nat) (off : Nat)
  | remote (chip : BitVec 12) (off : Nat)
  deriving DecidableEq, Repr

/-- Why an access is refused: a cause of Table 6.8, and the poisoned carve-out unit a walk met (R470). -/
structure Bad where
  cause : Nat
  unit : Option Nat
  deriving DecidableEq, Repr

def badT : Bad := ⟨cTranslation, none⟩

/-- What an access wants of its page. -/
inductive Want where
  | read | write | fetch
  deriving DecidableEq, Repr

/-- An 8-byte entry the walker reads; a poisoned unit gives POISON (R470 code 1). -/
def walkRead (s : State) (a : Nat) : Except Bad Nat :=
  if s.poisoned a 8 then .error ⟨cPoison, some a⟩ else .ok (s.fetch a 8)

/-- The level-2 entry of a page (R311). -/
def walk (s : State) (c : CtxId) (va : Nat) : Except Bad Nat :=
  let r := (regOf s.ttbase c.toNat).toNat
  let base := bitField r 38 17 * 2 ^ 17
  if !r.testBit 0 || !inCarveOut base (2 ^ 17) then .error badT else
  match walkRead s (base + 8 * bitField va 47 34) with
  | .error b => .error b
  | .ok e1 =>
    let t2 := bitField e1 38 16 * 2 ^ 16
    if !e1.testBit 0 || bitField e1 15 1 ≠ 0 || bitField e1 63 39 ≠ 0 || !inCarveOut t2 (2 ^ 16) then .error badT else
    walkRead s (t2 + 8 * bitField va 33 21)

/-- HPAGE of weight record `k`, bits [41:24] (Table 13.9). -/
def wrecHpage (s : State) (k : Nat) : Nat := bitField (s.fetch (s.wrecBase + 16 * k) 16) 41 24

/-- The checks of R313 on a level-2 entry, and the place it gives. A record whose HPAGE lies in the carve-out gives none (R310,
log 82). -/
def pageOf (s : State) (e va : Nat) (want : Want) : Except Bad Loc :=
  let w := e.testBit 1
  let x := e.testBit 2
  let kind := bitField e 4 3
  let page := bitField e 40 21
  if !e.testBit 0 || bitField e 20 5 ≠ 0 || bitField e 63 41 ≠ 0 || 2 ≤ kind then .error badT
  else if (x && w) || (w && kind == 1) then .error badT
  else if want = .write && !w then .error badT
  else if want = .fetch && !x then .error badT
  else if kind = 0 then
    if 2 ^ 18 ≤ page || touchesCarveOut (page * 2 ^ 21) (2 ^ 21) then .error badT
    else .ok (.main (page * 2 ^ 21 + va % 2 ^ 21))
  else if s.wrecCount ≤ page || touchesCarveOut (wrecHpage s page * 2 ^ 21) (2 ^ 21) then .error badT
  else .ok (.weight page (va % 2 ^ 21))

/-- The bytes a pool spans (R275). -/
def Pool.bytes (p : Pool) : Nat := p.frame * 2048 * p.ns * p.sets

/-- The enabled pool an offset lies in. -/
def poolAt (s : State) (off : Nat) : Option (BitVec 4) :=
  allPools.find? (fun n => let p := s.pool n; p.en && decide (p.base ≤ off) && decide (off < p.base + p.bytes))

/-! Set records (Table 12.8). -/

/-- STATE of a set (Table 12.8). -/
inductive SetState where
  | free | priv | frozen | cached | detached | lost
  deriving DecidableEq, Repr

def setStateOf : Nat → SetState
  | 1 => .priv | 2 => .frozen | 3 => .cached | 4 => .detached | 5 => .lost | _ => .free

def setStateCode : SetState → Nat
  | .free => 0 | .priv => 1 | .frozen => 2 | .cached => 3 | .detached => 4 | .lost => 5

structure SetRec where
  state : SetState
  slot : SlotId
  ctx : CtxId
  domain : BitVec 16
  refs : Nat
  bucket : Nat
  way : Nat
  lastStep : Nat
  deriving DecidableEq, Repr

def setRecOf (n : Nat) : SetRec :=
  ⟨setStateOf (n % 8), BitVec.ofNat 14 (bitField n 21 8), BitVec.ofNat 6 (bitField n 27 22), BitVec.ofNat 16 (bitField n 47 32),
   bitField n 63 48, bitField n 87 64, bitField n 89 88, bitField n 127 96⟩

def setRecBits (r : SetRec) : Nat :=
  setStateCode r.state + r.slot.toNat * 2 ^ 8 + r.ctx.toNat * 2 ^ 22 + r.domain.toNat * 2 ^ 32 + (r.refs % 2 ^ 16) * 2 ^ 48
  + (r.bucket % 2 ^ 24) * 2 ^ 64 + (r.way % 4) * 2 ^ 88 + (r.lastStep % 2 ^ 32) * 2 ^ 96

def setFree : SetRec := ⟨.free, 0, 0, 0, 0, 0, 0, 0⟩

def setRecAt (p : Pool) (k : Nat) : Nat := p.srec + 16 * k
def State.setRec (s : State) (p : Pool) (k : Nat) : SetRec := setRecOf (s.fetch (setRecAt p k) 16)
def State.putSetRec (s : State) (p : Pool) (k : Nat) (r : SetRec) : State := s.store (setRecAt p k) 16 (setRecBits r)

def setFrozen (t : SetState) : Bool := t == .frozen || t == .cached || t == .detached || t == .lost

/-- R281: the access of context `c` to an offset of a pool is allowed. -/
def poolAllows (s : State) (c : CtxId) (off : Nat) (wr : Bool) : Bool :=
  match poolAt s off with
  | none => true
  | some n =>
    let p := s.pool n
    let r := s.setRec p ((off - p.base) / (p.frame * 2048) / p.ns)
    (r.state == .priv && r.ctx == c) || (!wr && setFrozen r.state && c != 0 && r.domain == (s.kvCtx c).domain)

/-- A read of main memory meets poison: in its own units, anywhere in the KV frame it lies in, or in a LOST set (R305, R306,
R319). -/
def readPoison (s : State) (off len : Nat) : Bool :=
  s.poisoned off len ||
  match poolAt s off with
  | none => false
  | some n =>
    let p := s.pool n
    let z := p.frame * 2048
    let m := (off - p.base) / z
    s.poisoned (p.base + m * z) z || (s.setRec p (m / p.ns)).state == .lost

/-- A type 0 access of at most one page (R311 to R313, R281). -/
def translate0 (s : State) (c : CtxId) (va : Nat) (want : Want) : Except Bad Loc :=
  match walk s c va with
  | .error b => .error b
  | .ok e =>
    match pageOf s e va want with
    | .error b => .error b
    | .ok (.main off) => if poolAllows s c off (want == .write) then .ok (.main off) else .error badT
    | .ok l => .ok l

/-- Window or range (A, B) admits `len` bytes at `off` for chip `h` (R315, R316). -/
def rangeAdmits (a b : Word) (h off len : Nat) (wr : Bool) : Bool :=
  b.getLsbD 62 && decide (fieldOf a 59 48 ≤ h) && decide (h ≤ fieldOf b 59 48)
  && decide (fieldOf a 47 0 ≤ off) && decide (off + len ≤ fieldOf b 47 0)
  && (if wr then b.getLsbD 61 else b.getLsbD 60)

/-- One enabled window of context `c` admits the access (R316). -/
def windowAdmits (s : State) (c : CtxId) (h off len : Nat) (wr : Bool) : Bool :=
  (List.range 16).any (fun w => rangeAdmits (regOf s.winA (16 * c.toNat + w)) (regOf s.winB (16 * c.toNat + w)) h off len wr)

/-- One enabled import range of this module admits the access of chip `h` (R316). -/
def importAdmits (s : State) (h off len : Nat) (wr : Bool) : Bool :=
  (List.range 16).any (fun i => rangeAdmits (regOf s.impA i) (regOf s.impB i) h off len wr)

/-- A type 1 access (R157, R308, R316). -/
def translate1 (s : State) (c : CtxId) (chip : BitVec 12) (off len : Nat) (wr : Bool) : Except Bad Loc :=
  if !windowAdmits s c chip.toNat off len wr then .error badT
  else if s.chipId = chip && s.chipValid then
    if 2 ^ 39 < off + len || touchesCarveOut off len || !poolAllows s c off wr then .error badT else .ok (.main off)
  else .ok (.remote chip off)

/-- An access of `len` bytes within one page at a global address (R157). -/
def translate (s : State) (c : CtxId) (g : Word) (len : Nat) (want : Want) : Except Bad Loc :=
  match fieldOf g 63 60 with
  | 0 => if fieldOf g 59 48 ≠ 0 then .error badT else translate0 s c (fieldOf g 47 0) want
  | 1 => if want = .fetch then .error badT
         else translate1 s c (BitVec.ofNat 12 (fieldOf g 59 48)) (fieldOf g 47 0) len (want == .write)
  | _ => .error badT

/-- Pages of the library tier, and bytes of a page (R328). -/
def libPageCount : Nat := 983040
def pageBytes : Nat := 2 ^ 21

/-- A range [lo, hi) touches a protected area: carve-out, library tier, register window or a KV pool (R316). -/
def touchesProtected (s : State) (lo hi : Nat) : Bool :=
  touchesCarveOut lo (hi - lo) || overlap lo (hi - lo) 0x010000000000 (libPageCount * pageBytes) || overlap lo (hi - lo) 0xFFFFFC000000 (2 ^ 26)
  || allPools.any (fun n => let p := s.pool n; p.en && overlap lo (hi - lo) p.base p.bytes)

def importOffset (i : BitVec 4) (second : Bool) : Nat := 0x0605000 + 16 * i.toNat + 8 * second.toNat

/-- EN of an import range that would admit a protected area is cleared with a notice that names the register written (R316). -/
def State.clearImport (s : State) (i : BitVec 4) (written : Nat) : State :=
  let a := regOf s.impA i.toNat
  let b := regOf s.impB i.toNat
  if b.getLsbD 62 && touchesProtected s (fieldOf a 47 0) (fieldOf b 47 0) then
    ({ s with impB := mapSet s.impB i.toNat (b &&& 0xBFFFFFFFFFFFFFFF) } : State).notice 2 0x0006 written []
  else s

/-- The record of a poisoned table entry, then the fault (R313, R470). -/
def State.faultBad (s : State) (n : CoreId) (addr : Word) (b : Bad) : State :=
  let s := match b.unit with
    | some a => s.error (coreDie n).toNat 0x0107 a [1]
    | none => s
  s.fault n b.cause addr []

/-! Weight records (Table 13.9). -/

inductive WState where
  | absent | migrating | resident | refetch | libLost
  deriving DecidableEq, Repr

def wstateOf : Nat → WState
  | 1 => .migrating | 2 => .resident | 3 => .refetch | 4 => .libLost | _ => .absent

def wstateCode : WState → Nat
  | .absent => 0 | .migrating => 1 | .resident => 2 | .refetch => 3 | .libLost => 4

structure WRec where
  lpage : Nat
  hpage : Nat
  state : WState
  refetches : Nat
  deriving DecidableEq, Repr

def wrecAt (s : State) (k : Nat) : Nat := s.wrecBase + 16 * k

/-- The record; a poisoned unit reads as LIB_LOST (R470 code 2). -/
def State.wrec (s : State) (k : Nat) : WRec :=
  let n := s.fetch (wrecAt s k) 16
  ⟨bitField n 19 0, bitField n 41 24, if s.poisoned (wrecAt s k) 16 then .libLost else wstateOf (bitField n 50 48), bitField n 79 64⟩

/-- The module writes STATE and REFETCHES, bytes 6 to 9 of the record. -/
def State.putWrec (s : State) (k : Nat) (st : WState) (refetches : Nat) : State :=
  let n := s.fetch (wrecAt s k + 6) 2
  s.write (wrecAt s k + 6) (leBytes 2 (putField n 2 0 (wstateCode st)) ++ leBytes 2 refetches)

/-- The stripe of a page (R328). -/
def stripeOf (p : Nat) : Nat := p / 3

/-- The library stack of a page: parity takes one of the four in turn, the data positions the others in order (R328). -/
def libStackOf (p : Nat) : Nat :=
  let parity := stripeOf p % 4
  if p % 3 < parity then p % 3 else p % 3 + 1

/-- HPAGE lies in the main tier outside the carve-out and every pool (Table 13.9). -/
def hpageOk (s : State) (h : Nat) : Bool :=
  !touchesCarveOut (h * pageBytes) pageBytes
  && !allPools.any (fun n => let p := s.pool n; p.en && overlap (h * pageBytes) pageBytes p.base p.bytes)

/-- LPAGE and HPAGE with which record `k` migrates. -/
def migPages (s : State) (k : Nat) : Nat × Nat := (mapGet s.wlatch k).getD ((s.wrec k).lpage, (s.wrec k).hpage)

/-- The library stack that a migration reads. -/
def migStack (s : State) (k : Nat) : Nat := libStackOf (migPages s k).1

/-- A demand goes before every prefetch that waits on its stack; the first of a stack has started (R335). -/
def enqueueMig (s : State) (k : Nat) : List (Nat × Bool) → (started : Bool) → List (Nat × Bool)
  | [], _ => [(k, true)]
  | e :: t, started =>
    if migStack s e.1 ≠ migStack s k then e :: enqueueMig s k t started
    else if !started || e.2 then e :: enqueueMig s k t true
    else (k, true) :: e :: t

/-- A migration joins its stack's line; a demand takes the place of a prefetch of the same record that has not started. -/
def State.lineMig (s : State) (k : Nat) (now : Bool) : State :=
  match s.migs.find? (fun e => migStack s e.1 == migStack s k) with
  | none => { s with migs := s.migs ++ [(k, now)] }
  | some e =>
    if e.1 = k || s.migs.contains (k, true) then s
    else if now then { s with migs := enqueueMig s k (s.migs.erase (k, false)) false }
    else if s.migs.contains (k, false) then s else { s with migs := s.migs ++ [(k, false)] }

/-- The record may migrate: its library page is SEALED and HPAGE is one it may name (R335, log 82). -/
def canMigrate (s : State) (k : Nat) : Bool := let r := s.wrec k; (s.libPage r.lpage).state == .sealed && hpageOk s r.hpage

/-- A migration of record `k` is asked for; a record that cannot migrate is LIB_LOST with an event record (R335). -/
def State.startMig (s : State) (k : Nat) (st : WState) (refetches : Nat) (now : Bool) : State :=
  if canMigrate s k then
    let r := s.wrec k
    State.lineMig { s.putWrec k st refetches with wlatch := mapSet s.wlatch k (r.lpage, r.hpage) } k now
  else (s.putWrec k .libLost refetches).error 2 0x0106 k []

/-- A read of the page of record `k` (`now`), or PREFETCH, starts its migration (R334, R335). -/
def State.wantPage (s : State) (k : Nat) (now : Bool) : State :=
  match (s.wrec k).state with
  | .absent => s.startMig k .migrating (s.wrec k).refetches now
  | .migrating => if now then s.lineMig k true else s
  | _ => s

def State.demand (s : State) (k : Nat) : State := s.wantPage k true

/-- The main-tier offset of a place once its page is resident. -/
def Loc.offset (s : State) : Loc → Option Nat
  | .main off => some off
  | .weight k off => let r := s.wrec k; if r.state = .resident then some (r.hpage * 2 ^ 21 + off) else none
  | .remote _ _ => none

/-- Reads through record `k` give undefined bytes: its page fields were changed since its migration, or another record names the
same HPAGE (R338). -/
def wrecUndefined (s : State) (k : Nat) : Bool :=
  let r := s.wrec k
  (mapGet s.wlatch k).any (fun e => e != (r.lpage, r.hpage))
  || (List.range s.wrecCount).any (fun j => j != k && (s.wrec j).hpage == r.hpage)

/-- A read that meets a weight page demands it (R335). -/
def Loc.demand (s : State) : Loc → State
  | .weight k _ => s.demand k
  | _ => s

end Sys2Proof.Machine
end

