-- ==== Sys2Proof/Machine/Packets.lean ====
section
/-! DEFINITION. Packets: types, routing, answers, requests to other chips (spec/14_quaz_links_bell.md R349 to R353, R362 to
R365). -/
namespace Sys2Proof.Machine

/-! Table 14.4. -/
def tyRead : BitVec 4 := 1
def tyWrite : BitVec 4 := 2
def tyCrumb : BitVec 4 := 3
def tyAtomic : BitVec 4 := 4
def tySend : BitVec 4 := 5
def tyReduce : BitVec 4 := 6
def tyReadData : BitVec 4 := 8
def tyDone : BitVec 4 := 9
def tyUnroutable : BitVec 4 := 10

def isResponse (t : BitVec 4) : Bool := decide (8 ≤ t.toNat)

/-- The chunks of data that follow a header: READ names chunks it asks for (Tables 14.3, 14.4). -/
def dataChunks (type : BitVec 4) (len : Nat) : Nat :=
  if type = tyRead || type = tyCrumb || type = tyDone || type = tyUnroutable then 0 else len

/-- A packet that came by a port has left its receive buffer: its chunks of credit go back (R355). -/
def State.owe (s : State) (via : Option PortId) (p : Packet) : State :=
  match via with
  | none => s
  | some n => s.modPort n (fun q => { q with owe := q.owe.set p.vc.toFin (q.owe[p.vc.toFin] + 1 + dataChunks p.type p.len) })

/-- The routing entry of a chip: NONE at reset, LOCAL for this chip (Table 14.10). -/
def routeOf (s : State) (chip : BitVec 12) : BitVec 8 :=
  (mapGet s.routes chip.toNat).getD (if chip = s.chipId then 6 else 7)

/-- The VC of the next hop (R362, R364). -/
def hopVc (p : Packet) (e : BitVec 8) : BitVec 2 :=
  let b : Nat := if isResponse p.type then 2 else 0
  let cl : Bool := if p.detour then true else if isResponse p.type then e.getLsbD 4 else e.getLsbD 3
  BitVec.ofNat 2 (b + cl.toNat)

/-- The packet as it leaves by an entry: HOPS rises, DETOUR is set by a detour entry. -/
def hopPacket (p : Packet) (e : BitVec 8) : Packet :=
  { p with vc := hopVc p e, detour := p.detour || e.getLsbD 5, hops := p.hops + 1 }

/-! The lines of an output port (R356): its VCs, and in each VC the sources of its packets, served in the order of their
requests (R42 to R44). -/

def Queued.lane (x : Queued) : Nat := x.out.vc.toNat
def Queued.source (x : Queued) : Nat := match x.via with | some p => p.toNat | none => 6

/-- A requester joins a line once. -/
def joinLine {α : Type} [DecidableEq α] (l : List α) (a : α) : List α := if l.contains a then l else l ++ [a]

/-- A packet waits for an output port. -/
def Port.enqueue (q : Port) (x : Queued) : Port :=
  { q with queue := q.queue ++ [x], vcLine := joinLine q.vcLine x.lane, srcLine := joinLine q.srcLine (x.lane, x.source) }

/-- The granted packet leaves; its VC and its source go to the end of their lines if more of theirs wait. -/
def Port.dequeue (q : Port) (x : Queued) : Port :=
  let qs := q.queue.erase x
  { q with
    queue := qs,
    vcLine := q.vcLine.erase x.lane ++ (if qs.any (fun y => y.lane == x.lane) then [x.lane] else []),
    srcLine := q.srcLine.erase (x.lane, x.source) ++ (if qs.any (fun y => y.lane == x.lane && y.source == x.source) then [(x.lane, x.source)] else []) }

/-- Packets of a port's queue are taken out. -/
def Port.keepQueue (q : Port) (keep : Queued → Bool) : Port :=
  let qs := q.queue.filter keep
  { q with queue := qs, vcLine := q.vcLine.filter (fun v => qs.any (fun y => y.lane == v)),
           srcLine := q.srcLine.filter (fun e => qs.any (fun y => (y.lane, y.source) == e)) }

/-- The UNROUTABLE answer to a packet (R364). -/
def unroutableOf (s : State) (p : Packet) : Packet :=
  ⟨tyUnroutable, 2, false, p.src, s.chipId, p.ctx, 0, p.tag, 0, 3, 0, []⟩

/-- An entry that does not forward the packet. R364 names packets with DETOUR set; one with DETOUR clear that meets NONE stays
pending until a route is restored (R221, log 70). A packet at its destination is delivered. -/
def noRoute (p : Packet) (e : BitVec 8) : Bool :=
  e.setWidth 3 == 7 || (p.detour && e.setWidth 3 != 6 && (e.getLsbD 5 || p.hops == 48))

/-- Routes a packet that may not itself be answered. -/
def State.routeOnce (s : State) (p : Packet) (via : Option PortId) : Option State :=
  let e := routeOf s p.dst
  if noRoute p e then none
  else if e.setWidth 3 == 6 then some { s with inbox := s.inbox ++ [(via, { p with hops := p.hops + 1 })] }
  else some (s.modPort (e.setWidth 3) (fun q => q.enqueue ⟨via, p, hopPacket p e⟩))

/-- Looks up a packet that arrived or originates here (R362 to R365). -/
def State.route (s : State) (p : Packet) (via : Option PortId) : State :=
  match s.routeOnce p via with
  | some s => s
  | none =>
    if p.type = tyUnroutable || !p.detour then { s with stuck := s.stuck ++ [(via, p)] }
    else
      let s := s.owe via p
      let u := unroutableOf s p
      (s.routeOnce u none).getD { s with stuck := s.stuck ++ [(none, u)] }

/-- Packets held for want of a route are looked up again after the tables change. -/
def State.unstick (s : State) : State := s.stuck.foldl (fun s e => s.route e.2 e.1) { s with stuck := [] }

/-- An answer of this chip to a request (R350). -/
def State.answer (s : State) (p : Packet) (type : BitVec 4) (status : BitVec 4) (data : List Byte) : State :=
  s.route ⟨type, 2, false, p.src, s.chipId, p.ctx, data.length / 16, p.tag, 0, status, 0, data⟩ none

/-- A request of an instruction to another chip: it takes a TAG and waits for its answer (R349, R354). -/
def State.ask (s : State) (core : CoreId) (serial : Nat) (ctx : CtxId) (what place : Nat)
    (chip : BitVec 12) (type : BitVec 4) (len off : Nat) (sub : BitVec 4) (data : List Byte) : State :=
  let p : Packet := ⟨type, 0, false, chip, s.chipId, ctx, len, s.nextTag, BitVec.ofNat 48 off, sub, 0, data⟩
  let s : State := { s with asked := s.asked ++ [(⟨s.nextTag, core, serial, ctx, what, place, 16 * len, false⟩ : Asked)], nextTag := s.nextTag + 1 }
  s.route p none

/-- What the answer of a request is for (Asked.what). -/
def askItem : Nat := 0
def askLoad : Nat := 1
def askCrumb : Nat := 2
def askGranule : Nat := 3
def askStore : Nat := 4
def askResult : Nat := 5

/-- A request of the instruction with a serial number on a core. -/
def Asked.ofItem (a : Asked) (c : CoreId) (n : Nat) : Bool := a.core == c && a.serial == n && a.what != askStore && a.what != askResult

/-- A packet is a request that this chip sent under a TAG. -/
def sentUnder (s : State) (tag : BitVec 16) (p : Packet) : Bool := p.src == s.chipId && !isResponse p.type && p.tag == tag

/-- A request of this chip waits for a route, or at a port that only the master brings back (R221). -/
def noWay (s : State) (tag : BitVec 16) : Bool :=
  s.stuck.any (fun e => sentUnder s tag e.2)
  || s.ports.any (fun e => (!e.2.inService || e.2.state == .failed || e.2.state == .disabled) && e.2.queue.any (fun q => sentUnder s tag q.pkt))

/-- A store of up to 8 bytes within a 32-byte unit of another chip travels as a WRITE of that unit, whose other bytes are free: WRITE
carries whole units (Table 14.4, log 15). -/
def State.askWord (s : State) (core : CoreId) (serial : Nat) (ctx : CtxId) (what : Nat) (chip : BitVec 12) (off width v : Nat) : State :=
  let f := s.freeBytes 32
  let o := off % 32
  f.2.ask core serial ctx what 0 chip tyWrite 2 (off - o) 0 (f.1.take o ++ leBytes width v ++ f.1.drop (o + width))

/-! The ADDR field of a SEND (Table 14.5). -/

structure SendAddr where
  core : CoreId
  region : BitVec 4
  dctx : CtxId
  last : Bool
  frag : Nat
  totalW : Nat
  deriving DecidableEq, Repr

def sendAddrOf (a : BitVec 48) : SendAddr :=
  let n := a.toNat
  ⟨BitVec.ofNat 6 n, BitVec.ofNat 4 (bitField n 9 6), BitVec.ofNat 6 (bitField n 15 10), n.testBit 16, bitField n 25 17, bitField n 40 26⟩

def sendAddrBits (x : SendAddr) : Nat :=
  x.core.toNat + x.region.toNat * 2 ^ 6 + x.dctx.toNat * 2 ^ 10 + x.last.toNat * 2 ^ 16 + (x.frag % 512) * 2 ^ 17
  + (min x.totalW 0x7FFF) * 2 ^ 26

/-- A peer grant of a context covers a pair of chip and context (R382). -/
def grantCovers (g : Word) (chip : BitVec 12) (c : CtxId) : Bool :=
  decide (fieldOf g 11 0 ≤ chip.toNat) && decide (chip.toNat ≤ fieldOf g 23 12) && fieldOf g 29 24 == c.toNat

/-- Context `x` with the grants `ps` holds one for a pair; it always does for its own chip and number (R382). -/
def grantIn (s : State) (ps : List Word) (x : CtxId) (chip : BitVec 12) (c : CtxId) : Bool :=
  (chip == s.chipId && c == x) || ps.any (fun g => grantCovers g chip c)

/-- A context holds a grant for a pair as an arrival finds it (R383). -/
def granted (s : State) (x : CtxId) (chip : BitVec 12) (c : CtxId) : Bool := grantIn s (s.ctx x).peers x chip c

/-- Numbers of the grants of a context that cover a pair. -/
def grantMask (s : State) (x : CtxId) (chip : BitVec 12) (c : CtxId) : Word :=
  let ps := (s.ctx x).peers
  (List.range ps.length).foldl (fun m i => if grantCovers (ps.getD i 0) chip c then m ||| (1 <<< i) else m) 0

end Sys2Proof.Machine
end

