-- ==== Sys2Proof/Machine/Circular.lean ====
section
/-! DEFINITION. Circular regions and arrivals (spec/05_cores_arrays_scratchpad.md R109 to R115,
spec/15_contexts_timetable.md R383 to R385, spec/14_quaz_links_bell.md R352). -/
namespace Sys2Proof.Machine

/-- The region holds SLOTS claimed slots that no consumer has released (R111). -/
def Circ.full (r : Circ) : Bool := (r.claim - r.head).toNat == r.slots.toNat

/-- No filled slot stands between HEAD and TAIL (R113). -/
def Circ.empty (r : Circ) : Bool := r.tail == r.head

/-- A transfer claimed into the region has not been filled (R110). -/
def Circ.filling (r : Circ) : Bool := r.claim != r.tail

/-- Scratch offset of slot number k (Table 5.6). -/
def Circ.slotAt (r : Circ) (k : BitVec 16) : Nat :=
  64 * (r.baseW.toNat + (k.toNat % r.slots.toNat) * r.slotW.toNat)

/-- A producer claims the next slot. -/
def Circ.take (r : Circ) : Circ := { r with claim := r.claim + 1 }

/-- TAIL passes every filled slot that directly follows it, at most `n` of them (R112). -/
def Circ.settle : (n : Nat) → Circ → Circ
  | 0, r => r
  | n + 1, r => if r.filled.contains r.tail then Circ.settle n { r with filled := r.filled.erase r.tail, tail := r.tail + 1 } else r

/-- The fill of slot k completes (R112). -/
def Circ.fill (r : Circ) (k : BitVec 16) : Circ := Circ.settle 257 { r with filled := r.filled ++ [k] }

/-- `n` slots are released; none where HEAD would pass TAIL (R113). -/
def Circ.freeSlots (r : Circ) (n : Nat) : Option Circ :=
  if (r.tail - r.head).toNat < n then none else some { r with head := r.head + BitVec.ofNat 16 n }

/-- The first producer that waits for a slot of region `r` (R42, R43). -/
def Core.firstInLine (k : Core) (r : BitVec 4) : Option (Option Nat) := (k.line.find? (fun e => e.1 == r)).map (·.2)

/-- Another producer came before `who` and still waits for a slot of region `r` (R42). -/
def Core.behind (k : Core) (r : BitVec 4) (who : Option Nat) : Bool := (k.firstInLine r).any (fun w => w != who)

/-- A producer finds no slot: the region is full, or an earlier producer has the next one (R42, R111). -/
def Core.noSlot (k : Core) (r : BitVec 4) (who : Option Nat) : Bool := (k.th.circ r).full || k.behind r who

/-- A producer takes its place in line, if it has none (R42). -/
def Core.lineUp (k : Core) (r : BitVec 4) (who : Option Nat) : Core :=
  if k.line.contains (r, who) then k else { k with line := k.line ++ [(r, who)] }

/-- A producer leaves the line: it has claimed its slot, or no longer asks for one. -/
def Core.leaveLine (k : Core) (who : Option Nat) : Core := { k with line := k.line.filter (fun e => e.2 != who) }

def State.modCirc (s : State) (c : CoreId) (n : BitVec 4) (f : Circ → Circ) : State :=
  s.modTh c (fun t => t.setCirc n (f (t.circ n)))

/-- Free bytes in a span of a core's scratchpad; its poison stays. -/
def State.blurPad (s : State) (c : CoreId) (a len : Nat) : State :=
  let f := s.freeBytes len
  f.2.modCore c (fun k => { k with pad := memPut k.pad a f.1 })

/-- The bytes of a span that other enabled regions than `r` hold as well (R110). -/
def Thread.sharedSpans (t : Thread) (r : BitVec 4) (at_ len : Nat) : List (Nat × Nat) :=
  (List.range 16).filterMap (fun m =>
    let q := t.circ (BitVec.ofNat 4 m)
    let a := 64 * q.baseW.toNat
    let n := 64 * (q.slotW.toNat * q.slots.toNat)
    if m ≠ r.toNat && q.en && overlap at_ len a n then some (max at_ a, min (at_ + len) (a + n) - max at_ a) else none)

/-- What a region shares with other enabled regions has undefined contents: free bytes (R110). -/
def State.blurShared (s : State) (c : CoreId) (r : BitVec 4) (at_ len : Nat) : State :=
  ((s.core c).th.sharedSpans r at_ len).foldl (fun s p => s.blurPad c p.1 p.2) s

/-- The fill of slot `k` of a region completes (R110, R112). -/
def State.fillSlot (s : State) (c : CoreId) (r : BitVec 4) (k : BitVec 16) : State :=
  let q := (s.core c).th.circ r
  (s.blurShared c r (q.slotAt k) (64 * q.slotW.toNat)).modCirc c r (fun q => q.fill k)

/-! Arrivals. -/

/-- One fragment has 2 KiB (R352). -/
def fragSize : Nat := 2048

/-- The answer to the sender of a transfer: DONE to another chip, or one request fewer inside the module. -/
def State.answerSend (s : State) (a : Arrival) (status : BitVec 4) : State :=
  match a.sender with
  | none => s.answer a.pkt tyDone status []
  | some (c, n) =>
    if status = 0 then s.modCore c (fun k => k.modItem n (fun i => { i with out := i.out - 1 }))
    else
      let k := s.core c
      let at_ := match k.item n with | some i => i.addr | none => 0
      match k.runCtx with
      | some x => if x = a.pkt.ctx then s.fault c cTranslation at_ [] else s
      | none => s

/-- What names the sender of an arrival beside its chip: a serial inside the module, or the TAG of its packets. -/
def Arrival.mark (a : Arrival) : Nat := match a.sender with | some (_, n) => n | none => a.pkt.tag.toNat

/-- The transfer an arrival belongs to. -/
def sameTransfer (c : CoreId) (x : SendAddr) (a : Arrival) (i : Incoming) : Bool :=
  i.core == c && i.ctx == x.dctx && i.region == x.region && i.src == a.pkt.src && i.sender == a.mark && i.last.isNone

/-- The thread that claimed a transfer's slot runs on its core (R218). -/
def Incoming.here (s : State) (i : Incoming) : Bool := (s.core i.core).seat == some i.seat

/-- Fragment 0 of a transfer opens it: a wrong length sets BROKEN, else a slot is claimed (R111, R114, R352). DESIGN CHOICE: a region
with EN = 0 is set BROKEN whatever the length (log 91). None: it waits for a slot. -/
def State.openTransfer (s : State) (c : CoreId) (x : SendAddr) (a : Arrival) : Option State :=
  let k := s.core c
  let r := k.th.circ x.region
  let me : Incoming := ⟨c, x.dctx, k.seat.getD 0, x.region, a.pkt.src, a.mark, none, 0, none⟩
  if !r.en || x.totalW ≠ r.slotW.toNat then
    some { s.modCirc c x.region (fun r => { r with broken := true }) with incoming := s.incoming ++ [me] }
  else if k.noSlot x.region none then none
  else
    let s := (s.modCirc c x.region Circ.take).modCore c (fun k => k.leaveLine none)
    some { s with incoming := s.incoming ++ [{ me with slot := some r.claim }] }

/-- A fragment of an open transfer is written, or written nowhere (R114, R352); one whose thread has ended is discarded and its
sender answered (log 81). -/
def State.landFragment (s : State) (c : CoreId) (x : SendAddr) (a : Arrival) : State :=
  match s.incoming.find? (sameTransfer c x a) with
  | none => if x.last then s.answerSend a 0 else s
  | some i =>
    match i.slot with
    | none =>
      let s := { s with incoming := if x.last then s.incoming.erase i else s.incoming }
      if x.last then s.answerSend a 0 else s
    | some k =>
      let r := (s.core c).th.circ x.region
      let s := s.modCore c (fun q => q.padWrite (r.slotAt k + fragSize * x.frag) a.pkt.data)
      { s with incoming := s.incoming.map (fun j => if j = i then { i with next := x.frag + 1, last := if x.last then some a else none } else j) }

/-- An arrival reaches a core on which a thread of its context runs. None: it waits for a slot, or for the thread that claimed
its transfer's slot (R111, R218). -/
def State.arriveAt (s : State) (c : CoreId) (a : Arrival) : Option State :=
  let x := sendAddrOf a.pkt.addr
  if x.frag = 0 then (s.openTransfer c x a).map (fun s => s.landFragment c x a)
  else if (s.incoming.find? (sameTransfer c x a)).any (fun i => !i.here s) then none
  else some (s.landFragment c x a)

/-- An arrival that cannot go on takes its place among the producers of its region, if it wants a slot (R42). -/
def State.arrivalStays (s : State) (c : CoreId) (a : Arrival) : State :=
  let x := sendAddrOf a.pkt.addr
  if x.frag = 0 then s.modCore c (fun k => k.lineUp x.region none) else s

def arrivalBytes (q : List Arrival) : Nat := (q.map (fun a => a.pkt.data.length + 16)).sum

def Ctx.arrivals (x : Ctx) (die : Bool) : List Arrival := if die then x.arrivals1 else x.arrivals0
def Ctx.setArrivals (x : Ctx) (die : Bool) (q : List Arrival) : Ctx :=
  if die then { x with arrivals1 := q } else { x with arrivals0 := q }

/-- The arrival queue of a context on a die can take an arrival (R376, R384). -/
def Ctx.arrivalRoom (x : Ctx) (die : Bool) (a : Arrival) : Bool :=
  decide (arrivalBytes (x.arrivals die) + a.pkt.data.length + 16 ≤ x.arqKib * 1024)

/-- The arrival enters the queue, or is held at the link input when the queue is full (R384). -/
def State.enqueueArrival (s : State) (x : CtxId) (die : Bool) (a : Arrival) : State :=
  if (s.ctx x).arrivalRoom die a && !(s.heldIn.any (fun b => (sendAddrOf b.pkt.addr).dctx = x && coreDie (sendAddrOf b.pkt.addr).core = die))
  then s.modCtx x (fun y => y.setArrivals die (y.arrivals die ++ [a]))
  else { s with heldIn := s.heldIn ++ [a] }

/-- The thread of context `x` runs on core `c` and can take deliveries. -/
def resident (s : State) (c : CoreId) (x : CtxId) : Bool :=
  let k := s.core c
  s.up && k.inService && k.runCtx == some x && k.stop.isNone

/-- Queued arrivals for a core are delivered in order until one finds its region full (R384); at most `n`. -/
def State.drainArrivals : (n : Nat) → State → CoreId → CtxId → State
  | 0, s, _, _ => s
  | n + 1, s, c, x =>
    let die := coreDie c
    let q := (s.ctx x).arrivals die
    match q.find? (fun a => (sendAddrOf a.pkt.addr).core = c) with
    | none => s
    | some a =>
      match s.arriveAt c a with
      | none => s.arrivalStays c a
      | some s => State.drainArrivals n (s.modCtx x (fun y => y.setArrivals die ((y.arrivals die).erase a))) c x

/-- An arrival for a context that is OFF or in teardown is discarded and counted; its sender is answered OK, and a teardown notes
the grants it came by (R385). -/
def State.discardArrival (s : State) (a : Arrival) : State :=
  let x := sendAddrOf a.pkt.addr
  let s := { s with log := { s.log with discardArrival := satAdd (2 ^ 32 - 1) s.log.discardArrival 1 } }
  let s := s.modCtx x.dctx (fun y => { y with teardown := y.teardown.map (fun t => { t with grants := t.grants ||| grantMask s x.dctx a.pkt.src a.pkt.ctx }) })
  if x.last then s.answerSend a 0 else s

/-- Everything that waits for a context goes: its arrival queues, what is held for them, and transfers that have landed (R385,
R397). -/
def State.discardArrivals (s : State) (x : CtxId) : State :=
  let held := s.heldIn.filter (fun a => (sendAddrOf a.pkt.addr).dctx == x)
  let q := (s.ctx x).arrivals0 ++ (s.ctx x).arrivals1 ++ held
  let landed := (s.incoming.filter (fun i => i.ctx == x)).filterMap (·.last)
  let s := (s.modCtx x (fun y => { y with arrivals0 := [], arrivals1 := [] }))
  let s : State := { s with heldIn := s.heldIn.filter (fun a => (sendAddrOf a.pkt.addr).dctx != x),
                            incoming := s.incoming.filter (fun i => i.ctx != x) }
  let s := held.foldl (fun s a => s.owe a.port a.pkt) s
  (q ++ landed).foldl State.discardArrival s

/-- What has landed whole in the regions of the thread that runs on a core counts as filled: its fill completes before the thread
is saved (R112, R396, log 81). -/
def State.fillLanded (s : State) (c : CoreId) : State :=
  (s.incoming.filter (fun i => i.core == c && i.here s && i.last.isSome)).foldl (fun s i =>
    let s := match i.slot with | some k => s.fillSlot c i.region k | none => s
    let s : State := { s with incoming := s.incoming.erase i }
    match i.last with | some a => s.answerSend a 0 | none => s) s

/-- The transfers of a thread that ends on a core: what has landed is answered, the rest is written nowhere (log 81). -/
def State.endTransfers (s : State) (c : CoreId) (seat : BitVec 2) : State :=
  let is := s.incoming.filter (fun i => i.core == c && i.seat == seat)
  let s : State := { s with incoming := s.incoming.filter (fun i => !(i.core == c && i.seat == seat)) }
  is.foldl (fun s i => match i.last with | some a => s.answerSend a 0 | none => s) s

/-- A fragment of a SEND or BCAST comes to this module for a context (R218, R383 to R385). -/
def State.sendArrival (s : State) (a : Arrival) : State :=
  let x := sendAddrOf a.pkt.addr
  let y := s.ctx x.dctx
  if !granted s x.dctx a.pkt.src a.pkt.ctx then
    if x.last then s.answerSend a 2 else s
  else
    match y.state with
    | .off | .teardown => s.discardArrival a
    | _ =>
      let waiting := (y.arrivals (coreDie x.core)).any (fun b => (sendAddrOf b.pkt.addr).core = x.core)
        || s.heldIn.any (fun b => (sendAddrOf b.pkt.addr).dctx = x.dctx && (sendAddrOf b.pkt.addr).core = x.core)
      if resident s x.core x.dctx && !waiting then
        match s.arriveAt x.core a with
        | some s => s
        | none => (s.arrivalStays x.core a).enqueueArrival x.dctx (coreDie x.core) a
      else s.enqueueArrival x.dctx (coreDie x.core) a

/-- ARRIVAL_QUEUE_ROOM: a queue gains room and the first arrival held for it enters; it goes on to the core if its thread runs
there (R384). -/
def execArrivalQueueRoom (x : CtxId) (die : Bool) (s : State) : Host.Outcome State Fault Refusal :=
  .next (
    match s.heldIn.find? (fun b => (sendAddrOf b.pkt.addr).dctx = x && coreDie (sendAddrOf b.pkt.addr).core = die) with
    | none => s
    | some a =>
      if s.up && (s.ctx x).arrivalRoom die a then
        let t := ({ s.modCtx x (fun y => y.setArrivals die (y.arrivals die ++ [a])) with heldIn := s.heldIn.erase a } : State).owe a.port a.pkt
        let c := (sendAddrOf a.pkt.addr).core
        if resident t c x then t.drainArrivals ((t.ctx x).arrivals die).length c x else t
      else s)

end Sys2Proof.Machine
end

