-- ==== Sys2Proof/Machine/Service.lean ====
section
/-! DEFINITION. Units, epochs and service (spec/06_akaux_programming_model.md R139 to R142), and the pending KV transaction
(spec/08_akaux_tensor.md R206 to R209, spec/12_kv_pages_prefix.md R289). -/
namespace Sys2Proof.Machine

/-- Die, kind and index of a unit (Table 16.11). -/
def unitDie : UnitId → Bool
  | .core n => coreDie n
  | .timetable d => d
  | .channel n => n.getLsbD 7
  | .allocator d => d
  | .prefixIndex d => d
  | .port p => p.getLsbD 0

def unitKind : UnitId → Nat
  | .core _ => 1 | .timetable _ => 2 | .channel _ => 3 | .allocator _ => 4 | .prefixIndex _ => 5 | .port _ => 6

def unitIndex : UnitId → Nat
  | .core n => n.toNat
  | .channel n => n.toNat % 128
  | .port p => p.toNat
  | _ => 0

/-- ADDR of a UNIT_OUT record (R425). -/
def unitAddr (u : UnitId) : Nat := (unitDie u).toNat * 2 ^ 14 + unitKind u * 2 ^ 8 + unitIndex u

/-- The die epoch advances and the units still in service take it, with the requests they have on their way (R139, R140, log 84). -/
def State.advanceEpoch (s : State) (die : Bool) : State :=
  let e := dieEpoch s die + 1
  let s := if die then { s with epoch1 := e } else { s with epoch0 := e }
  let s := allCores.foldl (fun s c => if coreDie c = die && (s.core c).inService then s.modCore c (fun k => { k with epoch := e }) else s) s
  let s : State := { s with net := s.net.map (fun r => if coreDie r.core = die && (s.core r.core).inService then { r with epoch := e.setWidth 4 } else r) }
  allPorts.foldl (fun s p => if p.getLsbD 0 = die && (s.port p).inService then s.modPort p (fun q => { q with epoch := e }) else s) s

/-- A unit is marked out of service with the epoch it had. -/
def State.markOut (s : State) (u : UnitId) : State :=
  match u with
  | .core n => s.modCore n (fun k => { k with inService := false })
  | .port p => s.modPort p (fun q => { q with inService := false })
  | u => { s with unitsOut := (u, dieEpoch s (unitDie u)) :: s.unitsOut.filter (fun e => e.1 ≠ u) }

/-- A unit leaves service: the UNIT_OUT record and the epoch (R139). -/
def State.leaveService (s : State) (u : UnitId) : State :=
  if s.unitIn u then ((s.markOut u).advanceEpoch (unitDie u)).error (unitDie u).toNat 0x0109 (unitAddr u) [] else s

/-- A unit takes the die epoch and its port opens (R141). -/
def State.rejoin (s : State) (u : UnitId) : State :=
  match u with
  | .core n => s.modCore n (fun k => { k with inService := true, epoch := dieEpoch s (coreDie n) })
  | .port p => s.modPort p (fun q => { q with inService := true, epoch := dieEpoch s (unitDie u) })
  | .channel n => { s with unitsOut := s.unitsOut.filter (fun e => e.1 ≠ u),
                           formLines := s.formLines.filter (fun k => channelOf (32 * k) != n) }
  | u => { s with unitsOut := s.unitsOut.filter (fun e => e.1 ≠ u) }

/-- Steps 1 to 4 of the return sequence of a core (R141). -/
def Core.cleared (k : Core) : Core :=
  { k.padPoisonAll with
    queues := .replicate 6 [], hold := none, posted := [], seat := none, stop := none, line := [],
    th := { k.th with flags := 0, tokens := .replicate 16 0, chains := [], openTally := 0, circs := .replicate 16 Circ.reset } }

/-! The pending transaction. -/

/-- A second allocation, or a second release, for one slot replaces the first, which reports SUPERSEDED (R209). -/
def supersede (r : KvReq) (q : KvReq) : KvReq :=
  if q.slot = r.slot && q.release = r.release && q.outcome.isNone then { q with outcome := some (3, 0) } else q

/-- Adds a request to the pending transaction (R206, R208, R289). -/
def State.kvAdd (s : State) (r : KvReq) : State := { s with kvTrans := s.kvTrans.map (supersede r) ++ [r] }

/-- Both units of the allocator are in service and reach each other: they take part in every commit (R141, R406, log 86). -/
def allocatorIn (s : State) : Bool := s.unitIn (.allocator false) && s.unitIn (.allocator true) && diesJoined s

/-- The master can command both compute dies, which carry out the commands of the TT and KV blocks together (R406, log 37). -/
def commandable (s : State) : Bool := dieReached s false && dieReached s true

/-- A leave of a slot (R283, R397). -/
def leaveReq (n : SlotId) (c : CtxId) : KvReq := ⟨n, c, true, false, true, 0, none, none⟩

end Sys2Proof.Machine
end

