-- ==== Sys2Proof/Machine/Cards.lean ====
section
/-! DEFINITION. Report Cards (spec/15_contexts_timetable.md R399, R400). -/
namespace Sys2Proof.Machine

def sat (bytes n : Nat) : List Byte := leBytes bytes (min n (2 ^ (8 * bytes) - 1))

/-- The 256 bytes of a card (Table 15.6). -/
def cardBytes (x : CtxId) (lc final : Bool) (debt tClose : Nat) (r : Card) : List Byte :=
  leBytes 8 r.step.toNat ++ leBytes 8 r.tOpen ++ leBytes 8 tClose
  ++ leBytes 1 (x.toNat + final.toNat * 64 + lc.toNat * 128) ++ [0]
  ++ sat 2 r.merged ++ sat 4 r.launched ++ sat 4 r.ended ++ sat 4 r.slices ++ sat 4 r.preempted ++ sat 4 r.overrunNs
  ++ sat 4 debt ++ sat 2 r.kvGranted ++ sat 2 r.kvDeferred ++ sat 2 r.kvRefused ++ sat 2 r.slotsLost ++ sat 4 r.pfxHits
  ++ sat 8 r.stepsArray ++ sat 8 r.stepsAttn ++ sat 8 r.stepsSfu ++ sat 8 r.runNs
  ++ ((List.range 18).map (fun i => sat 8 ((mapGet r.waits (i + 1)).getD 0))).flatten
  ++ List.replicate 16 0

/-- Two cards of one context as one card that stayed open across the boundary between them (R399). -/
def mergeCards (a b : Card) : Card where
  step := a.step
  tOpen := a.tOpen
  merged := a.merged + b.merged + 1
  launched := a.launched + b.launched
  ended := a.ended + b.ended
  slices := a.slices + b.slices
  preempted := a.preempted + b.preempted
  overrunNs := a.overrunNs + b.overrunNs
  kvGranted := a.kvGranted + b.kvGranted
  kvDeferred := a.kvDeferred + b.kvDeferred
  kvRefused := a.kvRefused + b.kvRefused
  slotsLost := a.slotsLost + b.slotsLost
  pfxHits := a.pfxHits + b.pfxHits
  stepsArray := a.stepsArray + b.stepsArray
  stepsAttn := a.stepsAttn + b.stepsAttn
  stepsSfu := a.stepsSfu + b.stepsSfu
  runNs := a.runNs + b.runNs
  waits := (List.range 18).foldl (fun m i => mapSet m (i + 1) ((mapGet a.waits (i + 1)).getD 0 + (mapGet b.waits (i + 1)).getD 0)) []

/-- The class of a context; context 0 is latency-critical (R378). -/
def isLc (s : State) (x : CtxId) : Bool := x == 0 || (s.ctx x).lc

/-- RC_CONS, which the master writes in the record. -/
def rcCons (s : State) (x : CtxId) : BitVec 32 := BitVec.ofNat 32 (s.fetch (ctxRecord s x + 56) 4)

/-- The ring of a context has no room (R399). -/
def ringFull (s : State) (x : CtxId) : Bool :=
  let y := s.ctx x
  (y.rcProd - rcCons s x).toNat == 2 ^ y.rcLog2

/-- Writes one card into the ring and raises RC_PROD. -/
def State.writeCard (s : State) (x : CtxId) (final : Bool) (tClose : Nat) (r : Card) : State :=
  let y := s.ctx x
  let s := s.write (y.rcBase + 256 * (y.rcProd.toNat % 2 ^ y.rcLog2)) (cardBytes x (isLc s x) final y.debtNs tClose r)
  (s.modCtx x (fun y => { y with rcProd := y.rcProd + 1 })).syncCtx x

/-- The card a boundary closed is written, or stays open when the ring is full (R399). -/
def State.closeOld (s : State) (x : CtxId) : State :=
  let y := s.ctx x
  match y.old with
  | none => s
  | some r =>
    if ringFull s x then
      s.setCtx x { y with old := none, card := some (match y.card with | some c => mergeCards r c | none => r) }
    else (s.writeCard x false y.tClose r).modCtx x (fun y => { y with old := none })

/-- A batch-step boundary closes the open card of every context that is not OFF, and opens the next (R399). -/
def State.rollCards (s : State) : State :=
  allCtxs.foldl (fun s x =>
    if (s.ctx x).state = .off then s else
    (s.closeOld x).modCtx x (fun y =>
      { y with old := y.card, tClose := s.bell, card := some { Card.reset with step := s.kvStep, tOpen := s.bell } })) s

/-- REPORT_CARD_CLOSE. -/
def execReportCardClose (s : State) : Host.Outcome State Fault Refusal :=
  .next (if s.up then allCtxs.foldl (fun s x => if (s.ctx x).state = .off then s else s.closeOld x) s else s)

/-- A context that goes OFF: its open card becomes the final card once the ring has room; until then boundaries merge (R399). -/
def State.closeFinal (s : State) (x : CtxId) : State := (s.closeOld x).modCtx x (fun y => { y with closing := true })

/-- A draining context without threads closes its final card (R377). -/
def State.drainCheck (s : State) (x : CtxId) : State :=
  let y := s.ctx x
  if y.state = .draining && y.threads = 0 && !y.closing then s.closeFinal x else s

/-- FINAL_REPORT_CARD: the final card is written when the ring has room, then STATE reads OFF, and a teardown's record is
written (R397, R399, R424). -/
def execFinalReportCard (x : CtxId) (s : State) : Host.Outcome State Fault Refusal :=
  .next (
    if !s.up || !(s.ctx x).closing then s else
    let s := s.closeOld x
    let y := s.ctx x
    if ringFull s x then s else
    let td := y.teardown
    let s := match y.card with
      | some r => s.writeCard x td.isSome s.bell r
      | none => s
    let s := ((s.modCtx x (fun y => { y with state := .off, card := none, closing := false, teardown := none })).syncCtx x).discardArrivals x
    match td with
    | none => s
    | some t =>
      let src := match t.core with | some c => (coreDie c).toNat | none => 0
      s.logEvent ⟨s.bell, 2, src, t.cause, some x, none, t.tag, 0, leBytes 8 t.t0 ++ leBytes 8 t.grants.toNat⟩)

end Sys2Proof.Machine
end

