-- ==== Sys2Proof/Machine/KvSets.lean ====
section
/-! DEFINITION. Page tables, frame sets, reference counts, lost frames and the scrub (spec/12_kv_pages_prefix.md R275 to R282,
R298, R299, R305 to R307, spec/19_errors_reliability.md R470, R472). -/
namespace Sys2Proof.Machine

/-- The pool of a slot: that of its context. -/
def poolOfSlot (s : State) (n : SlotId) : BitVec 4 := (s.kvCtx (s.slot n).ctx).pool

/-- Address of the entry for stream σ and block b (R277); row NS is the ownership row. -/
def entryAddr (s : State) (n : SlotId) (stream b : Nat) : Nat := (s.slot n).pt + 8 * (stream * (s.slot n).cap + b)

def entryOf (s : State) (n : SlotId) (stream b : Nat) : Word := BitVec.ofNat 64 (s.fetch (entryAddr s n stream b) 8)
def State.putEntry (s : State) (n : SlotId) (stream b : Nat) (v : Word) : State := s.store (entryAddr s n stream b) 8 v.toNat

def entryV (e : Word) : Bool := e.getLsbD 26
/-- RO of a stream entry, SHARED of an ownership entry. -/
def entryRo (e : Word) : Bool := e.getLsbD 27
def entrySet (e : Word) : Nat := fieldOf e 21 0

/-- The ownership entry of a block (R279). -/
def ownOf (s : State) (n : SlotId) (b : Nat) : Word := entryOf s n (s.pool (poolOfSlot s n)).ns b

/-- Writes all NS + 1 entries of a block. -/
def State.putBlock (s : State) (n : SlotId) (b : Nat) (own : Word) (stream : Nat → Word) : State :=
  let p := s.pool (poolOfSlot s n)
  ((List.range p.ns).foldl (fun s i => s.putEntry n i b (stream i)) s).putEntry n p.ns b own

/-- Blocks a slot holds: those whose ownership entry is valid. -/
def heldBlocks (s : State) (n : SlotId) : List Nat := (List.range (s.slot n).cap).filter (fun b => entryV (ownOf s n b))

/-- Number of blocks that `t` tokens need. -/
def blocksOf (t : Nat) : Nat := ceilDiv t 64

/-- Address of set `k`'s first frame, and its size. -/
def setAddr (p : Pool) (k : Nat) : Nat := p.base + k * p.ns * (p.frame * 2048)
def setBytes (p : Pool) : Nat := p.ns * (p.frame * 2048)

/-- Clears the index way that a set names, if the way still names it (R291, R299). The bucket lies in the index of some
context that uses the pool. -/
def State.clearWay (s : State) (p : BitVec 4) (k : Nat) : State :=
  let r := s.setRec (s.pool p) k
  allCtxs.foldl (fun s x =>
    let j := s.kvCtx x
    let a := j.idx + 64 * r.bucket + 16 * r.way
    if j.pool = p && j.domain = r.domain && 8 ≤ j.idxB.toNat && r.bucket < 2 ^ j.idxB.toNat
       && bitField (s.fetch a 16) 21 0 == k && (s.fetch a 16).testBit 22 then s.store a 16 0 else s) s

/-- Retired sets by pool and number (R472). -/
def retiredKey (p : BitVec 4) (k : Nat) : Nat := p.toNat * 2 ^ 22 + k

/-- The scrub of a set without references: zeros are written and read back; what the read-back finds is open, so a free value
decides (R472, log 5). -/
def State.scrub (s : State) (p : BitVec 4) (k : Nat) : State :=
  let q := s.pool p
  let s : State := { s with failedSets := setDel s.failedSets (retiredKey p k) }
  let f := (s.zero (setAddr q k) (setBytes q)).free
  if f.1.getLsbD 0 then
    let s := f.2.putSetRec q k { setFree with state := .lost }
    let s : State := { s with retired := setAdd s.retired (retiredKey p k) }
    s.error 0 0x010C k [BitVec.ofNat 8 p.toNat]
  else f.2.putSetRec q k setFree

/-- A private set is released (R299); one in which an error was found is scrubbed first (R305). -/
def State.freePrivate (s : State) (p : BitVec 4) (k : Nat) : State :=
  let q := s.pool p
  if setHas s.failedSets (retiredKey p k) || s.poisoned (setAddr q k) (setBytes q) then s.scrub p k else s.putSetRec q k setFree

/-- A shared reference is dropped (R299). -/
def State.dropRef (s : State) (p : BitVec 4) (k : Nat) : State :=
  let q := s.pool p
  let r := s.setRec q k
  let n := r.refs - 1
  match r.state with
  | .frozen => s.putSetRec q k { r with refs := n, state := if n = 0 then .cached else .frozen }
  | .detached => if n = 0 then s.freePrivate p k else s.putSetRec q k { r with refs := n }
  | .lost => if n = 0 then s.scrub p k else s.putSetRec q k { r with refs := n }
  | _ => s

/-- A block of a slot is released: its set or its reference, and its entries (R290, R299). -/
def State.releaseBlock (s : State) (n : SlotId) (b : Nat) : State :=
  let p := poolOfSlot s n
  let o := ownOf s n b
  if !entryV o then s else
  let s := s.putBlock n b 0 (fun _ => 0)
  if entryRo o then s.dropRef p (entrySet o) else s.freePrivate p (entrySet o)

/-- The slot maps a set that is LOST (R307). -/
def mapsLost (s : State) (n : SlotId) : Bool :=
  let q := s.pool (poolOfSlot s n)
  (heldBlocks s n).any (fun b => let o := ownOf s n b; entryRo o && (s.setRec q (entrySet o)).state == .lost)

/-- The slot maps set `k` of pool `p` by reference. -/
def mapsSet (s : State) (n : SlotId) (p : BitVec 4) (k : Nat) : Bool :=
  poolOfSlot s n == p && (heldBlocks s n).any (fun b => let o := ownOf s n b; entryRo o && entrySet o == k)

/-- A slot enters FAILED or PREFIX_LOST: SLOTS_LOST counts (Table 15.6). -/
def State.slotLost (s : State) (n : SlotId) (st : SlotState) : State :=
  let t := s.slot n
  (s.setSlot n { t with state := st, lostIdle := t.state == .idle, evictable := false }).modCard t.ctx (fun r => { r with slotsLost := r.slotsLost + 1 })

/-- An uncorrectable error in a private frame (R305). -/
def State.slotFails (s : State) (n : SlotId) : State :=
  match (s.slot n).state with
  | .unassigned | .failed => s
  | _ => s.slotLost n .failed

/-- An uncorrectable error in a frozen set (R306): LOST, its way cleared, every mapping slot PREFIX_LOST; with no reference it
is scrubbed at once (R472). -/
def State.setLost (s : State) (p : BitVec 4) (k : Nat) : State :=
  let q := s.pool p
  let r := s.setRec q k
  if r.state = .lost then s else
  let s := if r.state = .detached then s else s.clearWay p k
  let hit := s.slots.filterMap (fun e =>
    let n : SlotId := BitVec.ofNat 14 e.1
    if e.2.state ≠ .unassigned && mapsSet s n p k then some n else none)
  let marked := hit.filter (fun n => let t := (s.slot n).state; t == .idle || t == .live || t == .paused)
  let refs := if r.state = .cached then 0 else r.refs
  let s := s.putSetRec q k { r with state := .lost, refs := refs }
  let s := marked.foldl (fun s n => s.slotLost n .prefixLost) s
  let s := s.error 0 0x0103 k ([BitVec.ofNat 8 p.toNat, 0, 0, 0] ++ leBytes 4 marked.length)
  if refs = 0 then s.scrub p k else s

/-- A set record is poisoned (R470 code 4). -/
def State.setRecPoisoned (s : State) (p : BitVec 4) (k : Nat) : State :=
  let q := s.pool p
  let r := s.setRec q k
  match r.state with
  | .priv => s.slotFails r.slot
  | .free =>
    let s := s.putSetRec q k { setFree with state := .lost }
    let s : State := { s with retired := setAdd s.retired (retiredKey p k) }
    s.error 0 0x010C k [BitVec.ofNat 8 p.toNat]
  | .lost => s
  | _ => s.setLost p k

/-- An uncorrectable error at a main-tier unit: the unit is poisoned, and what it holds decides (Table 13.5). -/
def wrecOfPage (s : State) (page : Nat) : Option Nat :=
  (List.range s.wrecCount).find? (fun k => let r := s.wrec k; r.hpage == page && (r.state == .resident || r.state == .refetch))

def State.uncorrectable (s : State) (unit : Nat) : State :=
  let s := s.hbmUncorr
  let off := 32 * unit
  let mark (s : State) : State := { s with memPoison := setAdd s.memPoison unit }
  match wrecOfPage s (off / 2 ^ 21) with
  | some k =>
    let r := s.wrec k
    let s := mark s
    if r.state = .resident then s.startMig k .refetch (satAdd 0xFFFF r.refetches 1) true else s
  | none =>
    match poolAt s off with
    | some p =>
      let q := s.pool p
      let k := (off - q.base) / setBytes q
      let r := s.setRec q k
      let s := mark s
      (match r.state with
        | .priv => ({ s with failedSets := setAdd s.failedSets (retiredKey p k) } : State).slotFails r.slot
        | .free | .lost => s
        | _ => s.setLost p k)
    | none => mark s

/-- FREE and CACHED sets of a pool. -/
def setsIn (s : State) (p : BitVec 4) (t : SetState) : List Nat :=
  let q := s.pool p
  (List.range q.sets).filter (fun k => (s.setRec q k).state == t && !setHas s.retired (retiredKey p k))

/-- Sets of a pool that count as FREE for the test of R418. -/
def freeCount (s : State) (p : BitVec 4) : Nat := (setsIn s p .free).length
def retiredCount (s : State) (p : BitVec 4) : Nat :=
  (s.retired.filter (fun k => k / 2 ^ 22 == p.toNat)).length

/-- The age of a set (R291). -/
def setAge (s : State) (r : SetRec) : Nat := (s.kvStep.toNat + 2 ^ 32 - r.lastStep) % 2 ^ 32

/-- The CACHED set to reclaim: greatest age, then lower number. -/
def oldest (s : State) (q : Pool) : List Nat → Option Nat
  | [] => none
  | k :: t =>
    match oldest s q t with
    | none => some k
    | some j =>
      let a := setAge s (s.setRec q j)
      let b := setAge s (s.setRec q k)
      if a < b ∨ (a = b ∧ k ≤ j) then some k else some j

end Sys2Proof.Machine
end

