-- ==== Sys2Proof/Machine/Flags.lean ====
section
/-! DEFINITION. The sticky flags of a thread (R68 to R72) and the condition codes of CMP and BRC (R149, R153). -/
namespace Sys2Proof.Machine

/-- The nibble of FLAGS that an engine sets, by its lowest bit (Table 3.8). The bulk DMA and the crumb unit set none. -/
def nibbleOf : Engine → Option Nat
  | .arrayA => some 0 | .arrayB => some 4 | .sfu => some 8 | .attn => some 12 | _ => none

/-- FLAGS with an engine's four flags accumulated (R71). -/
def orFlags (w : BitVec 16) (e : Engine) (f : Flags) : BitVec 16 :=
  match nibbleOf e with
  | some n => w ||| (f.setWidth 16 <<< n)
  | none => w

def Thread.orFlags (t : Thread) (e : Engine) (f : Flags) : Thread := { t with flags := Machine.orFlags t.flags e f }

/-- Table 7.3: a condition code applied to two words; codes 6 and above are reserved. -/
def condHolds (code : Nat) (x y : Word) : Bool :=
  match code with
  | 0 => x == y
  | 1 => x != y
  | 2 => x.slt y
  | 3 => !x.slt y
  | 4 => x.ult y
  | 5 => !x.ult y
  | _ => false

end Sys2Proof.Machine
end

