-- ==== Sys2Proof/Machine/Operands.lean ====
section
/-! DEFINITION. What every instruction the sequencer issues has in common: when a core issues, the fetch, the check of the
words, the guard (R125 to R127, R137), the operand forms of the scalar instructions, and tile descriptors (R122). -/
namespace Sys2Proof.Machine

/-- Core `c` issues an instruction now: it runs a thread that no hold and no stop keeps from issuing (R88, R135). -/
def canIssue (s : State) (c : CoreId) : Bool :=
  let k := s.core c
  s.up && k.inService && k.running.isSome && k.stop.isNone && k.hold.isNone

/-- The thread issues or is held: it has a running seat that is not being stopped. -/
def canHold (s : State) (c : CoreId) : Bool :=
  let k := s.core c
  s.up && k.inService && k.running.isSome && k.stop.isNone

/-- One instruction word is fetched from a code page (R127, R154). -/
def fetchWord (s : State) (x : CtxId) (pc : Word) : Option Bad :=
  match translate s x pc 8 .fetch with
  | .error b => some b
  | .ok l => match l.offset s with
    | some off => if readPoison s off 8 then some ⟨cPoison, none⟩ else none
    | none => none

/-- The weight record whose page one of the `n` words of an instruction waits for (R334). -/
def fetchWaits (s : State) (x : CtxId) (pc : Word) : Nat → Option Nat
  | 0 => none
  | n + 1 =>
    match translate s x pc 8 .fetch with
    | .ok (.weight k _) => if (s.wrec k).state = .resident then fetchWaits s x (pc + 8) n else some k
    | _ => fetchWaits s x (pc + 8) n

/-- The fetch of the `n` words of an instruction. -/
def fetchBad (s : State) (x : CtxId) (pc : Word) : Nat → Option Bad
  | 0 => none
  | n + 1 =>
    match fetchWord s x pc with
    | some b => some b
    | none => fetchBad s x (pc + 8) n

/-- R125: bits [2:0] name a predicate, bit 3 negates it. -/
def guardOn (t : Thread) (g : BitVec 4) : Bool := t.p (g.setWidth 3) != g.getLsbD 3

/-- The program counter moves past `n` words. -/
def Thread.skip (t : Thread) (n : Nat) : Thread := { t with pc := t.pc + BitVec.ofNat 64 (8 * n) }

/-- Issue of an instruction of `n` words: the fetch, which waits for a weight page that is not RESIDENT, then the check of the words whatever the guard, then the guard, then
the body (R125, R126, R127, R137). A core that does not issue now is unchanged (log 1). -/
def State.issue (s : State) (c : CoreId) (guard : BitVec 4) (reserved : Bool) (n : Nat) (body : State → State) : State :=
  if !canIssue s c then s else
  let t := (s.core c).th
  match (s.core c).runCtx with
  | none => s
  | some x =>
    match fetchBad s x t.pc n with
    | some b => s.faultBad c t.pc b
    | none =>
      match fetchWaits s x t.pc n with
      | some k => s.demand k
      | none =>
      if reserved || guard == 8 then s.fault c cReserved t.pc []
      else if !guardOn t guard then s.modTh c (·.skip n)
      else body s

/-- A sequencer instruction of one word whose effect is on its own thread (R146). -/
def State.onThread (s : State) (c : CoreId) (f : Thread → Thread) : State := s.modTh c (fun t => (f t).skip 1)

/-! The operand forms of the scalar instructions. -/

def aluGuard : AluForm → BitVec 4
  | .reg f => f.guard
  | .imm f => f.guard

def aluD : AluForm → BitVec 5
  | .reg f => f.d
  | .imm f => f.d

/-- The two operands: s[A] and s[B], or s[A] and sext(IMM) (R148, R149). -/
def aluArgs (o : AluForm) (t : Thread) : Word × Word :=
  match o with
  | .reg f => (t.s f.a, t.s f.b)
  | .imm f => (t.s f.a, sextImm f.imm)

/-- The minor opcode field. -/
def aluSub : AluForm → Nat
  | .reg f => f.sub.toNat
  | .imm f => f.sub.toNat

/-- A minor opcode that Table 7.2 does not list, or a field the entry does not use: C, X and KT in F0, KT in F1, and IMM[31:6]
of an immediate shift (R126, R148). -/
def aluReserved (o : AluForm) (isShift : Bool) : Bool :=
  decide (9 ≤ aluSub o) ||
  match o with
  | .reg f => f.c != 0 || f.x != 0 || f.kt != 0
  | .imm f => f.kt != 0 || (isShift && f.imm >>> 6 != 0)

/-- A minor opcode other than 0 and 1, which LI, BR and CALL do not list (R151, R153). -/
def minorReserved (f : F1) : Bool := f.sub >>> 1 != 0

/-- s[A] + sext(IMM) (R153, R155, R172). -/
def f1Addr (f : F1) (t : Thread) : Word := t.s f.a + sextImm f.imm

/-- A relative target (R153). -/
def relTarget (pc : Word) (imm : BitVec 32) : Word := pc + (sextImm imm <<< 3)

/-! Tile descriptors (Table 6.2). -/

structure Tile where
  baseW : Nat
  strideW : Nat
  rows : Nat
  cols : Nat
  fmt : Nat
  circ : BitVec 4
  circEn : Bool
  pop : Bool
  deriving DecidableEq, Repr

def tileOf (d : BitVec 256) : Tile :=
  let n := d.toNat
  ⟨bitField n 16 0, bitField n 31 17, bitField n 76 64, bitField n 116 96, bitField n 132 128,
   BitVec.ofNat 4 (bitField n 139 136), n.testBit 140, n.testBit 141⟩

/-- A reserved bit of a descriptor is set (R122). -/
def tileReserved (d : BitVec 256) : Bool :=
  let n := d.toNat
  bitField n 63 32 ≠ 0 || bitField n 95 77 ≠ 0 || bitField n 127 117 ≠ 0 || bitField n 135 133 ≠ 0 || bitField n 255 142 ≠ 0

end Sys2Proof.Machine
end

