-- ==== Sys2Proof/Machine/LoadStore.lean ====
section
/-! DEFINITION. Scalar loads and stores and the two events that end them (spec/07_akaux_control_memory.md R155 to R158,
spec/06_akaux_programming_model.md R132). -/
namespace Sys2Proof.Machine

/-- Width in bytes: minor opcode bits [1:0] (Table 7.4). -/
def accessWidth (f : F1) : Nat := 2 ^ (f.sub.toNat % 4)

def loadReserved (f : F1) : Bool := f.kt != 0 || f.sub >>> 3 != 0
def storeReserved (f : F1) : Bool := f.kt != 0 || f.sub >>> 2 != 0

/-- A loaded value of `w` bytes, zero- or sign-extended (Table 7.4). -/
def extend (v w : Nat) (sx : Bool) : Word :=
  if sx && v.testBit (8 * w - 1) then BitVec.ofNat 64 (v + (2 ^ 64 - 2 ^ (8 * w))) else BitVec.ofNat 64 v

def misaligned (a : Word) (w : Nat) : Bool := decide (a.toNat % w ≠ 0)

/-- LD.S (R155, R156); `ecc` is what the code of the word read finds (R105). -/
def execLdS (c : CoreId) (f : F1) (ecc : Ecc) (s : State) : Host.Outcome State Fault Refusal :=
  .next (s.issue c f.guard (loadReserved f) 1 (fun s =>
    let t := (s.core c).th
    let a := f1Addr f t
    if misaligned a (accessWidth f) then s.fault c cAlignment t.pc []
    else if padSize ≤ a.toNat then s.fault c cTranslation t.pc []
    else
      let s := s.spadEcc c (a.toNat / 64) ecc
      let k := s.core c
      if k.padPoison a.toNat (accessWidth f) then s.fault c cPoison t.pc []
      else s.onThread c (fun t => t.setS f.d (extend (k.padLoad a.toNat (accessWidth f)) (accessWidth f) (f.sub.getLsbD 2)))))

/-- ST.S: performed before the next instruction issues; it never clears poison (R107, R132, R156). -/
def execStS (c : CoreId) (f : F1) (s : State) : Host.Outcome State Fault Refusal :=
  .next (s.issue c f.guard (storeReserved f) 1 (fun s =>
    let t := (s.core c).th
    let a := f1Addr f t
    if misaligned a (accessWidth f) then s.fault c cAlignment t.pc []
    else if padSize ≤ a.toNat then s.fault c cTranslation t.pc []
    else (s.modCore c (fun k => k.padStore a.toNat (accessWidth f) (t.s f.d).toNat)).onThread c id))

/-- The load that a place and the fields give. -/
def loadOf (f : F1) : Loc → Load
  | .main off => ⟨f.d, accessWidth f, f.sub.getLsbD 2, none, off, none, none⟩
  | .weight k off => ⟨f.d, accessWidth f, f.sub.getLsbD 2, none, off, some k, none⟩
  | .remote h off => ⟨f.d, accessWidth f, f.sub.getLsbD 2, some h, off, none, none⟩

/-- LD.G: checked at issue, then it holds the sequencer until its data returns (R157, R158). -/
def execLdGWith (send : State → CoreId → Load → State) (c : CoreId) (f : F1) (s : State) : State :=
  s.issue c f.guard (loadReserved f) 1 (fun s =>
    let k := s.core c
    let a := f1Addr f k.th
    if misaligned a (accessWidth f) then s.fault c cAlignment k.th.pc []
    else match k.runCtx with
      | none => s
      | some x =>
        match translate s x a (accessWidth f) .read with
        | .error b => s.faultBad c k.th.pc b
        | .ok l =>
          let s := (l.demand s).modCore c (fun k => { k with hold := some (.load (loadOf f l)) })
          send s c (loadOf f l))

/-- ST.G: checked at issue and posted (R132, R157, R158). -/
def execStG (c : CoreId) (f : F1) (s : State) : Host.Outcome State Fault Refusal :=
  .next (s.issue c f.guard (storeReserved f) 1 (fun s =>
    let k := s.core c
    let a := f1Addr f k.th
    let post (chip : Option (BitVec 12)) (off : Nat) (tag : Option (BitVec 16)) : State :=
      (s.modCore c (fun k => { k with posted := k.posted ++ [⟨chip, off, accessWidth f, k.th.s f.d, k.th.pc, tag⟩] })).onThread c id
    if misaligned a (accessWidth f) then s.fault c cAlignment k.th.pc []
    else match k.runCtx with
      | none => s
      | some x =>
        match translate s x a (accessWidth f) .write with
        | .error b => s.faultBad c k.th.pc b
        | .ok (.main off) => post none off none
        | .ok (.remote h off) => (post (some h) off (some s.nextTag)).askWord c 0 x askStore h off (accessWidth f) (k.th.s f.d).toNat
        | .ok (.weight _ _) => s))

/-- A posted store overlaps the bytes of a load (R132: the sequencer's accesses to one address keep program order). -/
def Posted.overlaps (p : Posted) (l : Load) : Bool :=
  p.chip == l.chip && l.wrec.isNone && decide (p.off < l.off + l.width) && decide (l.off < p.off + p.width)

/-- The load's thread goes on with its data. -/
def State.loadDone (s : State) (c : CoreId) (l : Load) (v : Nat) : State :=
  s.modCore c (fun k => { k with hold := none, th := (k.th.setS l.d (extend v l.width l.sx)).skip 1 })

/-- The load faults; no data reaches the register (R158). -/
def State.loadFault (s : State) (c : CoreId) (cause : Nat) : State :=
  (s.modCore c (fun k => { k with hold := none })).fault c cause (s.core c).th.pc []

/-- A channel controller accepts requests: it is in service, and no stack or die has reached the emergency point (R141, R342). -/
def channelIn (s : State) (ch : ChanId) : Bool := s.unitIn (.channel ch) && !s.power.emergency

/-- A channel accepts a core's requests: it serves, and the core's die reaches its die (R406). -/
def channelFor (s : State) (c : CoreId) (ch : ChanId) : Bool := channelIn s ch && joined s (coreDie c) (ch.getLsbD 7)

/-- The context of a core may still write a posted store's place when its controller performs it (R281). -/
def storeAllowed (s : State) (k : Core) (p : Posted) : Bool := k.runCtx.all (fun x => poolAllows s x p.off true)

/-- ST_G_PERFORMED: the posted store at place `i` is performed at its channel controller, unless an earlier one to the
same bytes waits (R132, R134, R281, R327). One on another chip is performed once its DONE has come. -/
def execStGPerformed (c : CoreId) (i : Nat) (s : State) : Host.Outcome State Fault Refusal :=
  .next (
    let k := s.core c
    match k.posted[i]? with
    | none => s
    | some p =>
      let earlier := (k.posted.take i).any (fun q => q.chip == p.chip && decide (q.off < p.off + p.width) && decide (p.off < q.off + q.width))
      if !s.up || earlier || p.tag.isSome || (p.chip.isNone && !channelFor s c (channelOf p.off)) then s else
      let t := s.setCore c { k with posted := k.posted.eraseIdx i }
      match p.chip with
      | some _ => t
      | none =>
        if !storeAllowed s k p then t.fault c cTranslation p.addr []
        else (t.store p.off p.width p.v.toNat).count (0x208 + 16 * ((channelOf p.off).toNat / 32)) p.width)

end Sys2Proof.Machine
end

