-- ==== Sys2Proof/Machine/Praline.lean ====
section
/-! DEFINITION. The Praline record, its terms, its addition and its one rounding: spec/04_praline_dot_product.md R74 to R87,
the tally terms and moments of spec/09_fused_chains.md R232 and R237. -/
namespace Sys2Proof.Machine

/-- The common form of R58: sign, biased exponent, 12-bit significand, class. -/
structure Common where
  cls : Cls
  neg : Bool
  e : Nat
  m : Nat
  deriving DecidableEq, Repr

/-- R58: an array-input value in the common form; exact because its significand has at most 12 bits. -/
def commonOf (v : Val) : Common :=
  match v.cls with
  | .nan => ⟨.nan, false, 0, 0⟩
  | .inf => ⟨.inf, v.neg, 0, 0⟩
  | .zero => ⟨.zero, v.neg, 0, 0⟩
  | .fin =>
    let p := msbIndex v.n
    ⟨.fin, v.neg, (v.q + p + 511).toNat, shiftInt v.n (11 - (p : Int))⟩

/-- 1.0 in the common form (spec/11_attention_engine.md, ONE). -/
def commonOne : Common := ⟨.fin, false, 511, 0x800⟩

/-- R494: a W value to the common form, rounded to 12 bits by RNE. -/
def toCommon (v : Val) : Common × Flags :=
  match v.cls with
  | .nan => (⟨.nan, false, 0, 0⟩, 0)
  | .inf => (⟨.inf, v.neg, 0, 0⟩, 0)
  | .zero => (⟨.zero, v.neg, 0, 0⟩, 0)
  | .fin =>
    let r := roundAt (some 12) ((msbIndex v.n : Int) + v.q - 11) .rne v.n v.q
    let e := r.lsb + 522
    if e > 1023 then (⟨.inf, v.neg, 0, 0⟩, flOverflow ||| flInexact)
    else if e < 1 then (⟨.zero, v.neg, 0, 0⟩, flInexact)
    else (⟨.fin, v.neg, e.toNat, r.k⟩, flIf r.inexact flInexact)

/-- The value a common form holds: m * 2^(e - 522). -/
def valOfCommon (c : Common) : Val :=
  match c.cls with
  | .nan => valNan
  | .inf => valInf c.neg
  | .zero => valZero c.neg
  | .fin => valFin c.neg c.m ((c.e : Int) - 522)

/-- A Praline record (Table 4.1): V, AF and the flags OV, MIS, INX, INV in bits 0 to 3 of `f`. -/
structure Praline where
  v : BitVec 112
  af : BitVec 12
  f : BitVec 4
  deriving DecidableEq, Repr

def prOv : BitVec 4 := 1
def prMis : BitVec 4 := 2
def prInx : BitVec 4 := 4
def prInv : BitVec 4 := 8

/-- The empty record (R79). -/
def prEmpty : Praline := ⟨0, 0, 0⟩

/-- The 128 bits of a record (Table 4.1). -/
def prBits (r : Praline) : BitVec 128 := r.f ++ r.af ++ r.v

/-- The record of 128 bits (Table 4.1). -/
def prOfBits (w : BitVec 128) : Praline :=
  ⟨w.extractLsb' 0 112, w.extractLsb' 112 12, w.extractLsb' 124 4⟩

/-- The largest magnitude of the valid window, in units (R75). -/
def prMax : Nat := 2 ^ 95 - 1

/-- The anchor field of an anchor: A + 2048. -/
def anchorField (a : Int) : BitVec 12 := BitVec.ofInt 12 (a + 2048)

/-- The anchor a record's field holds. -/
def anchorOf (r : Praline) : Int := (r.af.toNat : Int) - 2048

/-- A signed count of units. -/
def prUnits (neg : Bool) (t : Nat) : BitVec 112 := if neg then -(BitVec.ofNat 112 t) else BitVec.ofNat 112 t

/-- The exact magnitude n * 2^q as a term at anchor A, truncated toward zero (R75, R232). -/
def magTerm (neg : Bool) (n : Nat) (q : Int) (a : Int) : Praline :=
  let af := anchorField a
  if (msbIndex n : Int) + q ≥ a + 31 then ⟨prUnits neg prMax, af, prOv⟩
  else
    let sh := q - (a - 64)
    if 0 ≤ sh then ⟨prUnits neg (n <<< sh.toNat), af, 0⟩
    else
      let w := (-sh).toNat
      ⟨prUnits neg (n >>> w), af, if n % 2 ^ w = 0 then 0 else prInx⟩

/-- R75: the term of one operand pair at anchor A. -/
def term (x y : Common) (a : Int) : Praline :=
  if x.cls = .inf || x.cls = .nan || y.cls = .inf || y.cls = .nan then ⟨0, anchorField a, prInv⟩
  else if x.cls = .zero || y.cls = .zero then ⟨0, anchorField a, 0⟩
  else magTerm (x.neg != y.neg) (x.m * y.m) ((x.e : Int) + y.e - 1044) a

/-- R232: the term of one exact value at anchor A. -/
def vterm (v : Val) (a : Int) : Praline :=
  match v.cls with
  | .inf | .nan => ⟨0, anchorField a, prInv⟩
  | .zero => ⟨0, anchorField a, 0⟩
  | .fin => magTerm v.neg v.n v.q a

/-- R80: the sum of two records. -/
def prAdd (x y : Praline) : Praline :=
  if x = prEmpty then y
  else if y = prEmpty then x
  else
    let mis := x.af = 0 || y.af = 0 || x.af ≠ y.af
    let f := x.f ||| y.f ||| (if mis then prMis else 0)
    let af := if x.af.toNat ≤ y.af.toNat then x.af else y.af
    if f &&& prMis ≠ 0 then ⟨0, af, f⟩ else ⟨x.v + y.v, af, f⟩

/-- The flags a term raises in its engine's nibble (R77). -/
def termFlags (t : Praline) : Flags :=
  flIf (t.f &&& prOv ≠ 0) flOverflow ||| flIf (t.f &&& prInx ≠ 0) flInexact ||| flIf (t.f &&& prInv ≠ 0) flInvalid

/-- The screen of R85 that every reading of a record makes first. -/
inductive PrScreen where
  | empty | bad | beyond (neg : Bool) | ok (v : Int)
  deriving DecidableEq, Repr

/-- R85: malformed, MIS or INV; then OV or outside the valid window; then the value. -/
def prScreen (r : Praline) : PrScreen :=
  if r = prEmpty then .empty
  else if r.af = 0 || r.f &&& prMis ≠ 0 || r.f &&& prInv ≠ 0 then .bad
  else if r.f &&& prOv ≠ 0 || r.v.toInt > prMax || r.v.toInt < -(prMax : Int) then .beyond (decide (r.v.toInt < 0))
  else .ok r.v.toInt

/-- R85: converts a record to a format without a block scale. Inexact counts from INX; a result below the smallest
normal with inexact from either source sets underflow (Table 3.9). -/
def prConvert (f : Fmt) (mode : Rnd) (r : Praline) : Nat × Flags :=
  let mode := modeFor f mode
  match prScreen r with
  | .empty => (zeroBits f false, 0)
  | .bad => ((writeNan f).1, flInvalid)
  | .beyond s => writeOverflow f mode s
  | .ok v =>
    let inx := r.f &&& prInx ≠ 0
    if v = 0 then (zeroBits f false, flIf inx flInexact)
    else
      let e := encodeVal f mode (valFin (decide (v < 0)) v.natAbs (anchorOf r - 64))
      (e.1, e.2 ||| flIf inx flInexact
        ||| flIf (inx && belowNormal (fmtLayout f) v.natAbs (anchorOf r - 64)) flUnderflow)

/-- A record as the value that enters an MX block (R86): a NaN or an overflow result counts as infinite in step 1 of
R67; the flags are those the converting engine sets for it. -/
def prToVal (r : Praline) : Val × Flags :=
  match prScreen r with
  | .empty => (valZero false, 0)
  | .bad => (valNan, flInvalid)
  | .beyond s => (valInf s, flOverflow ||| flInexact ||| flInvalid)
  | .ok v => (valOfInt v (anchorOf r - 64), flIf (r.f &&& prInx ≠ 0) flInexact)

/-- R227: a record into W, by R85 with W64 as destination. -/
def prToW (r : Praline) : Val × Flags :=
  let c := prConvert .w64 .rne r
  (decodeVal .w64 c.1 none, c.2)

/-- A tally record (Table 9.3). -/
structure Tally where
  sx : Praline
  sq : Praline
  n : BitVec 32
  seen : BitVec 32
  expect : BitVec 32
  deriving DecidableEq, Repr

/-- A tally record from the bytes of its word (Table 9.3). -/
def tallyOfBytes (b : List Byte) : Tally :=
  ⟨prOfBits (BitVec.ofNat 128 (ofLeBytes (b.take 16))), prOfBits (BitVec.ofNat 128 (ofLeBytes ((b.drop 16).take 16))),
   BitVec.ofNat 32 (ofLeBytes ((b.drop 32).take 4)), BitVec.ofNat 32 (ofLeBytes ((b.drop 36).take 4)),
   BitVec.ofNat 32 (ofLeBytes ((b.drop 40).take 4))⟩

/-- The first 44 bytes of a tally record; bytes 44 to 63 are reserved (Table 9.3). -/
def tallyBytes (t : Tally) : List Byte :=
  leBytes 16 (prBits t.sx).toNat ++ leBytes 16 (prBits t.sq).toNat ++ leBytes 4 t.n.toNat ++ leBytes 4 t.seen.toNat
    ++ leBytes 4 t.expect.toNat

/-- A closed tally: tiles seen equal tiles expected (R230). -/
def tallyClosed (t : Tally) : Bool := t.seen = t.expect

/-- The exact square of a value. -/
def valSquare (v : Val) : Val :=
  match v.cls with
  | .fin => ⟨.fin, false, v.n * v.n, 2 * v.q⟩
  | .inf => valInf false
  | .nan => valNan
  | .zero => valZero false

/-- R232: one row's stored values added to its record. -/
def tallyRow (t : Tally) (vs : List Val) (a1 a2 : Int) : Tally :=
  { t with
    sx := vs.foldl (fun r v => prAdd r (vterm v a1)) t.sx
    sq := vs.foldl (fun r v => prAdd r (vterm (valSquare v) a2)) t.sq
    n := t.n + BitVec.ofNat 32 vs.length
    seen := t.seen + 1 }

/-- R234: what one update adds to the open-tally count. -/
def tallyOpenDelta (old new : Tally) : Int :=
  if new.seen = new.expect && old.seen ≠ 0 then -1
  else if old.seen = 0 && new.seen.toNat < new.expect.toNat then 1
  else if old.seen.toNat ≤ new.expect.toNat && new.expect.toNat < new.seen.toNat then 1
  else 0

/-- A result of R237 before its rounding: a magnitude with its sign, or a screened outcome, with the flags raised. -/
inductive Moment where
  | nan
  | beyond (neg : Bool)
  | zero
  | ratio (neg : Bool) (num : Nat) (e : Int) (den : Nat)
  deriving DecidableEq, Repr

/-- The mean of one record's sum over n elements: mu from SX, m2 from SQ (R237). n = 0 gives NaN and invalid (R193). -/
def moment1 (r : Praline) (n : Nat) : Moment × Flags :=
  if n = 0 then (.nan, flInvalid) else
  match prScreen r with
  | .empty => (.zero, 0)
  | .bad => (.nan, flInvalid)
  | .beyond s => (.beyond s, 0)
  | .ok v =>
    let fl := flIf (r.f &&& prInx ≠ 0) flInexact
    if v = 0 then (.zero, fl) else (.ratio (decide (v < 0)) v.natAbs (anchorOf r - 64) n, fl)

/-- R237, R238: the exact variance, with its screens in order. -/
def variance (t : Tally) : Moment × Flags :=
  let n := t.n.toNat
  if n = 0 then (.nan, flInvalid) else
  let sx := prScreen t.sx
  let sq := prScreen t.sq
  if sx = .bad || sq = .bad then (.nan, flInvalid) else
  let a1 := if t.sx = prEmpty then anchorOf t.sq else anchorOf t.sx
  let a2 := if t.sq = prEmpty then anchorOf t.sx else anchorOf t.sq
  let pair := a2 - 2 * a1 + 64
  if t.sx ≠ prEmpty && t.sq ≠ prEmpty && (decide (pair < -64) || decide (127 < pair)) then (.nan, flInvalid) else
  let isOver : PrScreen → Bool := fun s => match s with | .beyond _ => true | _ => false
  if isOver sx || isOver sq then (.beyond false, 0) else
  let val : PrScreen → Int := fun s => match s with | .ok v => v | _ => 0
  let fl := flIf (t.sx.f &&& prInx ≠ 0 || t.sq.f &&& prInx ≠ 0) flInexact
  let e1 := 2 * (a1 - 64)
  let e2 := a2 - 64
  let e := min e1 e2
  let num : Int := (n : Int) * val sq * 2 ^ (e2 - e).toNat - val sx * val sx * 2 ^ (e1 - e).toNat
  if num ≤ 0 then (.zero, fl) else (.ratio false num.natAbs e (n * n), fl)

/-- A moment rounded once to a format (R237). DESIGN CHOICE: a record with INX whose exact ratio is a representable subnormal sets
inexact without underflow: Table 3.9 speaks of a converted record alone (R70, log 79). -/
def encodeMoment (f : Fmt) (mode : Rnd) (m : Moment × Flags) : Nat × Flags :=
  let mode := modeFor f mode
  let r : Nat × Flags := match m.1 with
    | .nan => ((writeNan f).1, flInvalid)
    | .beyond s => writeOverflow f mode s
    | .zero => (zeroBits f false, 0)
    | .ratio s num e den => encodeRatio f mode s num e den
  (r.1, r.2 ||| m.2)

/-- A moment rounded into W by RNE (R237, R239). -/
def momentW (m : Moment × Flags) : Val × Flags :=
  let c := encodeMoment .w64 .rne m
  (decodeVal .w64 c.1 none, c.2)

end Sys2Proof.Machine
end

