-- ==== Sys2Proof/Machine/Memory.lean ====
section
/-! DEFINITION. Channel controllers, adders, patrol scrub and the translation flush (spec/13_memory_tiers.md R314, R318 to R327,
spec/07_akaux_control_memory.md R158, R160 to R166). -/
namespace Sys2Proof.Machine

/-! The adders (Table 7.5). -/

/-- Element bytes of an atomic type. -/
def atomicSize : Nat → Nat
  | 0 => 4 | 1 => 8 | 2 => 4 | 3 => 2 | _ => 16

/-- Largest element count of an atomic type. -/
def atomicMax : Nat → Nat
  | 0 => 2048 | 1 => 1024 | 2 => 2048 | 3 => 4096 | _ => 512

/-- IEEE binary32 addition with RNE; an exact zero sum is +0, by R59 (log 73). -/
def fp32Add (d x : Nat) : Nat :=
  (encodeVal .fp32 .rne (addExact (decodeVal .fp32 d none) (decodeVal .fp32 x none)).1).1

def bf16Add (d x : Nat) : Nat :=
  (encodeVal .bf16 .rne (addExact (decodeVal .bf16 d none) (decodeVal .bf16 x none)).1).1

/-- max(d, x) by R61. -/
def floatMax (f : Fmt) (d x : Nat) : Nat := (encodeVal f .rne (valMax (decodeVal f d none) (decodeVal f x none))).1

def intMax (w d x : Nat) : Nat := if (BitVec.ofNat w d).slt (BitVec.ofNat w x) then x else d

/-- One element combined at an adder (R164). -/
def combine (type : Nat) (isMax : Bool) (d x : Nat) : Nat :=
  match type, isMax with
  | 0, false => (d + x) % 2 ^ 32
  | 1, false => (d + x) % 2 ^ 64
  | 2, false => fp32Add d x
  | 3, false => bf16Add d x
  | 0, true => intMax 32 d x
  | 1, true => intMax 64 d x
  | 2, true => floatMax .fp32 d x
  | 3, true => floatMax .bf16 d x
  | _, _ => (prBits (prAdd (prOfBits (BitVec.ofNat 128 d)) (prOfBits (BitVec.ofNat 128 x)))).toNat

/-- Elements of a byte string. -/
def elementsOf (size : Nat) : (n : Nat) → List Byte → List Nat
  | 0, _ => []
  | n + 1, b => ofLeBytes (b.take size) :: elementsOf size n (b.drop size)

/-- The bytes after a piece is applied. -/
def combineBytes (type : Nat) (isMax : Bool) (old new : List Byte) : List Byte :=
  let z := atomicSize type
  let n := new.length / z
  ((List.zipWith (combine type isMax) (elementsOf z n old) (elementsOf z n new)).map (leBytes z)).flatten

/-- A read-modify-write of main memory; it never clears poison (R320). -/
def State.applyPiece (s : State) (off type : Nat) (isMax : Bool) (data : List Byte) : State :=
  { s with mem := memPut s.mem off (combineBytes type isMax (memBytes s.mem off data.length) data) }

/-- The first element equal to `a` replaced. -/
def replaceFirst {α : Type} [DecidableEq α] (a b : α) : List α → List α
  | [] => []
  | x :: t => if x = a then b :: t else x :: replaceFirst a b t

/-! Instructions in flight. -/

/-- One request of an instruction is performed. -/
def State.itemLess (s : State) (c : CoreId) (n : Nat) : State := s.modCore c (fun k => k.modItem n (fun i => { i with out := i.out - 1 }))

/-- Free bytes in a span of main memory; its poison stays. -/
def State.blurMem (s : State) (off len : Nat) : State :=
  let f := s.freeBytes len
  { f.2 with mem := memPut f.2.mem off f.1 }

/-- The spans of the scratchpad that the granules of an instruction on their way would write: at this module's controllers, and
from other chips. -/
def padSpans (s : State) (c : CoreId) (n : Nat) : List (Nat × Nat) :=
  (s.net.filter (fun r => r.core == c && r.serial == n)).filterMap (fun r => match r.op with | .toPad a => some (a, r.len) | _ => none)
  ++ (s.asked.filter (fun a => a.ofItem c n && a.what == askGranule)).map (fun a => (a.place, a.len))

/-- The granules of an instruction that have not moved leave undefined what they would have written: free bytes (R161). -/
def State.blurReqs (s : State) (c : CoreId) (n : Nat) : State := (padSpans s c n).foldl (fun s p => s.blurPad c p.1 p.2) s

/-- An instruction in flight faults its context; its other requests stay on their way, and what they read reaches nothing (R137,
R161, R325). -/
def State.itemFault (s : State) (c : CoreId) (n cause : Nat) : State :=
  match (s.core c).item n with
  | none => s
  | some i =>
    if i.phase = .finished then s else
    ((s.blurReqs c n).modCore c (fun k => k.modItem n (fun i => { i with phase := .finished }))).fault c cause i.addr []

/-- An instruction has not ended: what it reads is delivered. -/
def itemLive (s : State) (c : CoreId) (n : Nat) : Bool := ((s.core c).item n).any (fun i => i.phase != .finished)

def reqLive (s : State) (r : Req) : Bool := itemLive s r.core r.serial

/-- The main-tier offset of a request, once its page is resident. -/
def reqOffset (s : State) (r : Req) : Option Nat :=
  match r.wrec with
  | none => some r.off
  | some k => Loc.offset s (.weight k r.off)

def isBulk (r : Req) : Bool := match r.op with | .toPad _ | .write _ => true | _ => false
def isPiece (r : Req) : Bool := match r.op with | .piece _ _ _ => true | _ => false

/-- A request may be served at a channel now: its page is resident and it goes to that channel (R322, R334). -/
def eligible (s : State) (ch : ChanId) (bulk : Bool) (r : Req) : Bool :=
  isBulk r == bulk && joined s (coreDie r.core) (ch.getLsbD 7)
    && (match reqOffset s r with | some off => channelOf off == ch | none => false)

/-- The requester ports after the one served last, round robin (R322). -/
def portRound (last : Nat) : List Nat := tabulate 69 (fun i => (last + 1 + i) % 69)

/-! Crumb lanes (R323). -/

/-- The form of a core. -/
def formOf (c : CoreId) : Nat := c.toNat / 8

/-- The cores of a form after the one its lane served last. -/
def laneRound (last : Nat) : List Nat := tabulate 8 (fun i => (last + 1 + i) % 8)

/-- The crumb or piece that a form's lane passes next: the oldest of the next core in the round. -/
def laneNext (s : State) (form : Nat) : Option Req :=
  let qs := s.net.filter (fun r => !isBulk r && !r.lane && formOf r.core == form)
  (laneRound ((mapGet s.laneLast form).getD 7)).findSome? (fun i => qs.find? (fun r => r.core.toNat % 8 == i))

/-- One grant of a form's lane. -/
def State.laneGrant (s : State) (form : Nat) : State :=
  match laneNext s form with
  | none => s
  | some r => { s with net := replaceFirst r { r with lane := true } s.net, laneLast := mapSet s.laneLast form (r.core.toNat % 8) }

/-- The lanes pass crumbs and pieces round by round until one that the channel can serve has passed; at most `n` rounds. -/
def State.lanes (ch : ChanId) : (n : Nat) → State → State
  | 0, s => s
  | n + 1, s =>
    if s.net.any (fun r => r.lane && eligible s ch false r) || !s.net.any (fun r => !isBulk r && !r.lane) then s
    else State.lanes ch n ((List.range 8).foldl State.laneGrant s)

/-- The requester port of a packet from another module: the link port of the die its Quaz port is on, Q1, Q3 and Q5 on C1 (R322). -/
def linkPort (via : Option PortId) : Nat := 66 + (via.map (fun p => p.toNat % 2)).getD 0

/-- The queue of a packet's access: bulk for READ and WRITE, narrow for a crumb and the adders; none for another packet. -/
def packetQueue (p : Packet) : Option Bool :=
  if p.type = tyRead || p.type = tyWrite then some true
  else if p.type = tyCrumb || p.type = tyAtomic || p.type = tyReduce then some false
  else none

/-- The packet at place `i` of the inbox is the oldest of its source and virtual channel (R353). -/
def inboxFirst (s : State) (i : Nat) (p : Packet) : Bool := !(s.inbox.take i).any (fun o => o.2.src == p.src && o.2.vc == p.vc)

/-- A packet waits at a channel's queue at a link port. -/
def linkItem (s : State) (ch : ChanId) (bulk : Bool) (port : Nat) : Bool :=
  s.inbox.zipIdx.any (fun e => linkPort e.1.1 == port && packetQueue e.1.2 == some bulk && channelOf e.1.2.addr.toNat == ch
    && inboxFirst s e.2 e.1.2)

/-- The requests of cores that wait at a queue; a crumb or a piece has passed its lane. -/
def waitingReqs (s : State) (ch : ChanId) (bulk : Bool) : List Req :=
  s.net.filter (fun r => eligible s ch bulk r && (bulk || r.lane))

/-- The requester port whose turn it is at a queue: the next in the round that waits (R322). -/
def nextPort (s : State) (ch : ChanId) (bulk : Bool) : Option Nat :=
  (portRound ((mapGet (if bulk then s.lastBulk else s.lastNarrow) ch.toNat).getD 68)).find? (fun p =>
    linkItem s ch bulk p || (waitingReqs s ch bulk).any (fun r => r.core.toNat == p))

/-- The request a controller serves next from a queue: the oldest of the core whose turn it is. DESIGN CHOICE:
the spec gives no order among what one core has waiting (R160, R166, log 89). -/
def nextReq (s : State) (ch : ChanId) (bulk : Bool) : Option Req :=
  (nextPort s ch bulk).bind (fun p => (waitingReqs s ch bulk).find? (fun r => r.core.toNat == p))

/-- A request leaves the network; the round moves on. -/
def State.takeReq (s : State) (ch : ChanId) (bulk : Bool) (r : Req) : State :=
  let s := { s with net := s.net.erase r }
  if bulk then { s with lastBulk := mapSet s.lastBulk ch.toNat r.core.toNat }
  else { s with lastNarrow := mapSet s.lastNarrow ch.toNat r.core.toNat }

/-- What the code of a main-tier read finds at a span (R318, R319); which unit of the span fails is open (log 5). -/
def State.hbmEcc (s : State) (off len : Nat) : Ecc → State
  | .clean => s
  | .corrected => s.hbmCorr
  | .uncorrectable =>
    let f := s.free
    f.2.uncorrectable (off / 32 + f.1.toNat % ((off + len - 1) / 32 - off / 32 + 1))

/-- The request carries the epoch of the die, as a unit in service does (R140). -/
def reqCurrent (s : State) (r : Req) : Bool :=
  (s.core r.core).inService && r.epoch == (dieEpoch s (coreDie r.core)).setWidth 4

/-- A request of a unit that has left service since is discarded and counted (R140). -/
def State.stale (s : State) (r : Req) : State :=
  let s := s.modCore r.core (fun k => { k with discards := satAdd 0xFFFF k.discards 1 })
  { s with log := { s.log with discardEpoch := satAdd (2 ^ 32 - 1) s.log.discardEpoch 1 } }

/-- The die's form cache serves its atomics (R327). -/
def formCache (s : State) (die : Bool) : Bool :=
  s.unitsOut.any (fun e => match e.1 with | .channel n => n.getLsbD 7 == die | _ => false)

/-- The controllers serve: the module runs below the emergency point, and the channel is in service or is a form cache's (R327,
R342). -/
def serves (s : State) (ch : ChanId) (piece : Bool) : Bool :=
  s.up && !s.power.emergency && (channelIn s ch || (piece && formCache s (ch.getLsbD 7)))

def perfRd (off : Nat) : Nat := 0x200 + 16 * ((channelOf off).toNat / 32)
def perfWr (off : Nat) : Nat := perfRd off + 8
def perfDie (base off : Nat) : Nat := base + 8 * bitField off 38 38

/-- 2 MiB written from `off`: the four stacks of its die take 512 KiB each (R309, R421). -/
def State.countPage (s : State) (off : Nat) : State :=
  (List.range 4).foldl (fun s i => s.count (0x208 + 16 * (4 * bitField off 38 38 + i)) (2 ^ 19)) s

/-- The bytes a read of `len` gives; free bytes through a weight record whose contents are undefined (R338). -/
def State.dataOf (s : State) (wrec : Option Nat) (off len : Nat) : List Byte × State :=
  if wrec.any (wrecUndefined s) then s.freeBytes len else (memBytes s.mem off len, s)

/-- The context may still reach the place: the pool check at the controller (R281). -/
def reqAllowed (s : State) (r : Req) (off : Nat) (wr : Bool) : Bool := r.wrec.isSome || poolAllows s r.ctx off wr

/-- A read of an instruction at its channel: a fault of the pool check or of poison, else the data goes to `put` (R281, R305,
R319). -/
def State.readReq (s : State) (r : Req) (off : Nat) (ecc : Ecc) (perf : Nat) (put : State → List Byte → State) : State :=
  let s := s.hbmEcc off r.len ecc
  if (reqOffset s r).isNone then { s with net := r :: s.net }
  else if !reqAllowed s r off false then s.itemFault r.core r.serial cTranslation
  else if readPoison s off r.len then s.itemFault r.core r.serial cPoison
  else
    let d := s.dataOf r.wrec off r.len
    let s := if reqLive s r then put d.2 d.1 else d.2
    ((s.count (perfRd off) r.len).count (perfDie perf off) 1).itemLess r.core r.serial

/-- The effect of a served request at its offset. -/
def State.performReq (s : State) (r : Req) (off : Nat) (ecc : Ecc) : State :=
  if !reqCurrent s r then s.stale r else
  match r.op with
  | .write data =>
    if !reqAllowed s r off true then s.itemFault r.core r.serial cTranslation else
    (((s.write off data).count (perfWr off) r.len).count (perfDie 0x320 off) 1).itemLess r.core r.serial
  | .toPad a => s.readReq r off ecc 0x320 (fun s d => s.modCore r.core (fun k => k.padWrite a d))
  | .crumb i => s.readReq r off ecc 0x300 (fun s d => s.modCore r.core (fun k => k.modItem r.serial (fun t => { t with got := mapSet t.got i d })))
  | .piece type isMax data =>
    let s := s.hbmEcc off r.len ecc
    if !reqAllowed s r off true then s.itemFault r.core r.serial cTranslation
    else if readPoison s off r.len then s.itemFault r.core r.serial cPoison
    else
      let s := s.applyPiece off type isMax data
      (((s.count (perfRd off) 32).count (perfWr off) 32).count (perfDie 0x310 off) 1).itemLess r.core r.serial

/-- Units that a form cache of 4 MiB holds; the spec gives no line, the model takes a 32-byte unit (R327, log 83). -/
def formCacheUnits : Nat := 2 ^ 17

/-- Units of a die's destinations that its form cache holds. -/
def formHeld (s : State) (die : Bool) : Nat := (s.formLines.filter (fun u => bitField u 33 33 == die.toNat)).length

/-- A quarantined channel's atomic finds the form cache full: it waits (R327). -/
def formFull (s : State) (ch : ChanId) (off : Nat) : Bool :=
  !channelIn s ch && !setHas s.formLines (off / 32) && decide (formCacheUnits ≤ formHeld s (ch.getLsbD 7))

/-- The form cache takes the unit of an atomic to a quarantined channel; it is written back when the channel returns (R327). -/
def State.formTake (s : State) (ch : ChanId) (off : Nat) (piece : Bool) : State :=
  if piece && !channelIn s ch then { s with formLines := setAdd s.formLines (off / 32) } else s

/-- One request of a queue of a channel is served if it is of the kind asked for. -/
def State.serve (s : State) (ch : ChanId) (bulk piece : Bool) (ecc : Ecc) : State :=
  if !serves s ch piece then s else
  let t := if bulk then s else State.lanes ch s.net.length s
  match nextReq t ch bulk with
  | none => s
  | some r =>
    if isPiece r != piece then s else
    match reqOffset t r with
    | none => s
    | some off => if formFull t ch off then s else ((t.takeReq ch bulk r).formTake ch off piece).performReq r off ecc

def execGranulePerformed (ch : ChanId) (ecc : Ecc) (s : State) : Host.Outcome State Fault Refusal := .next (s.serve ch true false ecc)
def execCrumbServed (ch : ChanId) (ecc : Ecc) (s : State) : Host.Outcome State Fault Refusal := .next (s.serve ch false false ecc)
def execAdderPiece (ch : ChanId) (ecc : Ecc) (s : State) : Host.Outcome State Fault Refusal := .next (s.serve ch false true ecc)

/-- PATROL_SCRUB of one unit while Active or Idle (R318). -/
def execPatrolScrub (u : BitVec 34) (ecc : Ecc) (s : State) : Host.Outcome State Fault Refusal :=
  .next (
    if !s.up then s else
    match ecc with
    | .clean => s
    | .corrected => s.hbmCorr
    | .uncorrectable => s.uncorrectable u.toNat)

/-- The main-tier offset of a load, once its page is resident. -/
def loadOffset (s : State) (l : Load) : Option Nat :=
  match l.wrec with
  | none => some l.off
  | some k => Loc.offset s (.weight k l.off)

/-- LD_G_DATA_RETURN: the data of an outstanding LD.G, or its fault (R158). -/
def execLdGDataReturn (c : CoreId) (ecc : Ecc) (s : State) : Host.Outcome State Fault Refusal :=
  .next (
    let k := s.core c
    match k.hold with
    | some (.load l) =>
      if !s.up || k.posted.any (fun p => p.overlaps l) then s else
      match l.chip with
      | some _ =>
        match l.answer with
        | none => s
        | some (0, d) => s.loadDone c l (ofLeBytes ((d.drop (l.off % 32)).take l.width))
        | some (st, _) => s.loadFault c (if st = 1 then cPoison else cTranslation)
      | none =>
        match loadOffset s l with
        | none => s
        | some off =>
          if !channelFor s c (channelOf off) then s else
          let s := s.hbmEcc off l.width ecc
          if (loadOffset s l).isNone then s
          else if l.wrec.isNone && !k.runCtx.all (fun x => poolAllows s x off false) then s.loadFault c cTranslation
          else if readPoison s off l.width then s.loadFault c cPoison
          else
            let d := s.dataOf l.wrec off l.width
            (d.2.count (perfRd off) l.width).loadDone c l (ofLeBytes d.1)
    | _ => s)

/-- LD.G; a load from another chip travels as a CRUMB_READ of the 32 bytes that hold it (log 16). -/
def execLdG (c : CoreId) (f : F1) (s : State) : Host.Outcome State Fault Refusal :=
  .next (execLdGWith (fun s c l =>
    match l.chip, (s.core c).runCtx with
    | some h, some x => s.ask c 0 x askLoad 0 h tyCrumb 2 (l.off / 32 * 32) 0 []
    | _, _ => s) c f s)

/-! The translation flush (R314). -/

/-- An access of context `x` translated before is not yet performed. -/
def inFlight (s : State) (x : CtxId) : Bool :=
  s.net.any (fun r => r.ctx == x)
  || s.cores.any (fun e => e.2.runCtx == some x && (!e.2.posted.isEmpty || (match e.2.hold with | some (.load _) => true | _ => false)))

/-- MEM_TLB_FLUSH: CTX in [5:0], ALL in [6]; a flush that meets one in progress widens it to all contexts. -/
def execMemTlbFlush (v : Word) (s : State) : Host.Outcome State Fault Refusal :=
  .next (if s.up then
    { s with flushBusy := true, flushAll := v.getLsbD 6 || s.flushBusy, flushCtx := v.setWidth 6 } else s)

/-- TLB_FLUSH_DONE: PENDING reads 0 once every access translated with an old entry is performed. -/
def execTlbFlushDone (s : State) : Host.Outcome State Fault Refusal :=
  .next (
    if !s.up || !s.flushBusy then s
    else if (if s.flushAll then allCtxs.any (inFlight s) else inFlight s s.flushCtx) then s
    else { s with flushBusy := false })

end Sys2Proof.Machine
end

