-- ==== Sys2Proof/Machine/Flits.lean ====
section
/-! DEFINITION. Flits: layout, sending, acknowledgement and replay (spec/14_quaz_links_bell.md R346 to R349, R354 to R356). -/
namespace Sys2Proof.Machine

/-- The 128 bits of a packet header (Table 14.3). -/
def headerBitsOf (p : Packet) : Nat :=
  p.type.toNat + p.vc.toNat * 2 ^ 4 + p.detour.toNat * 2 ^ 6 + p.dst.toNat * 2 ^ 8 + p.src.toNat * 2 ^ 20 + p.ctx.toNat * 2 ^ 32
  + (p.len % 256) * 2 ^ 38 + p.tag.toNat * 2 ^ 48 + p.addr.toNat * 2 ^ 64 + p.sub.toNat * 2 ^ 112 + p.hops.toNat * 2 ^ 116

/-- A header without its data. -/
def headerOf (n : Nat) : Packet :=
  ⟨BitVec.ofNat 4 n, BitVec.ofNat 2 (bitField n 5 4), n.testBit 6, BitVec.ofNat 12 (bitField n 19 8), BitVec.ofNat 12 (bitField n 31 20),
   BitVec.ofNat 6 (bitField n 37 32), bitField n 45 38, BitVec.ofNat 16 (bitField n 63 48), BitVec.ofNat 48 (bitField n 111 64),
   BitVec.ofNat 4 (bitField n 115 112), BitVec.ofNat 6 (bitField n 121 116), []⟩

/-- A reserved TYPE, a reserved bit of Table 14.3 or, in the ADDR of a SEND, of Table 14.5, or a length past 128 chunks (R350). -/
def headerBad (n : Nat) : Bool :=
  let t := n % 16
  (t == 5 && bitField n 111 105 ≠ 0) || t == 0 || t == 7 || decide (10 < t) || n.testBit 7 || bitField n 47 46 ≠ 0 || bitField n 127 122 ≠ 0 || decide (128 < bitField n 45 38)

/-- The chunks of a packet. -/
def packetChunks (p : Packet) : List (List Byte) :=
  leBytes 16 (headerBitsOf p) :: tabulate (dataChunks p.type p.len) (fun i => ((p.data.drop (16 * i)).take 16 ++ List.replicate 16 0).take 16)

/-! Flit headers (Table 14.2). -/

def kindIdle : Nat := 0
def kindData : Nat := 1

/-- Header, payload and CRC as 256 bytes. -/
def flitBytes (kind : Nat) (seq ack : BitVec 12) (nak : Bool) (cvc cred : Nat) (session : BitVec 8) (start : BitVec 15) (payload : List Byte) : List Byte :=
  let h := kind + seq.toNat * 2 ^ 2 + ack.toNat * 2 ^ 14 + nak.toNat * 2 ^ 26 + cvc * 2 ^ 27 + (cred % 256) * 2 ^ 29 + session.toNat * 2 ^ 37 + start.toNat * 2 ^ 45
  let b := leBytes 8 h ++ (payload ++ List.replicate 240 0).take 240
  b ++ leBytes 8 (crc64 b).toNat

/-- The VC whose credit a flit returns: the first that owes any. -/
def owedVc (q : Port) : Option (Fin 4) := [0, 1, 2, 3].find? (fun i => decide (0 < q.owe[i]))

/-- The credit fields of the next flit, and the port after it. -/
def takeCredit (q : Port) : Nat × Nat × Port :=
  match owedVc q with
  | some i => let n := min 255 q.owe[i]; (i.val, n, { q with owe := q.owe.set i (q.owe[i] - n) })
  | none => (0, 0, q)

/-- An IDLE flit with ACK, NAK and credit leaves a port. -/
def Port.sendIdle (q : Port) : Port :=
  let c := takeCredit q
  { c.2.2 with sent := c.2.2.sent ++ [flitBytes kindIdle 0 q.rxLast q.nak c.1 c.2.1 q.session 0 []] }

/-- A DATA flit leaves a port. -/
def Port.sendData (q : Port) (seq : BitVec 12) (payload : List Byte) (start : BitVec 15) : Port :=
  let c := takeCredit q
  { c.2.2 with sent := c.2.2.sent ++ [flitBytes kindData seq q.rxLast q.nak c.1 c.2.1 q.session start payload] }

/-- Chunks of a packet with its header. -/
def wholeChunks (p : Packet) : Nat := 1 + dataChunks p.type p.len

/-- The packet that the arbiter of a VC passes next: the oldest of the source that stands first (R356). -/
def laneFront (q : Port) (v : Nat) : Option Queued :=
  (q.srcLine.filter (fun e => e.1 == v)).findSome? (fun e => q.queue.find? (fun x => x.lane == v && x.source == e.2))

/-- The next packet an output port sends: of the first VC in its line that has credit for it (R355, R356). -/
def sendable (q : Port) : Option Queued :=
  q.vcLine.findSome? (fun v => (laneFront q v).filter (fun x => decide (wholeChunks x.out ≤ q.credit[x.out.vc.toFin])))

/-- Packets that may leave now, at most `n` of at most `room` chunks together, with their credit taken. -/
def takeSendable : (n room : Nat) → Port → Port × List Queued
  | 0, _, q => (q, [])
  | n + 1, room, q =>
    match sendable q with
    | none => (q, [])
    | some p =>
      let i := p.out.vc.toFin
      if room < wholeChunks p.out then (q, []) else
      let r := takeSendable n (room - wholeChunks p.out) { q.dequeue p with credit := q.credit.set i (q.credit[i] - wholeChunks p.out) }
      (r.1, p :: r.2)

/-- Chunks with the mark of a header and the TAG of a request of this chip. -/
def markedChunks (chip : BitVec 12) (ps : List Packet) : List (List Byte × Bool × Option (BitVec 16)) :=
  (ps.map (fun p =>
    match packetChunks p with
    | [] => []
    | h :: t => (h, true, if p.src = chip && !isResponse p.type then some p.tag else none) :: t.map (fun c => (c, false, none)))).flatten

/-- Marked chunks go into DATA flits of 15 chunks, at most `n` flits, each kept for replay (R347, R349). -/
def sendChunks : (n : Nat) → Port → List (List Byte × Bool × Option (BitVec 16)) → Port
  | 0, q, _ => q
  | _, q, [] => q
  | n + 1, q, c :: cs =>
    let all := c :: cs
    let now := all.take 15
    let payload := (now.map (·.1)).flatten
    let start : Nat := ((List.range now.length).filter (fun i => (now.getD i ([], false, none)).2.1)).foldl (fun a i => a + 2 ^ i) 0
    let tags := now.filterMap (fun x => x.2.2)
    let q := q.sendData q.nextSeq payload (BitVec.ofNat 15 start)
    sendChunks n { q with replay := q.replay ++ [(q.nextSeq, payload, BitVec.ofNat 15 start, tags)], nextSeq := q.nextSeq + 1 } (all.drop 15)

/-- An UP port sends what its credit and its replay buffer of 4 095 flits allow, and frees the receive buffers the packets
came by (R347, R355); a port with nothing to send but credit to return sends an IDLE flit. -/
def State.pump (s : State) (p : PortId) : State :=
  let q := s.port p
  if q.state ≠ .up || q.sleeping.isSome || q.sleepSent then s
  else
    let r := takeSendable q.queue.length (15 * (4095 - q.replay.length)) q
    let m := markedChunks s.chipId (r.2.map (·.out))
    let q' := sendChunks m.length r.1 m
    let q' := if r.2.isEmpty && (owedVc q').isSome then q'.sendIdle else q'
    let s := r.2.foldl (fun s x => s.owe x.via x.pkt) (s.setPort p q')
    s.count (0x400 + 16 * p.toNat) (q'.nextSeq - q.nextSeq).toNat

def State.pumpAll (s : State) : State := allPorts.foldl State.pump s

/-- Flits up to `ack` are delivered: they leave the replay buffer if it names one of them (R347). -/
def Port.acked (q : Port) (ack : BitVec 12) : Port :=
  if q.replay.any (fun e => e.1 == ack) then
    { q with replay := (q.replay.dropWhile (fun e => e.1 != ack)).drop 1, replayCount := 0 }
  else q

/-- Everything still in the replay buffer is sent again, in order. -/
def Port.resend (q : Port) : Port := q.replay.foldl (fun q e => q.sendData e.1 e.2.1 e.2.2.1) q

/-- A port begins to train its lanes; `resume` keeps the stream (R367). -/
def Port.train (q : Port) (resume : Bool) : Port :=
  { q with state := .training, resume := resume, lanes := 0, mismatch := false, helloSeen := false, exchanges := 0, rttSum := 0,
           readySent := false, lastMsg := [], replayCount := 0, sleeping := none,
           replay := if resume then q.replay else [], partIn := if resume then q.partIn else [], partLeft := if resume then q.partLeft else 0 }

/-- A port begins to train after it lost lock; R368 counts its time from then. -/
def Port.retrain (q : Port) (resume : Bool) (now : Nat) : Port := { q.train resume with lostLock := true, lostAt := now }

/-- A port that lost lane lock retrains with RESUME = 1 (R348, R367). One whose partner has gone to sleep is DOWN instead, and trains
when the partner wakes (R442). -/
def State.loseLock (s : State) (p : PortId) : State :=
  s.modPort p (fun q => if q.sleeping.isSome then { q with state := .down }
    else { q.retrain true s.bell with retrains := satAdd 0xFF q.retrains 1 })

/-- ACK, NAK and credits of a received flit (R346, R347, R355); eight replays without progress retrain the port (R348). -/
def State.applyAck (s : State) (p : PortId) (h : Nat) : State :=
  let s := s.modPort p (fun q =>
    let q := q.acked (BitVec.ofNat 12 (bitField h 25 14))
    let i : Fin 4 := (BitVec.ofNat 2 (bitField h 28 27)).toFin
    { q with credit := q.credit.set i (min q.window[i] (q.credit[i] + bitField h 36 29)) })
  let q := s.port p
  if h.testBit 26 && !q.replay.isEmpty then
    let s := s.setPort p { q.resend with replays := satAdd 0xFFFF q.replays 1, replayCount := q.replayCount + 1 }
    if 7 ≤ q.replayCount then s.loseLock p else s
  else if q.sleeping.isSome && q.replay.isEmpty then s.setPort p { q with state := .down }
  else s

/-- A flit of another session is discarded and counted (R347). -/
def State.flitStale (s : State) (p : PortId) : State :=
  s.modPort p (fun q => { q with sessionDiscards := satAdd 0xFF q.sessionDiscards 1 })

/-- What the check of a received flit finds. -/
inductive FlitCheck where
  | bad | wrongSession | ok (h : Nat)
  deriving DecidableEq, Repr

def checkFlit (q : Port) (f : BitVec 2048) : FlitCheck :=
  let b := leBytes 256 f.toNat
  let h := ofLeBytes (b.take 8)
  if (crc64 (b.take 248)).toNat ≠ ofLeBytes (b.drop 248) then .bad
  else if bitField h 44 37 ≠ q.session.toNat then .wrongSession
  else .ok h

end Sys2Proof.Machine
end

