-- ==== Sys2Proof/Machine/Routing.lean ====
section
/-! DEFINITION. Routing tables and the port's own operations: FILL_DEFAULT, REROUTE, the port's control register, and a port
that fails or leaves service (spec/14_quaz_links_bell.md R344, R357, R362 to R368). -/
namespace Sys2Proof.Machine

/-- Coordinate `d` (0 X, 1 Y, 2 Z) of a chip number (Table 1.2). -/
def coordinate (chip : BitVec 12) (d : Nat) : Nat := bitField chip.toNat (4 * d + 3) (4 * d)

/-- The size of the torus in dimension `d`: LNK_DIMS holds it less one. -/
def dimension (dims : BitVec 12) (d : Nat) : Nat := bitField dims.toNat (4 * d + 3) (4 * d) + 1

/-- The hop in dimension `d` from coordinate `x` to `y` of a ring of `n`: the shorter way, + when both are equal; class 0
while the wrap link lies ahead, class 1 otherwise (R363). -/
def ringEntry (d x y n : Nat) : BitVec 8 :=
  let plus := (y + n - x) % n
  let minus := (x + n - y) % n
  let goPlus := decide (plus ≤ minus)
  let wraps := if goPlus then decide (y < x) else decide (x < y)
  BitVec.ofNat 8 (2 * d + (!goPlus).toNat + (!wraps).toNat * 24)

/-- The default entry of a chip (R363); NONE for a number outside the torus. -/
def defaultEntry (own dims chip : BitVec 12) : BitVec 8 :=
  let x (d : Nat) := coordinate own d
  let y (d : Nat) := coordinate chip d
  let n (d : Nat) := dimension dims d
  if chip = own then 6
  else if (List.range 3).any (fun d => decide (n d ≤ y d)) then 7
  else if x 0 ≠ y 0 then ringEntry 0 (x 0) (y 0) (n 0)
  else if x 1 ≠ y 1 then ringEntry 1 (x 1) (y 1) (n 1)
  else ringEntry 2 (x 2) (y 2) (n 2)

/-- The routing table with every entry at its default. -/
def State.fillRoutes (s : State) : State :=
  { s with routes := tabulate 4096 (fun n => (n, defaultEntry s.chipId s.dims (BitVec.ofNat 12 n))) }

/-- FILL_DEFAULT (R363). Held UNROUTABLE responses meet the new tables (R364). -/
def execFillDefault (s : State) : Host.Outcome State Fault Refusal :=
  .next (if s.up then s.fillRoutes.unstick else s)

/-- REROUTE: every packet still queued for a port that is not UP (R365, R368). Each is looked up once. -/
def execReroute (s : State) : Host.Outcome State Fault Refusal :=
  .next (
    if !s.up then s else
    let waiting := allPorts.filter (fun p => (s.port p).state != .up)
    let qs := (waiting.map (fun p => (s.port p).queue)).flatten
    let s := waiting.foldl (fun s p => s.modPort p (fun q => q.keepQueue (fun _ => false))) s
    (qs.foldl (fun s x => s.route x.pkt x.via) s).unstick)

/-- The links act: start-up is past row 7 or the module runs. -/
def State.linkUp (s : State) : Bool := s.life == .starting || s.up

/-- Reasons of a PORT_FAILED record (Table 16.10). -/
def failLanes : Nat := 1
def failHello : Nat := 2
def failMeasure : Nat := 3
def failReady : Nat := 4
def failLength : Nat := 5
def failHeader : Nat := 6

/-- A port goes to FAILED with its record (R357). -/
def State.portFail (s : State) (p : PortId) (reason lanes dm : Nat) : State :=
  (s.modPort p (fun q => { q with state := .failed })).error (p.getLsbD 0).toNat 0x010D p.toNat
    (leBytes 1 reason ++ leBytes 1 lanes ++ leBytes 2 dm)

/-- TAGs of this chip's requests in flits that no ACK has covered. -/
def unackedTags (q : Port) : List (BitVec 16) := (q.replay.map (fun e => e.2.2.2)).flatten

/-- Unacknowledged flits are given up: what they asked stays pending (R368). -/
def State.dropReplay (s : State) (p : PortId) : State :=
  let ts := unackedTags (s.port p)
  let s : State := { s with asked := s.asked.map (fun a => if ts.contains a.tag then { a with lost := true } else a) }
  s.modPort p (fun q => { q with replay := [], partIn := [], partLeft := 0 })

/-- The contexts with unacknowledged packets, one bit each. -/
def unackedCtxs (s : State) (p : PortId) : Nat :=
  let ts := unackedTags (s.port p)
  (allCtxs.filter (fun x => s.asked.any (fun a => a.ctx == x && ts.contains a.tag))).foldl (fun m x => m + 2 ^ x.toNat) 0

/-! The bell's lock (R371) follows the ports. -/

/-- A port counts for steering: UP, and its partner's last BELL message showed root or lock (R370). -/
def eligiblePort (q : Port) : Bool := q.state == .up && (q.partnerRoot || q.partnerLocked)

def eligiblePorts (s : State) : List Port := (allPorts.map s.port).filter eligiblePort

/-- A LOCKED module that has no eligible partner left is in HOLDOVER; the root shows LOCKED once its ports are UP (R371). -/
def State.bellCheck (s : State) : State :=
  if s.bellRoot then
    if s.bellState != .locked && (allPorts.any (fun p => (s.port p).en)) && allPorts.all (fun p => !(s.port p).en || (s.port p).state == .up)
    then { s with bellState := .locked } else s
  else if s.bellState == .locked && (eligiblePorts s).isEmpty then { s with bellState := .holdover, bellLost := satAdd 0xFF s.bellLost 1 }
  else s

/-- A port leaves service through R368: the PORT_OUT record, then UNIT_OUT; its queue stays. A FAILED port stays FAILED (R357). -/
def State.portOut (s : State) (p : PortId) : State :=
  if !(s.port p).inService then s else
  let s := s.error (p.getLsbD 0).toNat 0x0105 p.toNat (leBytes 8 0 ++ leBytes 8 (unackedCtxs s p))
  let s := (s.dropReplay p).modPort p (fun q =>
    { q with state := if q.state = .failed then .failed else .down, resume := false, lostLock := false, sleeping := none })
  (s.leaveService (.port p)).bellCheck

/-! The port control register. -/

def portCtrlOffset (p : PortId) : Nat := 0x0500080 + 8 * p.toNat

/-- The stored fields of LNK_PORT_CTRL (Table 14.10). -/
def Port.putCtrl (q : Port) (v : Word) : Port :=
  { q with en := v.getLsbD 0, halfOk := v.getLsbD 2, expectChip := BitVec.ofNat 12 (fieldOf v 14 3),
           expectPort := BitVec.ofNat 3 (fieldOf v 17 15), expectEn := v.getLsbD 18 }

/-- A write of LNK_PORT_CTRL: EN = 0 holds the port DISABLED; EN or RETRAIN = 1 starts its lanes (R357, R366). A retrained port
keeps its stream if it had one (R367); a port whose partner sleeps stays DOWN unless RETRAIN is written (R442). One that is out of
service trains when it returns (R141). -/
def State.writePortCtrl (s : State) (p : PortId) (v : Word) : State :=
  let q := (s.port p).putCtrl v
  if !q.en then ((s.dropReplay p).setPort p { q with state := .disabled, resume := false, lostLock := false, replay := [], partIn := [], partLeft := 0 }).bellCheck
  else if !q.inService then s.setPort p (if v.getLsbD 1 then { q with state := .down } else q)
  else
    match q.state with
    | .down =>
      if q.sleeping.isSome && !v.getLsbD 1 then s.setPort p q
      else if q.sleeping == some 3 then s.setPort p (q.retrain true s.bell)
      else s.setPort p (q.train false)
    | .disabled => s.setPort p (q.train false)
    | .up => if v.getLsbD 1 then ((s.setPort p q).loseLock p).bellCheck else s.setPort p q
    | _ => s.setPort p (if v.getLsbD 1 then q.train q.resume else q)

/-- RETRAIN: LNK_PORT_CTRL is written. -/
def execRetrain (p : PortId) (v : Word) (s : State) : Host.Outcome State Fault Refusal :=
  .next (if s.up && decide (p.toNat < 6) then s.writePortCtrl p v else s)

/-- LANE_LOCK_LOST (R367). -/
def execLaneLockLost (p : PortId) (s : State) : Host.Outcome State Fault Refusal :=
  .next (
    if !s.linkUp then s else
    match (s.port p).state with
    | .up => (s.loseLock p).bellCheck
    | .rollCall => s.modPort p (fun q => q.train q.resume)
    | _ => s)

/-- PORT_OUT_TIMEOUT: not UP within 100 ms of losing lock (R368). -/
def execPortOutTimeout (p : PortId) (s : State) : Host.Outcome State Fault Refusal :=
  .next (
    let q := s.port p
    if s.up && q.lostLock && (q.state == .training || q.state == .rollCall || q.state == .failed) && decide (q.lostAt + 100000000 ≤ s.bell)
    then s.portOut p else s)

end Sys2Proof.Machine
end

