-- ==== Sys2Proof/Machine/Alarm.lean ====
section
/-! DEFINITION. The tamper sensors and what their levels do: notice, lock, erase (spec/18_security_identity.md R461 to R465, R467,
spec/13_memory_tiers.md R342). -/
namespace Sys2Proof.Machine

/-! Sensors of Table 18.6. -/
def senMesh : Fin 9 := 0
def senLid : Fin 9 := 1
def senUnderV : Fin 9 := 2
def senRail : Fin 9 := 3
def senClock : Fin 9 := 4
def senTemp : Fin 9 := 5
def senIdentity : Fin 9 := 6
def senSysArea : Fin 9 := 7
def senProbe : Fin 9 := 8

/-- An alarm record: code 0x0200 + n, the level in byte 32, a rail or die number in byte 33 (R467). -/
def alarmEvent (s : State) (n : Fin 9) (level : Nat) (extra : Nat) : Event :=
  ⟨s.bell, 4, 2, 0x0200 + n.val, none, none, 0, 0, leBytes 1 level ++ leBytes 1 extra⟩

/-- An accepted write is performed, another request is not; which had been accepted is open (R342, log 5). -/
def State.lastWrite (s : State) (r : Req) : State :=
  match r.op with
  | .write data =>
    let f := s.free
    if f.1.getLsbD 0 then f.2.write r.off data else f.2
  | .piece type isMax data =>
    let f := s.free
    if f.1.getLsbD 0 then f.2.applyPiece r.off type isMax data else f.2
  | _ => s

/-- The same of a posted ST.G to this module. -/
def State.lastStore (s : State) (p : Posted) : State :=
  if p.chip.isSome then s else
  let f := s.free
  if f.1.getLsbD 0 then f.2.store p.off p.width p.v.toNat else f.2

/-- The controllers perform the writes they have accepted; no other request of the memory network is performed after (R342). -/
def State.lastWrites (s : State) : State :=
  let s := s.net.foldl State.lastWrite s
  let s := ((s.cores.map (fun e => e.2.posted)).flatten).foldl State.lastStore s
  { s with net := s.net.filter (fun r => match r.op with | .write _ | .piece _ _ _ => false | _ => true),
           cores := s.cores.map (fun e => (e.1, { e.2 with posted := e.2.posted.filter (fun p => p.chip.isSome) })) }

/-- Every link goes down (R463). -/
def State.linksDown (s : State) : State :=
  { s with
    ports := s.ports.map (fun e => (e.1, { e.2 with state := if e.2.state = .disabled then .disabled else .down, lanes := 0 })),
    eths := s.eths.map (fun e => (e.1, { e.2 with en := false })),
    pcie := { s.pcie with width := 0, rate := 0 } }

/-- The lock (R463): everything stops, accepted writes are performed, links go down, and only RESET_N ends it. -/
def State.lockDown (s : State) : State :=
  ({ s.lastWrites with life := .locked, net := [] } : State).linksDown

/-- An alarm record in the lock log, which holds 64 records (R463). -/
def State.lockRecord (s : State) (e : Event) : State :=
  if s.sec.lockLog.length < 64 then { s with sec := { s.sec with lockLog := s.sec.lockLog ++ [e] } } else s

/-- Erase steps 1 and 2: the keys in use, the session store, the wrapped key and the helper data (Table 18.7). -/
def State.eraseKeys (s : State) : State :=
  { s with sec := { s.sec with sessionStore := [], wrappedKey := false, helper := false, erasing := true } }

/-- Erase steps 3 and 4: every scratchpad and main memory zeroed; saved threads lie in main memory (Table 18.7). No request of
the memory network and no posted store is left to write after them. -/
def State.eraseMemory (s : State) : State :=
  { s with mem := [], memPoison := [], net := [],
           cores := s.cores.map (fun e => (e.1, { e.2 with pad := [], seats := .replicate 4 none, posted := e.2.posted.filter (fun p => p.chip.isSome) })),
           sec := { s.sec with erasing := false } }

/-- The sensors are armed: from row 1 of start-up until the module is Off (R447, R451). -/
def State.armed (s : State) : Bool :=
  match s.life with
  | .off | .inReset => false
  | _ => true

/-- A trip of a sensor at its level (R461 to R465). It abandons a running SEC command. -/
def State.alarm (s : State) (n : Fin 9) (extra : Nat) : State :=
  let level := s.sec.levels[n]
  let e := alarmEvent s n level extra
  let s : State := { s with sec := { s.sec with
    sensors := s.sec.sensors ||| (1#9 <<< n.val), alarm := max s.sec.alarm level, abandoned := s.sec.abandoned || s.sec.busy } }
  match level with
  | 1 => if s.life = .locked then s.lockRecord e else s.logEvent e
  | 2 => let s := s.lockRecord e; if s.sec.erasing || s.life = .locked then s else s.lockDown
  | _ => if s.sec.erasing then s.lockRecord e else (s.lockRecord e).eraseKeys

/-- A sensor trips while the sensors are armed. -/
def State.trip (s : State) (n : Fin 9) (extra : Nat) : State := if s.armed then s.alarm n extra else s

/-- MESH_CHECK (R461). -/
def execMeshCheck (broken : Bool) (s : State) : Host.Outcome State Fault Refusal := .next (if broken then s.trip senMesh 0 else s)

/-- LID_CHECK (R461). -/
def execLidCheck (broken : Bool) (s : State) : Host.Outcome State Fault Refusal := .next (if broken then s.trip senLid 0 else s)

/-- ERASE_COMPLETE: the last steps of an erase, then the lock (R464); an erase goes on under reset. -/
def execEraseComplete (s : State) : Host.Outcome State Fault Refusal :=
  .next (if s.sec.erasing && s.life != .off then s.eraseMemory.lockDown else s)

/-- CLOCK_EXCURSION (R38). -/
def execClockExcursion (s : State) : Host.Outcome State Fault Refusal := .next (s.trip senClock 0)

end Sys2Proof.Machine
end

