-- ==== Sys2Proof/Machine/Tiles.lean ====
section
/-! DEFINITION. Tiles in scratchpad: the checks of a descriptor, the area it names, and rows of elements read and written
(spec/06_akaux_programming_model.md R122, R123, R493; spec/03_number_formats.md R52 to R54, R62, R67). -/
namespace Sys2Proof.Machine

/-- The rectangle a descriptor names once its region's slot is known, in bytes. -/
structure Area where
  base : Nat
  stride : Nat
  rows : Nat
  cols : Nat
  fmt : Fmt
  deriving DecidableEq, Repr

/-- Row length in bytes (R122). -/
def rowBytes (f : Fmt) (cols : Nat) : Nat := ceilDiv (cols * fmtBits f) 8

/-- Stride of a scale row: one byte per block, rounded up to 64 B (R54). -/
def scaleStride (cols : Nat) : Nat := roundUp (cols / 32) 64

/-- The footprint in words: rows and stride, and an MX format's scale plane (R122). -/
def footprintW (f : Fmt) (rows strideW cols : Nat) : Nat :=
  rows * strideW + (if fmtIsMx f then rows * (scaleStride cols / 64) else 0)

/-- The checks of R123 that the role's format rule is no part of, in this order: the fields, the format code, the row, the
region or the end of the scratchpad (R52, R114; log 20). -/
def checkTile (th : Thread) (d : BitVec 256) (isOut : Bool) : Except Nat (Tile × Fmt) :=
  let t := tileOf d
  if tileReserved d || t.rows = 0 || 4096 < t.rows || t.cols = 0 || 2 ^ 20 < t.cols || t.strideW = 0 then .error cDescriptor else
  match fmtOfCode t.fmt with
  | none => .error cReserved
  | some f =>
    let w := footprintW f t.rows t.strideW t.cols
    if 64 * t.strideW < rowBytes f t.cols || (fmtIsMx f && t.cols % 32 ≠ 0) || (isOut && t.pop) then .error cDescriptor
    else if t.circEn then
      let r := th.circ t.circ
      if r.broken then .error cCircular
      else if !r.en || r.slotW.toNat < w then .error cDescriptor
      else .ok (t, f)
    else if padSize < 64 * (t.baseW + w) then .error cDescriptor
    else .ok (t, f)

/-- The area of a checked descriptor; `slot` is the slot number when the tile lies in a region. -/
def areaOf (th : Thread) (t : Tile) (f : Fmt) (slot : BitVec 16) : Area :=
  ⟨if t.circEn then (th.circ t.circ).slotAt slot else 64 * t.baseW, 64 * t.strideW, t.rows, t.cols, f⟩

def Area.rowBytes (a : Area) : Nat := Machine.rowBytes a.fmt a.cols
def Area.rowAt (a : Area) (r : Nat) : Nat := a.base + r * a.stride
def Area.scaleAt (a : Area) (r : Nat) : Nat := a.base + a.rows * a.stride + r * scaleStride a.cols
def Area.bytes (a : Area) : Nat := 64 * footprintW a.fmt a.rows (a.stride / 64) a.cols

/-- A poisoned word lies under a row or a scale row of the tile (R106). -/
def Core.tilePoison (k : Core) (a : Area) : Bool :=
  (List.range a.rows).any (fun r => k.padPoison (a.rowAt r) a.rowBytes || (fmtIsMx a.fmt && k.padPoison (a.scaleAt r) (a.cols / 32)))

/-- The first `n` codes of `b` bits of a little-endian row (R53). -/
def codesOf (b : Nat) : (n row : Nat) → List Nat
  | 0, _ => []
  | n + 1, row => row % 2 ^ b :: codesOf b n (row / 2 ^ b)

/-- The row a list of codes of `b` bits makes; unused bits are zero (R53). -/
def packCodes (b : Nat) : List Nat → Nat
  | [] => 0
  | c :: t => c % 2 ^ b + 2 ^ b * packCodes b t

def Core.rowCodes (k : Core) (a : Area) (r : Nat) : List Nat := codesOf (fmtBits a.fmt) a.cols (k.padLoad (a.rowAt r) a.rowBytes)
def Core.rowScales (k : Core) (a : Area) (r : Nat) : List Nat := (k.padBytes (a.scaleAt r) (a.cols / 32)).map BitVec.toNat

/-- The exact values of one row (R49 to R55). -/
def Core.rowVals (k : Core) (a : Area) (r : Nat) : List Val :=
  if fmtIsMx a.fmt then
    let sc := k.rowScales a r
    (k.rowCodes a r).mapIdx (fun j c => decodeVal a.fmt c (some (sc.getD (j / 32) 0)))
  else (k.rowCodes a r).map (fun c => decodeVal a.fmt c none)

/-- The records of one row of a Praline tile. -/
def Core.rowRecs (k : Core) (a : Area) (r : Nat) : List Praline := (k.rowCodes a r).map (fun c => prOfBits (BitVec.ofNat 128 c))

/-- One element of a tile; +0 outside it. -/
def elemAt (rows : List (List Val)) (i j : Nat) : Val := (rows.getD i []).getD j (valZero false)

def Core.tileVals (k : Core) (a : Area) : List (List Val) := tabulate a.rows (k.rowVals a)

/-- One row written: its codes, and its scale bytes if the format has them. Exactly the row's bytes are written (R53, R54). -/
def Core.writeRow (k : Core) (a : Area) (r : Nat) (codes scales : List Nat) : Core :=
  let k := k.padWrite (a.rowAt r) (leBytes a.rowBytes (packCodes (fmtBits a.fmt) codes))
  if fmtIsMx a.fmt then k.padWrite (a.scaleAt r) (scales.map (BitVec.ofNat 8)) else k

/-- A row of results rounded to a format: codes, scales, flags. -/
structure RowOut where
  codes : List Nat
  scales : List Nat
  flags : Flags

/-- Blocks of 32 results into an MX format (R67); at most `n` blocks. -/
def encodeBlocks (f : Fmt) : (n : Nat) → List (Val × Rnd) → RowOut
  | 0, _ => ⟨[], [], 0⟩
  | n + 1, vs =>
    let b := encodeMxBlock f (vs.take 32)
    let r := encodeBlocks f n (vs.drop 32)
    ⟨b.1 ++ r.codes, b.2.1 :: r.scales, b.2.2 ||| r.flags⟩

def foldFlags (fs : List Flags) : Flags := fs.foldl (fun a f => a ||| f) 0

/-- Exact or W values, each with the rounding of its own position, into a stored format (R62, R67). -/
def encodeRow (f : Fmt) (vs : List (Val × Rnd)) : RowOut :=
  if fmtIsMx f then encodeBlocks f (vs.length / 32) vs
  else
    let es := vs.map (fun p => encodeVal f p.2 p.1)
    ⟨es.map Prod.fst, [], foldFlags (es.map Prod.snd)⟩

/-- A record with INX whose value lies below its MX element's smallest normal sets underflow, even where the element holds it
exactly (Table 4.2); a NaN block writes no element. -/
def prMxUnderflow (f : Fmt) (scales : List Nat) (j : Nat) (v : Val × Flags) : Flags :=
  let sc := scales.getD (j / 32) 0xFF
  flIf (v.1.cls = .fin && v.2 &&& flInexact ≠ 0 && decide (sc ≠ 0xFF)
    && belowNormal (fmtLayout f) v.1.n (v.1.q - ((sc : Int) - 127))) flUnderflow

/-- Praline records into a stored format (R85, R86). -/
def encodePrRow (f : Fmt) (ps : List (Praline × Rnd)) : RowOut :=
  if fmtIsMx f then
    let vs := ps.map (fun p => (prToVal p.1, p.2))
    let r := encodeBlocks f (vs.length / 32) (vs.map (fun v => (v.1.1, v.2)))
    { r with flags := r.flags ||| foldFlags (vs.map (fun v => v.1.2)) ||| foldFlags (vs.mapIdx (fun j v => prMxUnderflow f r.scales j v.1)) }
  else
    let es := ps.map (fun p => prConvert f p.2 p.1)
    ⟨es.map Prod.fst, [], foldFlags (es.map Prod.snd)⟩

/-- The values as stored (R232). -/
def RowOut.vals (o : RowOut) (f : Fmt) : List Val :=
  o.codes.mapIdx (fun j c => decodeVal f c (if fmtIsMx f then some (o.scales.getD (j / 32) 0) else none))

/-! What a captured instruction says of its tiles. -/

/-- The slot of a region that the instruction claimed or reads. -/
def slotIn (l : List (BitVec 4 × BitVec 16)) (r : BitVec 4) : BitVec 16 := ((l.find? (fun e => e.1 == r)).map (·.2)).getD 0

/-- The area of a captured descriptor; the checks have passed at the head. -/
def Item.area (i : Item) (th : Thread) (d : BitVec 256) (isOut : Bool) : Area :=
  let t := tileOf d
  areaOf th t ((fmtOfCode t.fmt).getD .fp32) (slotIn (if isOut then i.claims else i.reads) t.circ)

/-- The rounding at output element (r, c): the draw is taken at the captured origin plus the position (R65, R178). -/
def Item.rndAt (i : Item) (r c : Nat) : Rnd :=
  rndOf i.rnd i.seed (BitVec.ofNat 32 (fieldOf i.torigin 63 32 + r)) (BitVec.ofNat 32 (fieldOf i.torigin 31 0 + c))

/-- A signed 12-bit anchor or immediate. -/
def anchorInt (a : BitVec 12) : Int := a.toInt

/-- R493: alignment, then the end of the scratchpad, then poison. `none`: the area may be read. -/
def areaBad (k : Core) (a len align : Nat) : Option Nat :=
  if a % align ≠ 0 then some cAlignment
  else if padSize < a + len then some cDescriptor
  else if k.padPoison a len then some cPoison
  else none

/-- The same checks for an area that is only written. -/
def areaOutBad (a len align : Nat) : Option Nat :=
  if a % align ≠ 0 then some cAlignment else if padSize < a + len then some cDescriptor else none

/-- The first failing check of a list. -/
def firstBad : List (Option Nat) → Option Nat
  | [] => none
  | some c :: _ => some c
  | none :: t => firstBad t

end Sys2Proof.Machine
end

