-- ==== Sys2Proof/Machine/Blur.lean ====
section
/-! DEFINITION. Outputs the spec leaves undefined: free bytes in their place, never past the output itself
(spec/00_scope.md R14, spec/08_akaux_tensor.md R180; log 5). -/
namespace Sys2Proof.Machine

/-- Output bytes, or free bytes in their place. -/
def State.blur (s : State) (on : Bool) (bs : List Byte) : List Byte × State := if on then s.freeBytes bs.length else (bs, s)

/-- One scratchpad write of an output. -/
def State.padOut (s : State) (c : CoreId) (on : Bool) (w : Nat × List Byte) : State :=
  let r := s.blur on w.2
  r.2.modCore c (fun k => k.padWrite w.1 r.1)

/-- The byte spans of a tile's rows and scale rows. -/
def Area.spans (a : Area) : List (Nat × Nat) :=
  tabulate a.rows (fun r => (a.rowAt r, a.rowBytes)) ++ (if fmtIsMx a.fmt then tabulate a.rows (fun r => (a.scaleAt r, a.cols / 32)) else [])

/-- Two lists of spans share a byte. -/
def spansMeet (xs ys : List (Nat × Nat)) : Bool := xs.any (fun x => ys.any (fun y => overlap x.1 x.2 y.1 y.2))

/-- Every row of a tile becomes free bytes. -/
def State.blurArea (s : State) (c : CoreId) (a : Area) : State :=
  a.spans.foldl (fun s x => s.padOut c true (x.1, List.replicate x.2 0)) s

/-- Same base, stride and element width: each element is read before it is overwritten (R180). -/
def inPlace (a o : Area) : Bool := a.base == o.base && a.stride == o.stride && fmtBits a.fmt == fmtBits o.fmt

/-- An input tile overlaps the output in a way R180 does not allow; `mayShare` for VOP, CONVERT and NORM. -/
def badOverlap (mayShare : Bool) (o a : Area) : Bool := spansMeet a.spans o.spans && !(mayShare && inPlace a o)

/-- After an instruction is performed: its output is free where R180 leaves it undefined. `extra` lists other spans read. -/
def State.blurIf (s : State) (c : CoreId) (i : Item) (mayShare : Bool) (ins : List (BitVec 256)) (extra : List (Nat × Nat)) : State :=
  let th := (s.core c).th
  let o := i.area th i.tdo true
  if ((s.core c).item i.serial).any (fun j => j.phase == .performed)
     && (ins.any (fun d => badOverlap mayShare o (i.area th d false)) || spansMeet extra o.spans) then s.blurArea c o else s

end Sys2Proof.Machine
end

