-- ==== Sys2Proof/Machine/SpecialFunctions.lean ====
section
/-! DEFINITION. The special functions of spec/10_special_functions.md R244 to R251. Beyond R250 the spec fixes a W result to
a bound of E ulps of the exact function, to the seam guard and to monotonicity: the exact function is computed here to more
than 200 bits, and an opaque constant of Config says from which exact value on each W value within the bound is given. -/
namespace Sys2Proof.Machine

/-! Fixed-point arithmetic: a natural number counts units of 2^-w. -/

/-- Sum of a series whose term i + 1 is `nextTerm i term`, `fuel` terms, from term index `i`. -/
def series (nextTerm : Nat → Nat → Nat) : (fuel i t : Nat) → Nat
  | 0, _, _ => 0
  | fuel + 1, i, t => t + series nextTerm fuel (i + 1) (nextTerm i t)

/-- atanh of t / 2^w for t below 2^w / 2: the sum of t^(2i+1) / (2i+1). -/
def atanhFix (w t : Nat) : Nat :=
  let t2 := (t * t) >>> w
  let rec go : (fuel i p : Nat) → Nat
    | 0, _, _ => 0
    | fuel + 1, i, p => p / (2 * i + 1) + go fuel (i + 1) ((p * t2) >>> w)
  go (w / 3 + 8) 0 t

/-- atan of 1 / d, an alternating sum. -/
def atanInv (w d : Nat) : Nat :=
  let rec go : (fuel i p : Nat) → Int
    | 0, _, _ => 0
    | fuel + 1, i, p => (p / (2 * i + 1) : Nat) - go fuel (i + 1) (p / (d * d))
  (go (w / 4 + 8) 0 (2 ^ w / d)).toNat

/-- ln 2 in units of 2^-w. -/
def lnTwo (w : Nat) : Nat := 2 * atanhFix w (2 ^ w / 3)

/-- pi in units of 2^-w. -/
def piFix (w : Nat) : Nat := 16 * atanInv w 5 - 4 * atanInv w 239

/-- e^(r / 2^w) for r below 2^w. -/
def expFix (w r : Nat) : Nat := series (fun i t => (t * r / (i + 1)) >>> w) (w / 2 + 16) 0 (2 ^ w)

/-- sin and cos of r / 2^w for r below 2 * 2^w, as signed sums. -/
def sinFix (w r : Nat) : Nat :=
  let r2 := (r * r) >>> w
  let rec go : (fuel i t : Nat) → Int
    | 0, _, _ => 0
    | fuel + 1, i, t => (t : Int) - go fuel (i + 1) (((t * r2) >>> w) / ((2 * i + 2) * (2 * i + 3)))
  (go (w / 2 + 16) 0 r).toNat

def cosFix (w r : Nat) : Nat :=
  let r2 := (r * r) >>> w
  let rec go : (fuel i t : Nat) → Int
    | 0, _, _ => 0
    | fuel + 1, i, t => (t : Int) - go fuel (i + 1) (((t * r2) >>> w) / ((2 * i + 1) * (2 * i + 2)))
  (go (w / 2 + 16) 0 (2 ^ w)).toNat

/-- The working precision. -/
def workBits : Nat := 384

/-- A positive real as a significand times a power of two; a significand of 0 stands for a value too small to matter. -/
abbrev Approx := Nat × Int

/-- The signed fixed-point number x * 2^w of a finite value, truncated. -/
def fixOf (w : Nat) (x : Val) : Int :=
  let m : Int := (shiftInt x.n (x.q + w) : Nat)
  if x.neg then -m else m

/-- As fixOf, rounded down. -/
def floorOf (w : Nat) (x : Val) : Int :=
  let f := fixOf w x
  if x.neg && decide (x.q + w < 0) && decide (x.n % 2 ^ (-(x.q + w)).toNat ≠ 0) then f - 1 else f

/-- e^X for X in units of 2^-w, |X| below 2^13 * 2^w (EXP, and the exponentials inside other functions). -/
def expReal (w : Nat) (x : Int) : Approx :=
  let l := lnTwo (w + 16)
  let k := (x * 2 ^ 16) / (l : Int)
  let r := ((x * 2 ^ 16) - k * l).toNat
  (expFix (w + 16) r, k - (w + 16 : Nat))

/-- 2^-4096: below every W value and every flush threshold. -/
def tiny : Approx := (1, -4096)

/-- 1 plus or less a vanishing part. -/
def nearOne (below : Bool) : Approx := (if below then 2 ^ workBits - 1 else 2 ^ workBits + 1, -(workBits : Int))

/-- A finite value so small that a smooth function of it differs from its value at zero by a vanishing part. -/
def vanishing (x : Val) : Bool := decide ((msbIndex x.n : Int) + x.q < -300)

/-- e^x of a finite value, with a stand-in far outside the W range when |x| is 8192 or more. -/
def expVal (x : Val) : Approx :=
  if vanishing x then nearOne x.neg else
  if (msbIndex x.n : Int) + x.q ≥ 13 then (if x.neg then tiny else (1, 4096)) else expReal workBits (fixOf workBits x)

/-- The natural logarithm of n * 2^q as a sign and an approximation. -/
def lnReal (n : Nat) (q : Int) : Bool × Approx :=
  let w := workBits
  let p := msbIndex n
  let k := q + p
  let one := 2 ^ p
  let t := ((n - one) <<< w) / (n + one)
  let m : Int := 2 * atanhFix w t
  let total := m + k * lnTwo w
  (decide (total < 0), (total.natAbs, -(w : Int)))

/-- ln (1 + y) for y = n * 2^q positive: y itself less a vanishing part when y is below 2^-300. -/
def ln1pReal (y : Approx) : Approx :=
  let w := workBits
  if y.1 = 0 then tiny
  else if (msbIndex y.1 : Int) + y.2 < -300 then (y.1 * 2 ^ 64 - 1, y.2 - 64)
  else
    let e : Int := min 0 y.2
    let num := y.1 <<< (y.2 - e).toNat
    let den := 2 ^ (-e).toNat
    if num ≤ 2 * den then
      let extra := if num = 0 then 0 else msbIndex den - min (msbIndex num) (msbIndex den)
      let w' := w + extra
      (2 * atanhFix w' ((num <<< w') / (num + 2 * den)), -(w' : Int))
    else (lnReal (num + den) e).2

/-- The product and the quotient of two approximations. -/
def apMul (x y : Approx) : Approx := (x.1 * y.1, x.2 + y.2)
def apDiv (x y : Approx) : Approx := ((x.1 <<< (workBits + msbIndex y.1)) / y.1, x.2 - y.2 - (workBits + msbIndex y.1 : Nat))

/-- The sum of an approximation and 1. -/
def apAddOne (x : Approx) : Approx :=
  if (msbIndex x.1 : Int) + x.2 < -(4 * workBits : Int) then (2 ^ (4 * workBits) + 1, -(4 * workBits : Int))
  else
    let e := min 0 x.2
    ((x.1 <<< (x.2 - e).toNat) + 2 ^ (-e).toNat, e)

/-- 1 / (1 + e^-X) for X in units of 2^-w given with its overflow already excluded. -/
def sigmoidReal (w : Nat) (x : Int) : Approx :=
  if x < 0 then let e := expReal w x; apDiv e (apAddOne e)
  else apDiv (1, 0) (apAddOne (expReal w (-x)))

/-- One half plus or less a vanishing part. -/
def nearHalf (below : Bool) : Approx := ((nearOne below).1, (nearOne below).2 - 1)

/-- SIGMOID of a finite value. -/
def sigmoidVal (x : Val) : Approx :=
  if vanishing x then nearHalf x.neg else
  if (msbIndex x.n : Int) + x.q ≥ 13 then (if x.neg then tiny else (2 ^ workBits - 1, -(workBits : Int)))
  else sigmoidReal workBits (fixOf workBits x)

/-- erf of X / 2^w, X at or above 0, in units of 2^-w: 2 / sqrt(pi) * e^(-x^2) * sum of 2^i x^(2i+1) / (2i+1)!!. -/
def erfFix (w x : Nat) : Nat :=
  let x2 := (x * x) >>> w
  let n := 8 * (x2 >>> w) + w + 32
  let s := series (fun i t => (t * (2 * x2) / (2 * i + 3)) >>> w) n 0 x
  let e := expReal w (-(x2 : Int))
  let ex := shiftInt e.1 (e.2 + w)
  let p := (((2 * s * ex) >>> w) <<< w) / Nat.sqrt (piFix w <<< w)
  min p (2 ^ w - 1)

/-- The bits that keep erfc accurate at |x|: x^2 * log2 e lies below 2 x^2. -/
def erfBits (x : Val) : Nat := workBits + 3 * (shiftInt (x.n * x.n) (2 * x.q)) + 16

/-- x over the square root of 2, in units of 2^-w. -/
def overRootTwo (w : Nat) (x : Val) : Nat := (shiftInt x.n (x.q + w) <<< w) / Nat.sqrt (2 ^ (2 * w + 1))

/-- The standard normal distribution function of a finite value. -/
def phiVal (x : Val) : Approx :=
  if vanishing x then nearHalf x.neg else
  if (msbIndex x.n : Int) + x.q ≥ 6 then (if x.neg then tiny else (2 ^ workBits - 1, -(workBits : Int)))
  else
    let w := erfBits x
    let e := erfFix w (overRootTwo w x)
    (if x.neg then 2 ^ w - e else 2 ^ w + e, -(w + 1 : Nat))

/-- A finite value's magnitude as an approximation. -/
def apOf (x : Val) : Approx := (x.n, x.q)

/-- A function of the form x * (1 - small) for a small |x|, given by its value in a fixed-point window: below 2^-100 the
result is x times `slope`, less a vanishing part. -/
def oddSmall (x : Val) (slope : Approx) : Approx :=
  let p := apMul (apOf x) slope
  (p.1 * 2 ^ 64 - 1, p.2 - 64)

/-- |tanh x|, |erf x| of a finite value. -/
def tanhAbs (x : Val) : Approx :=
  let top := (msbIndex x.n : Int) + x.q
  if top < -100 then oddSmall x (1, 0)
  else if top ≥ 11 then (2 ^ workBits - 1, -(workBits : Int))
  else
    let w := workBits + 128
    let e := expReal w (2 * (fixOf w (valAbs x)))
    let ex := shiftInt e.1 (e.2 + w)
    (((ex - 2 ^ w) <<< w) / (ex + 2 ^ w), -(w : Int))

def erfAbs (x : Val) : Approx :=
  let top := (msbIndex x.n : Int) + x.q
  if top < -100 then
    let w := workBits
    oddSmall x (((2 * 2 ^ w) <<< w) / Nat.sqrt (piFix w <<< w), -(w : Int))
  else if top ≥ 4 then (2 ^ workBits - 1, -(workBits : Int))
  else let w := workBits + 128; (erfFix w (fixOf w (valAbs x)).toNat, -(w : Int))

/-- The quadrant and the remainder of |x| by pi / 2, in units of 2^-w (Table 10.2). -/
def reducePi (w : Nat) (x : Val) : Nat × Nat :=
  let big := w + (max 0 ((msbIndex x.n : Int) + x.q)).toNat + 16
  let half := piFix big >>> 1
  let y := shiftInt x.n (x.q + big)
  (y / half, (y % half) >>> (big - w))

/-- sin and cos of a finite value as a sign and a magnitude. -/
def sinVal (x : Val) : Bool × Approx :=
  let w := workBits
  if (msbIndex x.n : Int) + x.q < -100 then (x.neg, oddSmall x (1, 0))
  else
    let r := reducePi w x
    let m := if r.1 % 2 = 0 then sinFix w r.2 else cosFix w r.2
    (x.neg != decide (r.1 % 4 ≥ 2), (m, -(w : Int)))

def cosVal (x : Val) : Bool × Approx :=
  let w := workBits
  if (msbIndex x.n : Int) + x.q < -150 then (false, (2 ^ w - 1, -(w : Int)))
  else
    let r := reducePi w x
    let m := if r.1 % 2 = 0 then cosFix w r.2 else sinFix w r.2
    (decide (r.1 % 4 = 1 || r.1 % 4 = 2), (m, -(w : Int)))

/-- 2 * sqrt(2 / pi) * (x + 0.044715 x^3) in units of 2^-w, for |x| below 2^6. -/
def geluTanhArg (w : Nat) (x : Val) : Int :=
  let f := fixOf w x
  let cube := f * f / 2 ^ w * f / 2 ^ w
  let s := f + cube * 44715 / 1000000
  let c : Nat := Nat.sqrt ((8 * 2 ^ (3 * w)) / piFix w)
  s * c / 2 ^ w

/-- The special functions of Table 10.1. -/
inductive SfuFn where
  | exp | exp2 | log | log2 | recip | sqrt | rsqrt | tanh | sigmoid | silu | gelu | geluTanh | softplus | erf | sin | cos | relu
  deriving DecidableEq, Repr

/-- The unary function a code names (Table 10.1). -/
def sfuUnary : Nat → Option SfuFn
  | 0x20 => some .exp | 0x21 => some .exp2 | 0x22 => some .log | 0x23 => some .log2 | 0x24 => some .recip
  | 0x25 => some .sqrt | 0x26 => some .rsqrt | 0x27 => some .tanh | 0x28 => some .sigmoid | 0x29 => some .silu
  | 0x2A => some .gelu | 0x2B => some .geluTanh | 0x2C => some .softplus | 0x2D => some .erf | 0x2E => some .sin
  | 0x2F => some .cos | 0x30 => some .relu
  | _ => none

/-- The activation of a gated code (Table 10.1). -/
def sfuGated : Nat → Option SfuFn
  | 0x38 => some .silu | 0x39 => some .gelu | 0x3A => some .geluTanh | 0x3B => some .relu | 0x3C => some .sigmoid
  | _ => none

/-- The step factor c of a VOP code (Table 8.2, Table 10.1). -/
def sfuCost : Nat → Nat
  | 0x20 => 3 | 0x21 => 2 | 0x22 => 3 | 0x23 => 3 | 0x24 => 3 | 0x25 => 3 | 0x26 => 3 | 0x27 => 4 | 0x28 => 4 | 0x29 => 5
  | 0x2A => 6 | 0x2B => 5 | 0x2C => 5 | 0x2D => 5 | 0x2E => 4 | 0x2F => 4 | 0x30 => 1
  | 0x38 => 6 | 0x39 => 7 | 0x3A => 6 | 0x3B => 2 | 0x3C => 5
  | _ => 1

/-- The code of a function, the key of Config's pick. -/
def sfuCode : SfuFn → Nat
  | .exp => 0x20 | .exp2 => 0x21 | .log => 0x22 | .log2 => 0x23 | .recip => 0x24 | .sqrt => 0x25 | .rsqrt => 0x26
  | .tanh => 0x27 | .sigmoid => 0x28 | .silu => 0x29 | .gelu => 0x2A | .geluTanh => 0x2B | .softplus => 0x2C | .erf => 0x2D
  | .sin => 0x2E | .cos => 0x2F | .relu => 0x30

/-- E of Table 10.4, in W ulps. -/
def sfuBound : SfuFn → Nat
  | .exp | .exp2 | .log | .log2 | .recip | .sqrt | .rsqrt => 1
  | .gelu | .geluTanh => 4
  | _ => 2

/-- The functions of R250. -/
def sfuCorrectlyRounded : SfuFn → Bool
  | .exp | .exp2 | .log | .log2 | .recip | .sqrt | .rsqrt => true
  | _ => false

/-- The flushing functions of R251. -/
def sfuFlushes : SfuFn → Bool
  | .log | .log2 | .sqrt | .tanh | .erf | .sin | .cos | .relu => false
  | _ => true

/-- The flush threshold T of Table 10.6 as an exponent; integer formats have none. -/
def flushExp : Fmt → Option Int
  | .fp32 | .bf16 => some (-126)
  | .fp16 => some (-24)
  | .e4m3 => some (-9)
  | .e5m2 => some (-16)
  | .e3m2 => some (-4)
  | .e2m3 => some (-3)
  | .e2m1 => some (-1)
  | .int8 | .uint8 | .int4 | .uint4 | .praline => none
  | _ => some (-2046)

/-- What a function gives on one input before the W rounding: a fixed result with its flags (Table 10.3 and the exact
results of Table 10.1), or a real number with its sign, close to `a` and not equal to it. -/
inductive SfuRes where
  | fixed (v : Val) (fl : Flags)
  | real (neg : Bool) (a : Approx)
  deriving DecidableEq, Repr

/-- A value that is a power of two. -/
def isPow2 (x : Val) : Bool := x.n = 2 ^ msbIndex x.n

/-- A finite value that is an integer, as an integer. -/
def intOf (x : Val) : Option Int :=
  if 0 ≤ x.q then (if x.q ≤ 64 then some (if x.neg then -((x.n <<< x.q.toNat : Nat) : Int) else ((x.n <<< x.q.toNat : Nat) : Int)) else none)
  else if x.n % 2 ^ (-x.q).toNat = 0 then
    (let m : Nat := x.n >>> (-x.q).toNat; some (if x.neg then -(m : Int) else (m : Int)))
  else none

/-- 2^x for a finite x. -/
def exp2Val (x : Val) : Approx :=
  if vanishing x then nearOne x.neg else
  if (msbIndex x.n : Int) + x.q ≥ 13 then (if x.neg then tiny else (1, 4096))
  else
    let w := workBits
    let f := fixOf w x
    let k := f / 2 ^ w
    let fr := (f % 2 ^ w).toNat
    let e := expReal w (((fr * lnTwo w) >>> w : Nat) : Int)
    (e.1, e.2 + k)

/-- The real value of 1 / x, sqrt x and 1 / sqrt x with more than 200 bits and a sticky bit. -/
def recipVal (x : Val) : Approx :=
  let w := 320 + msbIndex x.n
  ((2 ^ w / x.n) * 2 + 1, -x.q - w - 1)

def sqrtVal (x : Val) : Approx :=
  let q' := if x.q % 2 = 0 then x.q else x.q - 1
  let n' := if x.q % 2 = 0 then x.n else 2 * x.n
  let r := Nat.sqrt (n' <<< 640)
  (if r * r = n' <<< 640 then 2 * r else 2 * r + 1, q' / 2 - 320 - 1)

def rsqrtVal (x : Val) : Approx := apDiv (1, 0) (sqrtVal x)

/-- A sign and a magnitude as a fixed exact value. -/
def fixedVal (neg : Bool) (n : Nat) (q : Int) : SfuRes := .fixed (valFin neg n q) 0

/-- ln 2 rounded to nearest in W: what SOFTPLUS gives for both zeros (Table 10.3). -/
def lnTwoW : Val := (toW (valFin false (2 * lnTwo workBits + 1) (-(workBits : Int) - 1))).1

/-- Table 10.3 and Table 10.1: a unary function of one value, without rounding. A NaN gives NaN, RELU's too: R248 says so of
every function, and Table 10.1's "max(x, +0) by R61" would give +0 (log 79). -/
def sfuExact (f : SfuFn) (x : Val) : SfuRes :=
  let one : Val := ⟨.fin, false, 1, 0⟩
  let half : Val := ⟨.fin, false, 1, -1⟩
  if x.cls = .nan then .fixed valNan 0 else
  match f with
  | .relu => .fixed (if x.neg || x.cls = .zero then valZero false else x) 0
  | .exp => match x.cls with
    | .inf => .fixed (if x.neg then valZero false else valInf false) 0
    | .zero => .fixed one 0
    | _ => .real false (expVal x)
  | .exp2 => match x.cls with
    | .inf => .fixed (if x.neg then valZero false else valInf false) 0
    | .zero => .fixed one 0
    | _ => match intOf x with
      | some k => if -2085 ≤ k && k ≤ 2047 then fixedVal false 1 k else .real false (exp2Val x)
      | none => .real false (exp2Val x)
  | .log | .log2 =>
    if x.cls = .zero then .fixed (valInf true) 0
    else if x.neg then .fixed valNan flInvalid
    else if x.cls = .inf then .fixed (valInf false) 0
    else if f = .log2 && isPow2 x then .fixed (valOfInt ((msbIndex x.n : Int) + x.q) 0) 0
    else if isPow2 x && (msbIndex x.n : Int) + x.q = 0 then .fixed (valZero false) 0
    else
      let r := lnReal x.n x.q
      if f = .log then .real r.1 r.2 else .real r.1 (apDiv r.2 (lnTwo workBits, -(workBits : Int)))
  | .recip => match x.cls with
    | .inf => .fixed (valZero x.neg) 0
    | .zero => .fixed (valInf x.neg) 0
    | _ => if isPow2 x then fixedVal x.neg 1 (-((msbIndex x.n : Int) + x.q)) else .real x.neg (recipVal x)
  | .sqrt =>
    if x.cls = .zero then .fixed x 0
    else if x.neg then .fixed valNan flInvalid
    else if x.cls = .inf then .fixed (valInf false) 0
    else
      let r := sqrtVal x
      if r.1 % 2 = 0 && decide (r.1 % 2 ^ (msbIndex r.1 - 39) = 0) then fixedVal false r.1 r.2 else .real false r
  | .rsqrt =>
    if x.cls = .zero then .fixed (valInf x.neg) 0
    else if x.neg then .fixed valNan flInvalid
    else if x.cls = .inf then .fixed (valZero false) 0
    else if isPow2 x && ((msbIndex x.n : Int) + x.q) % 2 = 0 then fixedVal false 1 (-((msbIndex x.n : Int) + x.q) / 2)
    else .real false (rsqrtVal x)
  | .tanh | .erf => match x.cls with
    | .inf => .fixed { one with neg := x.neg } 0
    | .zero => .fixed x 0
    | _ => .real x.neg (if f = .tanh then tanhAbs x else erfAbs x)
  | .sigmoid => match x.cls with
    | .inf => .fixed (if x.neg then valZero false else one) 0
    | .zero => .fixed half 0
    | _ => .real false (sigmoidVal x)
  | .silu | .gelu | .geluTanh => match x.cls with
    | .inf => .fixed (if x.neg then valZero false else valInf false) 0
    | .zero => .fixed (valZero false) 0
    | _ =>
      let g := match f with
        | .silu => sigmoidVal x
        | .gelu => phiVal x
        | _ =>
          if vanishing x then nearHalf x.neg
          else if (msbIndex x.n : Int) + x.q ≥ 6 then (if x.neg then tiny else (2 ^ workBits - 1, -(workBits : Int)))
          else sigmoidReal workBits (geluTanhArg workBits x)
      .real x.neg (apMul (apOf x) g)
  | .softplus => match x.cls with
    | .inf => .fixed (if x.neg then valZero false else valInf false) 0
    | .zero => .fixed lnTwoW flInexact
    | _ =>
      if (msbIndex x.n : Int) + x.q ≥ 13 then
        (if x.neg then .real false tiny else .real false (x.n * 2 ^ 64 + 1, x.q - 64))
      else .real false (ln1pReal (expVal x))
  | .sin => match x.cls with
    | .inf => .fixed valNan flInvalid
    | .zero => .fixed x 0
    | _ => let r := sinVal x; .real r.1 r.2
  | .cos => match x.cls with
    | .inf => .fixed valNan flInvalid
    | .zero => .fixed one 0
    | _ => let r := cosVal x; .real r.1 r.2

/-- An approximation as an exact value with a sticky bit below it. -/
def apVal (neg : Bool) (a : Approx) : Val := valFin neg (2 * a.1 + 1) (a.2 - 1)

/-- The correctly rounded W value of a function (the seam values are stored so). -/
def sfuRne (f : SfuFn) (x : Val) : Val :=
  match sfuExact f x with
  | .fixed v _ => (toW v).1
  | .real s a => (toW (apVal s a)).1

/-- The two ends of the segment that holds a finite nonzero input (Table 10.2). The tail's ends are |x| = 16 and infinity;
for SQRT and RSQRT both halves of the table have ends that are multiples of 2^(k-7). A segment that holds the turning point of
SILU, GELU or GELU_TANH has none, since the exact function leaves the interval there and R247 and R249 bind. -/
def seamEnds (f : SfuFn) (x : Val) : List Val :=
  let ends (neg : Bool) (i : Nat) (e : Int) : List Val := [valFin neg i e, valFin neg (i + 1) e]
  match f with
  | .exp | .exp2 | .sin | .cos | .relu => []
  | .log | .log2 | .recip =>
    let p := msbIndex x.n
    ends x.neg (shiftInt x.n (8 - (p : Int))) (x.q + p - 8)
  | .sqrt | .rsqrt =>
    let p := msbIndex x.n
    ends false (shiftInt x.n (7 - (p : Int))) (x.q + p - 7)
  | _ =>
    let i := shiftInt x.n (x.q + 4)
    let turning := x.neg && ((f = .silu && i = 20) || ((f = .gelu || f = .geluTanh) && i = 12))
    if turning then [] else if 256 ≤ i then [valFin x.neg 256 (-4), valInf x.neg] else ends x.neg i (-4)

/-- The seam values of EXP and EXP2: 2^(k + i/256) and 2^(k + (i+1)/256). -/
def expSeams (f : SfuFn) (x : Val) : List Val :=
  if (msbIndex x.n : Int) + x.q ≥ 13 then [] else
  let w := workBits
  let y := floorOf w x
  let i : Int := if f = .exp then (y * 256 * 2 ^ 16) / (lnTwo (w + 16) : Int) else y * 256 / 2 ^ w
  [valOfInt i (-8), valOfInt (i + 1) (-8)].map (sfuRne .exp2)

/-- The seam values of SIN and COS at multiples of pi / 512. -/
def circleSeams (f : SfuFn) (x : Val) : List Val :=
  let w := workBits
  let r := reducePi w x
  let half := piFix w >>> 1
  let i := r.2 * 256 / half
  let useSin := if f = .sin then r.1 % 2 = 0 else r.1 % 2 = 1
  let neg := if f = .sin then x.neg != decide (r.1 % 4 ≥ 2) else decide (r.1 % 4 = 1 || r.1 % 4 = 2)
  [i, i + 1].map (fun j =>
    if (useSin && j = 0) || (!useSin && j = 256) then valZero neg
    else if (useSin && j = 256) || (!useSin && j = 0) then valFin neg 1 0
    else
      let a := half * j / 256
      (toW (apVal neg (if useSin then sinFix w a else cosFix w a, -(w : Int)))).1)

/-- The closed interval of the seam values of an input's segment (R246). -/
def seamRange (f : SfuFn) (x : Val) : Option (Val × Val) :=
  let seams := match f with
    | .exp | .exp2 => expSeams f x
    | .sin | .cos => circleSeams f x
    | _ => (seamEnds f x).map (sfuRne f)
  match seams with
  | [a, b] => some (if valLt a b then (a, b) else (b, a))
  | _ => none

/-- The seam guard: a W result clamped into an interval (R246). -/
def seamClamp (r : Option (Val × Val)) (v : Val) : Val :=
  match r with
  | some (lo, hi) => if valLt v lo then lo else if valLt hi v then hi else v
  | none => v

/-! The W result (R245, R247, R249, R250). F is the magnitude of the exact result; a W value is `h` units of 2^half, half the
last place of F's binade, so that the finer places of the binade below are whole numbers too. -/

/-- The inputs of one branch lie between two turning points of R247, on one side of zero for RECIP. -/
def sfuBranch (f : SfuFn) (x : Val) : Int :=
  let past (t : Nat) : Int := if fixOf 192 x < -(t : Int) then 1 else 0
  match f with
  | .silu => past 8025051999995875655675815540036484288009837580583366046022
  | .gelu => past 4719071884302972120257129081290383078355529850503388975435
  | .geluTanh => past 4723276898293505806811332217526096859530758808256472587554
  | .sin | .cos => let q : Int := (reducePi workBits x).1; if x.neg then -q - 1 else q
  | .recip => if x.neg then 1 else 0
  | _ => 0

/-- The last place of the binade of a result (subnormals share the lowest). -/
def lastPlace (a : Approx) : Int := max ((msbIndex a.1 : Int) + a.2) (-2046) - 39

/-- E of the gated code that multiplies a function's W result (Table 10.4). -/
def gatedBound : SfuFn → Option Nat
  | .silu | .sigmoid => some 3
  | .gelu | .geluTanh => some 5
  | _ => none

/-- `h` units may stand for F by R249: within E ulps, and near enough that every product of a gated code, with its own
rounding of half an ulp, keeps that code's bound. -/
def withinBound (f : SfuFn) (a : Approx) (h : Nat) : Bool :=
  let x := shiftInt a.1 (a.2 - (lastPlace a - 1) + 64)
  let d : Nat := ((x : Int) - ((h <<< 64 : Nat) : Int)).natAbs
  let gate := match gatedBound f with
    | some g => decide (lastPlace a ≤ -2085) || decide (4 * d <<< 39 ≤ (2 * g - 1) * x)
    | none => true
  decide (d ≤ (2 * sfuBound f) <<< 64) && gate

/-- `h` units are a W value; just above a power of two, no lower than the bound lets results just below it be (R247). -/
def onLattice (f : SfuFn) (a : Approx) (h : Nat) : Bool :=
  if lastPlace a ≤ -2085 then h % 2 = 0
  else if h < 2 ^ 40 then decide (2 ^ 40 - sfuBound f ≤ h)
  else if h ≤ 2 ^ 41 then h % 2 = 0
  else h % 4 = 0

/-- The odd part of a positive number of at most `fuel` bits. -/
def oddPart : (fuel n : Nat) → Nat
  | 0, n => n
  | fuel + 1, n => if n % 2 = 0 then oddPart fuel (n / 2) else n

/-- The formats of at most 16 bits without a block scale (R250). -/
def narrowFmts : List Fmt := [.bf16, .fp16, .e4m3, .e5m2, .e3m2, .e2m3, .e2m1, .int8, .uint8, .int4, .uint4]

/-- R250: a W value of few bits stands for F only if RNE takes both to the same value of every narrow format and of every MX
element grid; a value of more than 12 bits lies on no narrow rounding boundary. -/
def keepsRounding (f : SfuFn) (neg : Bool) (a : Approx) (h : Nat) : Bool :=
  let o := oddPart 64 h
  let half := lastPlace a - 1
  let c := valFin neg h half
  if !sfuCorrectlyRounded f || o = 0 || decide (4096 ≤ o) then true else
  let below := decide (shiftInt a.1 (a.2 - half) < h)
  (decide (256 ≤ o) || (if o % 4 = 1 then below else !below))
  && narrowFmts.all (fun d =>
    (sfuFlushes f && (match flushExp d with | some t => decide ((msbIndex h : Int) + half < t) | none => false))
    || (encodeVal d .rne c).1 == (encodeVal d .rne (apVal neg a)).1)

/-- F has reached the value from which on `h` units are given: an opaque threshold within 2E ulps of them, one for each
function, branch and W value, so that the results of a branch follow the order of the exact function (R247). -/
def reached (f : SfuFn) (branch : Int) (neg : Bool) (a : Approx) (h : Nat) : Bool :=
  let half := lastPlace a - 1
  let u := if h < 2 ^ 40 && decide (-2085 < lastPlace a) then 1 else if h < 2 ^ 41 then 2 else 4
  let e := sfuBound f
  let t := Config.sfuPick (sfuCode f) branch (BitVec.ofNat 64 (encodeVal .w64 .rne (valFin neg h half)).1) % ((4 * e) <<< 320)
  decide ((h <<< 320) + u * t ≤ shiftInt a.1 (a.2 - half + 320) + ((2 * e * u) <<< 320))

/-- The W values that may stand for F, highest first. -/
def sfuCandidates (f : SfuFn) (neg : Bool) (a : Approx) : List Nat :=
  let top := shiftInt a.1 (a.2 - (lastPlace a - 1)) + 2 * sfuBound f
  ((tabulate (4 * sfuBound f + 1) (fun i => i)).filter (fun i => decide (i ≤ top))).map (fun i => top - i)
    |>.filter (fun h => onLattice f a h && withinBound f a h && keepsRounding f neg a h)

/-- R245, R249: the W result of a unary function with its flags: the highest W value that F has reached, or the lowest that
may stand for it, within the seams of its segment where one lies there, and clamped by the seam guard (R246). -/
def sfuEval (f : SfuFn) (x : Val) : Val × Flags :=
  match sfuExact f x with
  | .fixed v fl => wRound (v, fl)
  | .real s a =>
    let seams := seamRange f x
    let hs := sfuCandidates f s a
    let inside := hs.filter (fun h => let v := valFin s h (lastPlace a - 1); seamClamp seams v = v)
    let hs := if inside.isEmpty then hs else inside
    let h := (hs.find? (reached f (sfuBranch f x) s a)).getD (hs.getLastD 0)
    let v := wRound (valFin s h (lastPlace a - 1), flInexact)
    (seamClamp seams v.1, v.2 ||| flIf (decide ((msbIndex a.1 : Int) + a.2 < -2046)) flUnderflow)

/-- The magnitude of a value lies below T. -/
def belowFlush (f : Fmt) (v : Val) : Bool :=
  match flushExp f with
  | none => false
  | some t => match v.cls with
    | .zero => true
    | .fin => decide ((msbIndex v.n : Int) + v.q < t)
    | _ => false

/-- R251: a flushed result is +0; a nonzero one sets underflow and inexact. -/
def applyFlush (f : Fmt) (r : Val × Flags) : Val × Flags :=
  if belowFlush f r.1 then (valZero false, r.2 ||| flIf (r.1.cls = .fin) (flUnderflow ||| flInexact)) else r

/-- A unary function as a stage whose destination is W (R251). -/
def sfuStage (f : SfuFn) (x : Val) : Val × Flags :=
  let r := sfuEval f x
  if sfuFlushes f then applyFlush .w64 r else r

/-- A gated code as a stage whose destination is `dst` before its rounding: a(x) * y in W, then the flush (R245, R251).
The factor a(x) is the W result, which raises its own flags; a NaN operand gives NaN and no flag (R248, R50). -/
def sfuGate (f : SfuFn) (dst : Fmt) (x y : Val) : Val × Flags :=
  if x.cls = .nan || y.cls = .nan then (valNan, 0) else
  let a := sfuEval f x
  let p := wMul a.1 y
  applyFlush dst (p.1, a.2 ||| p.2)

/-- A unary function of one VOP element before the rounding to `dst`: the W result, flushed below the destination's T. The
result of R250 is the rounding of that W result, so a VOP and a stage that rounds to the same format agree (R242, log 80). -/
def sfuForStore (f : SfuFn) (dst : Fmt) (x : Val) : Val × Flags :=
  let w := sfuEval f x
  if sfuFlushes f then applyFlush dst w else w

end Sys2Proof.Machine
end

