-- ==== Sys2Proof/Machine/Timetable.lean ====
section
/-! DEFINITION. The Timetable: slices, core switches, placement, context commands and teardown
(spec/15_contexts_timetable.md R377, R386 to R397, spec/06_akaux_programming_model.md R120, R135). -/
namespace Sys2Proof.Machine

/-! Seats. -/

def Core.seatAt (k : Core) (i : BitVec 2) : Option Seat := k.seats[i.toFin]
def Core.setSeat (k : Core) (i : BitVec 2) (x : Option Seat) : Core := { k with seats := k.seats.set i.toFin x }

/-- A seat holds a thread that may run: its context is not in teardown (R391, R397). -/
def seatReady (s : State) (k : Core) (i : BitVec 2) : Bool :=
  match k.seatAt i with
  | some x => (s.ctx x.ctx).state == .active || (s.ctx x.ctx).state == .draining
  | none => false

/-- The seat of a class is ready; a thread has the class of its last slice start (R377). -/
def seatOfClass (s : State) (k : Core) (lc : Bool) (i : BitVec 2) : Bool :=
  seatReady s k i && (match k.seatAt i with | some x => x.lc == lc | none => false)

/-- The round of a class starts after its seat that ran last (R391). -/
def roundOf (last : BitVec 2) : List (BitVec 2) := [last + 1, last + 2, last + 3, last]

/-- The thread a core takes: a ready latency-critical one before any best-effort one, round robin in its class (R391). -/
def chooseSeat (s : State) (k : Core) : Option (BitVec 2) :=
  match (roundOf k.lastLc).find? (seatOfClass s k true) with
  | some i => some i
  | none => (roundOf k.lastBe).find? (seatOfClass s k false)

/-- A thread as it starts from its launch entry (R120). -/
def startThread (x : Seat) : Thread :=
  let a (i : Nat) : Word := x.args.getD i 0
  ((((({ Thread.reset with pc := x.pc } : Thread).setS 1 (a 0)).setS 2 (a 1)).setS 3 (a 2)).setS 4 (a 3))

/-- The length of a slice: 0 selects 250 000 (Table 15.1). -/
def sliceOf (y : Ctx) : Nat := if y.sliceNs = 0 then 250000 else y.sliceNs

/-- Seat `i` begins a slice: the class and the peer grants of its context are taken, debt is charged, the slice is counted, queued arrivals are delivered
(R377, R384, R392, R395). -/
def State.beginSlice (s : State) (c : CoreId) (i : BitVec 2) : State :=
  match (s.core c).seatAt i with
  | none => s
  | some x =>
    let y := s.ctx x.ctx
    let charge := min y.debtNs (sliceOf y - 25000)
    let s := (s.modCtx x.ctx (fun y => { y with debtNs := y.debtNs - charge })).syncCtx x.ctx
    let s := s.modCard x.ctx (fun r => { r with slices := r.slices + 1 })
    let lc := isLc s x.ctx
    let s := s.modCore c (fun k => { k.setSeat i (some { x with lc := lc, peers := y.peers }) with
      seat := some i, stop := none, sliceEnd := s.bell + (sliceOf y - charge), lastCtx := some x.ctx,
      lastLc := if lc then i else k.lastLc, lastBe := if lc then k.lastBe else i })
    s.drainArrivals ((s.ctx x.ctx).arrivals (coreDie c)).length c x.ctx

/-- Bytes of a save frame (R376). -/
def frameBytes : Nat := 0x810000

def frameAt (y : Ctx) (n : Nat) : Nat := y.saveBase + frameBytes * n

/-- The save frame of the thread in a seat is poisoned (R470 code 8). -/
def frameLost (s : State) (c : CoreId) (i : BitVec 2) : Bool :=
  (((s.core c).seatAt i).any (fun x => x.saved.isSome && s.poisoned (frameAt (s.ctx x.ctx) x.frame) frameBytes))

/-- Step 3 of a core switch for seat `i`: a new thread starts, or a saved one is restored with its queued instructions
(R120, R396). -/
def State.restoreSeat (s : State) (c : CoreId) (i : BitVec 2) : State :=
  match (s.core c).seatAt i with
  | none => s
  | some x =>
    match x.saved with
    | none => s.modCore c (fun k => { k.setSeat i (some { x with fresh := false }) with
        th := startThread x, queues := .replicate 6 [], hold := none, posted := [] })
    | some v =>
      s.modCore c (fun k => { k.setSeat i (some { x with saved := none }) with
        th := v.th, queues := v.queues, pad := v.pad, clean := v.clean, hold := none, posted := [] })

/-- Step 1 of a core switch: what has landed counts as filled; the thread, its queued instructions and its clean scratchpad words
go to its save frame. -/
def State.saveSeat (s : State) (c : CoreId) : State :=
  let s := s.fillLanded c
  let k := s.core c
  match k.seat, k.running with
  | some i, some x =>
    let s := s.setCore c (k.setSeat i (some { x with saved := some ⟨k.th, k.queues, k.pad, k.clean⟩ }))
    let a := frameAt (s.ctx x.ctx) x.frame
    { s with memPoison := s.memPoison.filter (fun u => !(decide (a ≤ 32 * u) && decide (32 * u < a + frameBytes))) }
  | _, _ => s

/-- The core runs no thread, keeps nothing of one, and its scratchpad is poisoned (R108, R381, R396 step 2). -/
def Core.vacate (k : Core) : Core :=
  { k.padPoisonAll with
    seat := none, stop := none, hold := none, queues := .replicate 6 [], posted := [], pad := [], line := [], th := Thread.reset }

/-- Nothing started remains on the core (R135). -/
def Core.drained (k : Core) : Bool :=
  k.posted.isEmpty && k.hold.isNone && allEngines.all (fun e => (k.queue e).all (fun i => !phaseStarted i.phase))

/-- The sequencer stops issuing; a hold is abandoned, but an outstanding LD.G completes (R135, R158). -/
def Core.stopWith (k : Core) (why : Stop) : Core :=
  { k with stop := some why, late := 0, line := [], hold := match k.hold with | some (.load l) => some (.load l) | _ => none,
           queues := k.queues.map (List.map (fun i => match i.phase with | .waiting _ => { i with phase := .queued, marks := [], snaps := [], stage := 0 } | _ => i)) }

/-- The thread of a core stops issuing; what waits in a queue gives up its marks and passes (R135). -/
def State.stopCore (s : State) (c : CoreId) (why : Stop) : State :=
  (s.giveUp c (fun i => match i.phase with | .waiting _ => true | _ => false)).modCore c (fun k => k.stopWith why)

/-- A ready latency-critical thread ends a best-effort slice at once (R393). -/
def State.preempt (s : State) (c : CoreId) : State :=
  let k := s.core c
  match k.running with
  | some x =>
    if k.stop.isNone && !x.lc && (roundOf 3).any (seatOfClass s k true) then
      (s.stopCore c .preempt).modCard x.ctx (fun r => { r with preempted := r.preempted + 1 })
    else s
  | none => s

/-- The slice of a running thread ends: a switch begins if the core takes another thread, else a new slice does (R392, R173). -/
def State.endSlice (s : State) (c : CoreId) (why : Stop) : State :=
  let k := s.core c
  match k.seat, chooseSeat s k with
  | some i, some j => if i = j then (s.beginSlice c i).preempt c else s.stopCore c why
  | some i, none => (s.beginSlice c i).preempt c
  | none, _ => s

/-- SLICE_END (R392). -/
def execSliceEnd (c : CoreId) (s : State) : Host.Outcome State Fault Refusal :=
  .next (if canHold s c && decide ((s.core c).sliceEnd ≤ s.bell) then s.endSlice c .slice else s)

/-- YIELD (R173). -/
def execYield (c : CoreId) (f : F1) (s : State) : Host.Outcome State Fault Refusal :=
  .next (s.issue c f.guard (f.d != 0 || f.a != 0 || f.sub != 0 || f.kt != 0 || f.imm != 0) 1 (fun s =>
    (s.onThread c id).endSlice c .yield))

/-- HALT holds issue until its conditions are met (R174). -/
def execHalt (c : CoreId) (f : F1) (s : State) : Host.Outcome State Fault Refusal :=
  .next (s.issue c f.guard (f.d != 0 || f.a != 0 || f.sub != 0 || f.kt != 0 || f.imm != 0) 1 (fun s =>
    s.modCore c (fun k => { k with hold := some .halt })))

/-- Every token counter reads zero and every posted store is performed (R174). -/
def haltMet (k : Core) : Bool := k.th.tokens.toList.all (fun t => t == 0) && k.posted.isEmpty

/-- Address of a launch entry (R386). -/
def entryAt (y : Ctx) (i : BitVec 32) : Nat := y.ltBase + 64 * (i.toNat % 2 ^ y.ltLog2)

/-- STATUS of a launch entry: 1 PLACED, 2 DONE, 3 FAULTED, 4 ABANDONED (Table 15.3). -/
def State.entryStatus (s : State) (x : CtxId) (i : BitVec 32) (v : Nat) : State := s.store (entryAt (s.ctx x) i + 60) 1 v

/-- THREAD_END: a held HALT finds its conditions met (R174, R234, R390). -/
def execThreadEnd (c : CoreId) (s : State) : Host.Outcome State Fault Refusal :=
  .next (
    let k := s.core c
    match k.hold, k.seat, k.running with
    | some .halt, some i, some x =>
      if !canHold s c || !haltMet k then s else
      let tally := k.th.openTally
      let pc := k.th.pc
      let s := s.entryStatus x.ctx x.entry 2
      let s := (s.setCore c { (k.setSeat i none) with seat := none, hold := none, queues := .replicate 6 [], line := [] }).endTransfers c i
      let s := (s.modCtx x.ctx (fun y => { y with threads := y.threads - 1 })).syncCtx x.ctx
      let s := s.modCard x.ctx (fun r => { r with ended := r.ended + 1 })
      if tally ≠ 0 then s.faultCtx x.ctx (some c) x.tag cTally pc [] else s.drainCheck x.ctx
    | _, _, _ => s)

/-- A core leaves service after its thread is saved; a write of OFFLINE = 0 meanwhile starts its return then (R414). -/
def State.coreLeaves (s : State) (c : CoreId) : State :=
  let s := s.modCore c (fun k => { k.vacate with leave := if k.offline then .stay else .returning })
  s.leaveService (.core c)

/-- A thread runs: the module is Active (R439). -/
def State.activeNow (s : State) : State :=
  { s with pstate := if s.pstate = .idle then .active else s.pstate, power := { s.power with idleSince := none } }

/-- The context of a seat whose save frame is poisoned is torn down, and no thread runs (R397, R470 code 8). -/
def State.loseFrame (s : State) (c : CoreId) (i : BitVec 2) : State :=
  match (s.core c).seatAt i with
  | none => s
  | some x => (s.error (coreDie c).toNat 0x0107 (frameAt (s.ctx x.ctx) x.frame) [8]).tearDown x.ctx cPoison (some c) x.tag

/-- The incoming half of a core switch (R391, R396). -/
def State.switchIn (s : State) (c : CoreId) : State :=
  let s := s.modCore c Core.vacate
  match chooseSeat s (s.core c) with
  | none => s
  | some i => if frameLost s c i then s.loseFrame c i else (((s.activeNow).restoreSeat c i).beginSlice c i).preempt c

/-- The other half of a switch once the thread before is saved: the next thread, or the core leaves service (R391, R414). -/
def State.switchOver (s : State) (c : CoreId) : State :=
  if (s.core c).leave = .leaving then s.coreLeaves c else s.switchIn c

/-- CORE_SWITCH: the outgoing thread is saved, the scratchpad poisoned, the incoming thread restored (R395, R396). -/
def execCoreSwitch (c : CoreId) (s : State) : Host.Outcome State Fault Refusal :=
  .next (
    let k := s.core c
    if !s.up || !k.inService then s else
    match k.seat, k.stop with
    | none, _ => if s.power.entering.isSome || k.leave ≠ .stay || (chooseSeat s k).isNone then s else s.switchIn c
    | some _, some why =>
      if !k.drained then s else
      match why with
      | .slice =>
        match k.runCtx with
        | none => s
        | some x =>
          let s := (s.modCtx x (fun y => { y with debtNs := satAdd (2 ^ 32 - 1) y.debtNs k.late })).syncCtx x
          let s := s.modCard x (fun r => { r with overrunNs := r.overrunNs + k.late })
          (s.saveSeat c).switchOver c
      | .preempt | .yield => (s.saveSeat c).switchOver c
      | .offline => (s.saveSeat c).coreLeaves c
      | _ => s
    | some _, none => s)

/-! Placement. -/

/-- PROD of a context, which the master writes in the record. -/
def prodOf (s : State) (x : CtxId) : BitVec 32 := BitVec.ofNat 32 (s.fetch (ctxRecord s x + 28) 4)

/-- A core of the set is in service and meets a condition on its seats; the lowest-numbered one. -/
def findCore (s : State) (set : Word) (p : Core → Bool) : Option CoreId :=
  allCores.find? (fun c => set.getLsbD c.toNat && (s.core c).inService && (s.core c).leave == .stay && p (s.core c))

def seatCount (k : Core) : Nat := (k.seats.toList.filter Option.isSome).length

/-- The lowest-numbered free seat. -/
def freeSeat (k : Core) : Option (BitVec 2) := [0, 1, 2, 3].find? (fun i => (k.seatAt i).isNone)

/-- The core for an entry (R389). -/
def chooseCore (s : State) (set : Word) : Option CoreId :=
  match findCore s set (fun k => seatCount k == 0) with
  | some c => some c
  | none => findCore s set (fun k => decide (seatCount k < 4))

/-- The save frames in use by threads of a context. -/
def framesUsed (s : State) (x : CtxId) : List Nat :=
  (allCores.map (fun c => (s.core c).seats.toList.filterMap (fun o => o.bind (fun e => if e.ctx = x then some e.frame else none)))).flatten

def freeFrame (s : State) (x : CtxId) : Nat :=
  ((List.range 256).find? (fun n => !(framesUsed s x).contains n)).getD 0

/-- A poisoned record, launch table or peer grant list tears its context down (R470 code 7). -/
def State.poisonedTable (s : State) (x : CtxId) (a : Nat) : State := (s.error 0 0x0107 a [7]).tearDown x cPoison none 0

/-- The entry at CONS is taken. -/
def State.takeEntry (s : State) (x : CtxId) : State := (s.modCtx x (fun y => { y with cons := y.cons + 1 })).syncCtx x

/-- The entry at CONS is placed on core `c` (R389, R390). -/
def State.place (s : State) (x : CtxId) (c : CoreId) (i : BitVec 2) : State :=
  let y := s.ctx x
  let a := entryAt y y.cons
  let arg (n : Nat) : Word := BitVec.ofNat 64 (s.fetch (a + 8 + 8 * n) 8)
  let seat : Seat := ⟨x, y.cons, BitVec.ofNat 32 (s.fetch (a + 56) 4), freeFrame s x, BitVec.ofNat 64 (s.fetch a 8),
    [arg 0, arg 1, arg 2, arg 3], true, isLc s x, y.peers, none⟩
  let s := s.modCore c (fun k => k.setSeat i (some seat))
  let s := (s.store (a + 61) 1 c.toNat).entryStatus x y.cons 1
  let s := s.modCtx x (fun y => { y with threads := y.threads + 1 })
  ((s.takeEntry x).modCard x (fun r => { r with launched := r.launched + 1 })).activeNow.preempt c

/-- One try to place the next entry of a context: what it did, if anything (R387 to R389). -/
def State.placeNext (s : State) (x : CtxId) : Option State :=
  let y := s.ctx x
  if y.state ≠ .active then none
  else if s.poisoned (ctxRecord s x) 128 then some (s.poisonedTable x (ctxRecord s x))
  else
    let pending := (prodOf s x - y.cons).toNat
    if pending = 0 || 2 ^ y.ltLog2 < pending then none
    else if s.poisoned (entryAt y y.cons) 64 then some (s.poisonedTable x (entryAt y y.cons))
    else
      let aff := s.fetch (entryAt y y.cons + 40) 8
      let set : Word := if aff = 0 then y.cores else BitVec.ofNat 64 aff &&& y.cores
      if set = 0 then
        some (((s.entryStatus x y.cons 4).notice 0 0x0005 y.cons.toNat []).takeEntry x)
      else if s.bell < s.fetch (entryAt y y.cons + 48) 8 || y.maxt ≤ y.threads then none
      else match chooseCore s set with
        | none => none
        | some c => match freeSeat (s.core c) with
          | none => none
          | some i => some (s.place x c i)

/-- The notice of a PROD out of range, once while it lasts (R387). -/
def State.rangeNotice (s : State) (x : CtxId) : State :=
  let y := s.ctx x
  if y.state ≠ .active then s else
  let bad := decide (2 ^ y.ltLog2 < (prodOf s x - y.cons).toNat)
  if bad && !y.rangeNoted then
    (s.logEvent ⟨s.bell, 0, 0, 0x0004, some x, none, 0, 0, leBytes 4 (prodOf s x).toNat ++ leBytes 4 y.cons.toNat⟩).modCtx x (fun y => { y with rangeNoted := true })
  else if bad then s else s.modCtx x (fun y => { y with rangeNoted := false })

/-- One round: one entry of each context of the list in turn; true if one was taken. -/
def State.placeRound (s : State) (xs : List CtxId) : State × Bool :=
  xs.foldl (fun r x => match r.1.placeNext x with | some s => (s, true) | none => r) (s, false)

/-- Rounds of placement while entries are taken, at most `n`. -/
def State.placeRounds : (n : Nat) → State → List CtxId → State
  | 0, s, _ => s
  | n + 1, s, xs =>
    let r := s.placeRound xs
    if r.2 then State.placeRounds n r.1 xs else r.1

/-- The die whose Timetable scans: C1 when that of C0 is quarantined (R388). -/
def scanner (s : State) : Option Bool :=
  if s.unitIn (.timetable false) then some false else if s.unitIn (.timetable true) then some true else none

/-- TIMETABLE_SCAN: latency-critical contexts first, then best-effort ones, in context order, one entry per round (R388). -/
def execTimetableScan (s : State) : Host.Outcome State Fault Refusal :=
  .next (
    if !s.up || s.power.entering.isSome || (scanner s).isNone then s else
    let s := allCtxs.foldl (fun s x => if (s.ctx x).state = .active then (s.rangeNotice x).modCtx x (fun y => { y with seen := prodOf s x }) else s) s
    let s := s.placeRounds 4096 (allCtxs.filter (isLc s))
    s.placeRounds 4096 (allCtxs.filter (fun x => !isLc s x)))

/-! Context commands. -/

/-- The record's fields that START and REFRESH read (Table 15.1). -/
def readRefresh (s : State) (x : CtxId) (y : Ctx) : Ctx :=
  let a := ctxRecord s x
  let n := s.fetch (a + 26) 2
  let p := s.fetch (a + 40) 8
  { y with cores := BitVec.ofNat 64 (s.fetch a 8), sliceNs := s.fetch (a + 8) 4, lc := (s.fetch (a + 12) 1).testBit 0,
           peers := if n ≤ 64 then tabulate n (fun i => BitVec.ofNat 64 (s.fetch (p + 8 * i) 8)) else [] }

def readStart (s : State) (x : CtxId) (y : Ctx) : Ctx :=
  let a := ctxRecord s x
  let y := readRefresh s x y
  { y with ltBase := s.fetch (a + 16) 8, ltLog2 := s.fetch (a + 24) 1, rcLog2 := s.fetch (a + 25) 1, rcBase := s.fetch (a + 32) 8,
           saveBase := s.fetch (a + 48) 8, maxt := s.fetch (a + 60) 1, arqBase := s.fetch (a + 64) 8, arqKib := s.fetch (a + 72) 4 }

/-- A peer grant has no reserved bit set (R382). -/
def peerOk (g : Word) : Bool := fieldOf g 63 30 == 0

/-- The checks of REFRESH (R377). -/
def refreshOk (s : State) (x : CtxId) (y : Ctx) : Bool :=
  let a := ctxRecord s x
  let n := s.fetch (a + 26) 2
  let p := s.fetch (a + 40) 8
  (y.sliceNs == 0 || (decide (50000 ≤ y.sliceNs) && decide (y.sliceNs ≤ 10000000)))
  && s.fetch (a + 12) 1 / 2 == 0 && s.fetch (a + 13) 3 == 0 && decide (n ≤ 64)
  && p % 8 == 0 && (n == 0 || inCarveOut p (8 * n)) && y.peers.all peerOk && !s.poisoned a 128 && !s.poisoned p (8 * n)

/-- Bytes of a prefix index region; none for a bucket count out of range (Table 12.1). -/
def indexBytes (k : KvCtx) : Nat := if 8 ≤ k.idxB.toNat ∧ k.idxB.toNat ≤ 24 then 64 * 2 ^ k.idxB.toNat else 0

/-- A prefix index region lies in the carve-out (R310). -/
def indexOk (k : KvCtx) : Bool := indexBytes k == 0 || inCarveOut k.idx (indexBytes k)

/-- A context names its pool: it is not OFF, or holds an assigned slot (R275). -/
def holdsSlot (s : State) (x : CtxId) : Bool := s.slots.any (fun e => e.2.ctx == x && e.2.state != .unassigned)
def namesPool (s : State) (x : CtxId) : Bool := (s.ctx x).state != .off || holdsSlot s x

/-- Another context keeps context `x` from starting (R304); context 0 has no domain (R378). -/
def domainConflict (s : State) (x : CtxId) : Bool :=
  let k := s.kvCtx x
  x != 0 && allCtxs.any (fun z =>
    let j := s.kvCtx z
    z != x && z != 0 && (s.ctx z).state != .off && j.domain != k.domain
    && (j.pool == k.pool || overlap j.idx (indexBytes j) k.idx (indexBytes k)))

/-- The checks of START (R377). -/
def startOk (s : State) (x : CtxId) (y : Ctx) : Bool :=
  let a := ctxRecord s x
  refreshOk s x y && decide (y.ltLog2 ≤ 12) && decide (1 ≤ y.rcLog2) && decide (y.rcLog2 ≤ 12)
  && decide (1 ≤ y.maxt) && s.fetch (a + 61) 3 == 0 && s.fetch (a + 76) 4 == 0
  && y.ltBase % 64 == 0 && y.rcBase % 256 == 0 && y.saveBase % 65536 == 0 && y.arqBase % 2048 == 0
  && decide (64 ≤ y.arqKib) && decide (y.arqKib ≤ 65536) && y.arqKib % 2 == 0
  && inCarveOut y.ltBase (64 * 2 ^ y.ltLog2) && inCarveOut y.rcBase (256 * 2 ^ y.rcLog2)
  && inCarveOut y.saveBase (frameBytes * y.maxt) && inCarveOut y.arqBase (2048 * y.arqKib) && indexOk (s.kvCtx x)
  && !domainConflict s x

/-- The register of the context command, and its completion (R416). -/
def ttCmdOffset : Nat := 0x0800008

def State.ttDone (s : State) (op : Nat) (x : CtxId) (v : Word) (ok : Bool) : State :=
  let s : State := { s with ttResult := !ok, ttOp := op, ttCtx := x, intr := s.intr ||| 2 }
  if ok then s else s.cmdRefused ttCmdOffset v

/-- The word a context command is written as. -/
def ttCmdWord (op : Nat) (x : CtxId) : Word := BitVec.ofNat 64 (op + 8 * x.toNat)

/-- A context command met while another runs is ignored with a notice (R416). -/
def State.ttGate (s : State) (v : Word) (body : State → State) : State :=
  if !s.up || !commandable s then s else if s.ttBusy then s.cmdRefused ttCmdOffset v else body s

/-- A context becomes ACTIVE (R377). -/
def State.activate (s : State) (x : CtxId) : State :=
  let y := readStart s x Ctx.reset
  (s.setCtx x { y with state := .active, card := some { Card.reset with step := s.kvStep, tOpen := s.kvBoundary } }).syncCtx x

/-- START: a record that meets the checks makes an OFF context ACTIVE (R377). BUSY ends once the record has been read (R416). -/
def State.ctxStart (s : State) (x : CtxId) (v : Word) : State :=
  s.ttGate v (fun s =>
    if (s.ctx x).state = .off && startOk s x (readStart s x Ctx.reset) then (s.activate x).ttDone 1 x v true
    else s.ttDone 1 x v false)

def execCtxStart (x : CtxId) (s : State) : Host.Outcome State Fault Refusal := .next (s.ctxStart x (ttCmdWord 1 x))

/-- REFRESH: the fields the master may change are read again (R377). -/
def State.ctxRefresh (s : State) (x : CtxId) (v : Word) : State :=
  s.ttGate v (fun s =>
    let y := s.ctx x
    if (y.state = .active || y.state = .draining) && refreshOk s x (readRefresh s x y) then
      (s.setCtx x (readRefresh s x y)).ttDone 2 x v true
    else s.ttDone 2 x v false)

def execCtxRefresh (x : CtxId) (s : State) : Host.Outcome State Fault Refusal := .next (s.ctxRefresh x (ttCmdWord 2 x))

/-- STOP: an ACTIVE context drains (R377). -/
def State.ctxStop (s : State) (x : CtxId) (v : Word) : State :=
  s.ttGate v (fun s =>
    if (s.ctx x).state = .active then
      (((s.modCtx x (fun y => { y with state := .draining })).syncCtx x).drainCheck x).ttDone 3 x v true
    else s.ttDone 3 x v false)

def execCtxStop (x : CtxId) (s : State) : Host.Outcome State Fault Refusal := .next (s.ctxStop x (ttCmdWord 3 x))

/-- The cause KILLED (Table 16.10). -/
def cKilled : Nat := 0x80

/-- An instruction that waits for a tally on a core that runs context `x`. -/
def tallyHeld (s : State) (x : CtxId) (c : CoreId) : Option Item :=
  if (s.core c).runCtx = some x then ((allEngines.map (s.core c).queue).flatten).find? (fun i => i.phase == .waiting .tally) else none

/-- A tally that never closed, found when its context is torn down, faults under code TALLY: the FAULT record of the first
instruction that waits for one (R195). -/
def State.tallyFault (s : State) (x : CtxId) : State :=
  match allCores.findSome? (fun c => (tallyHeld s x c).map (fun i => (c, i))) with
  | none => s
  | some (c, i) =>
    let tag := match (s.core c).running with | some e => e.tag | none => 0
    s.logEvent ⟨s.bell, 1, (coreDie c).toNat, cTally, some x, some c, tag, i.addr.toNat, []⟩

/-- KILL: teardown with the cause KILLED (R195, R377, R397). -/
def State.ctxKill (s : State) (x : CtxId) (v : Word) : State :=
  s.ttGate v (fun s =>
    if (s.ctx x).state = .active || (s.ctx x).state = .draining then ((s.tallyFault x).tearDown x cKilled none 0).ttDone 4 x v true
    else s.ttDone 4 x v false)

def execCtxKill (x : CtxId) (s : State) : Host.Outcome State Fault Refusal := .next (s.ctxKill x (ttCmdWord 4 x))

/-! Teardown. -/

/-- A request that waits on a LIB_LOST record: only the master's repair, or the end of its context, ends its wait (R338). -/
def neverServed (s : State) (r : Req) : Bool := r.wrec.any (fun k => (s.wrec k).state == .libLost)

/-- Requests of an instruction that a torn-down context never gets an answer to. -/
def hopeless (s : State) (c : CoreId) (n : Nat) : Nat :=
  (s.asked.filter (fun a => a.ofItem c n && (a.lost || noWay s a.tag))).length + (s.net.filter (fun r => r.core == c && r.serial == n && neverServed s r)).length

/-- A started instruction still has effects to complete; one that waits for what a torn-down context never gets does not
(R221, R338, R397). -/
def stillBusy (s : State) (c : CoreId) (i : Item) : Bool :=
  match i.phase with
  | .started => true
  | .performed | .held .link => decide (hopeless s c i.serial < i.out)
  | _ => false

/-- A posted store to another chip whose packet was lost is never performed (R368). -/
def storeLost (s : State) (p : Posted) : Bool := p.tag.any (fun t => noWay s t || s.asked.any (fun a => a.tag == t && a.lost))

/-- Every started instruction of the context on a core has completed, with its requests (R397). -/
def coreQuiet (s : State) (x : CtxId) (c : CoreId) : Bool :=
  let k := s.core c
  s.net.all (fun r => r.core != c || r.ctx != x || neverServed s r) &&
  (k.runCtx != some x || (k.posted.all (storeLost s) && allEngines.all (fun e => (k.queue e).all (fun i => !stillBusy s c i))))

/-- The seats of a context on one core are freed; a core that runs it, or is idle and ran it last, is poisoned (R108, R397). -/
def State.clearCore (s : State) (x : CtxId) (c : CoreId) : State :=
  let ran := (s.core c).runCtx = some x
  let s := if ran then s.giveUp c (fun _ => true) else s
  let ents := (s.core c).seats.toList.filterMap (fun o => o.bind (fun e => if e.ctx = x then some e.entry else none))
  let s := ents.foldl (fun s e => s.entryStatus x e 3) s
  let s := s.modCore c (fun k => { k with seats := k.seats.map (fun o => match o with | some e => if e.ctx = x then none else some e | none => none) })
  if ran then
    let s := s.modCore c Core.vacate
    if (s.core c).leave = .leaving then s.coreLeaves c else s
  else if (s.core c).seat.isNone && (s.core c).lastCtx = some x then s.modCore c Core.vacate
  else s

/-- Entries still pending are marked ABANDONED (R390). -/
def State.abandon (s : State) (x : CtxId) : State :=
  let y := s.ctx x
  let n := min (prodOf s x - y.cons).toNat (2 ^ y.ltLog2)
  (List.range n).foldl (fun s i => s.entryStatus x (y.cons + BitVec.ofNat 32 i) 4) s

/-- A leave for every slot of a context that is not UNASSIGNED joins the pending transaction (R397). -/
def State.leaveAll (s : State) (x : CtxId) : State :=
  s.slots.foldl (fun s e => if e.2.ctx = x && e.2.state ≠ .unassigned then s.kvAdd (leaveReq (BitVec.ofNat 14 e.1) x) else s) s

/-- The requests of a torn-down context are dropped with the packets of this chip that carry them and never left (R221, R397). -/
def State.dropSent (s : State) (x : CtxId) : State :=
  let mine (p : Packet) : Bool := p.src == s.chipId && !isResponse p.type && p.ctx == x
  let s := allPorts.foldl (fun s p => s.modPort p (fun q => q.keepQueue (fun e => !mine e.pkt))) s
  { s with asked := s.asked.filter (fun a => a.ctx ≠ x), net := s.net.filter (fun r => r.ctx ≠ x), stuck := s.stuck.filter (fun e => !mine e.2) }

/-- TEARDOWN_CLEANUP (R397). -/
def execTeardownCleanup (x : CtxId) (s : State) : Host.Outcome State Fault Refusal :=
  .next (
    match (s.ctx x).teardown with
    | none => s
    | some t =>
      if !s.up || t.cleaned || !allCores.all (coreQuiet s x) then s else
      let s := allCores.foldl (fun s c => s.clearCore x c) s
      let s := (((s.abandon x).leaveAll x).discardArrivals x).dropSent x
      (s.modCtx x (fun y => { y with threads := 0, teardown := y.teardown.map (fun t => { t with cleaned := true }) })).syncCtx x)

/-- After a commit, each cleaned teardown closes its final card (R397). -/
def State.teardownsCommitted (s : State) : State :=
  allCtxs.foldl (fun s x =>
    match (s.ctx x).teardown with
    | some t => if t.cleaned && !t.committed then (s.modCtx x (fun y => { y with teardown := some { t with committed := true } })).closeFinal x else s
    | none => s) s

/-! Idle, offline and return. -/

/-- No core runs a thread or holds an engine instruction (R439). -/
def allQuiet (s : State) : Bool :=
  s.cores.all (fun e => e.2.seat.isNone && allEngines.all (fun g => (e.2.queue g).isEmpty))

/-- IDLE_ENTRY: quiet for 10 us (R439). -/
def execIdleEntry (s : State) : Host.Outcome State Fault Refusal :=
  .next (match s.power.idleSince with
    | some t => if s.life = .running && s.pstate = .active && allQuiet s && decide (t + 10000 ≤ s.bell) then { s with pstate := .idle } else s
    | none => s)

/-- CORE_CTRL_OFFLINE: OFFLINE = 1 (R414). -/
def execCoreCtrlOffline (c : CoreId) (s : State) : Host.Outcome State Fault Refusal :=
  .next (
    if !s.up || !dieReached s (coreDie c) then s else
    let k := s.core c
    let s := s.setCore c { k with offline := true }
    if !k.inService || k.leave ≠ .stay then s
    else match k.seat with
      | none => (s.modCore c (fun k => { k with leave := .leaving })).coreLeaves c
      | some _ => (if k.stop.isSome then s else s.stopCore c .offline).modCore c (fun k => { k with leave := .leaving }))

/-- CORE_CTRL_RETURN: OFFLINE = 0; it does not cancel a departure under way (R414). -/
def execCoreCtrlReturn (c : CoreId) (s : State) : Host.Outcome State Fault Refusal :=
  .next (
    if !s.up || !dieReached s (coreDie c) then s else
    let k := s.core c
    s.setCore c { k with offline := false, leave := if k.inService || k.leave = .leaving then k.leave else .returning })

end Sys2Proof.Machine
end

