-- ==== Sys2Proof/Machine/Issue.lean ====
section
/-! DEFINITION. Engine instructions from issue to completion: the check of their words, the capture of their operands, the queues,
tokens and completion (spec/05_cores_arrays_scratchpad.md R88 to R90, spec/06_akaux_programming_model.md R126, R128, R129, R131,
spec/07_akaux_control_memory.md R145, spec/08_akaux_tensor.md R176, R177). -/
namespace Sys2Proof.Machine

/-! Which queue an instruction enters (Tables 5.1 and 8.1). -/

def isArrayKind : Kind → Bool
  | .mm | .mmAcc | .pralineSpill => true
  | _ => false

/-- An attention instruction in the sense of R90: it takes the arrays and the SFU (R204). -/
def isBarrier : Kind → Bool
  | .attnFwd | .attnBwd => true
  | _ => false

/-- The engine of an instruction that is not an array's. -/
def engineOf : Kind → Engine
  | .aadd | .amax | .circSet | .circAdv | .crumbGet => .crumb
  | .bulkGet | .bulkPut | .send | .rsum | .bcast | .kvAlloc | .kvFree | .ptEdit | .pfxLookup | .pfxInsert | .pfxRelease => .dma
  | .mm | .mmAcc | .pralineSpill => .arrayA
  | .vop | .softmax | .convert | .transpose | .tallyClose | .norm => .sfu
  | .attnFwd | .attnBwd | .sortb => .attn

/-- The queues an instruction enters; ENG = 3 names both arrays (R96). -/
def enginesFor (kind : Kind) (eng : BitVec 2) : List Engine :=
  if isArrayKind kind then (if eng = 1 then [.arrayA] else if eng = 2 then [.arrayB] else [.arrayA, .arrayB])
  else [engineOf kind]

/-! The fields an entry uses; every other field must be zero (R126). -/

structure Uses where
  tdo : Bool := false
  tdl : Bool := false
  tdr : Bool := false
  td3 : Bool := false
  td4 : Bool := false
  anc : Bool := false
  rnd : Bool := false
  chn : Bool := false
  mode : Bool := false
  s1 : Bool := false
  s2 : Bool := false
  s3 : Bool := false
  s4 : Bool := false
  ext : Bool := false

def usesOf : Kind → Uses
  | .crumbGet => { s1 := true, s2 := true, s3 := true, s4 := true }
  | .bulkGet => { tdo := true, s1 := true, s2 := true }
  | .bulkPut => { tdl := true, s1 := true, s2 := true }
  | .send => { tdl := true, s1 := true }
  | .rsum | .bcast => { tdl := true, s1 := true, s2 := true }
  | .kvAlloc => { s1 := true, s2 := true, s3 := true, ext := true }
  | .kvFree => { s1 := true, s2 := true, s3 := true }
  | .ptEdit => { s1 := true, s2 := true, s3 := true, s4 := true, ext := true }
  | .pfxLookup | .pfxInsert => { s1 := true }
  | .pfxRelease => { s1 := true, s2 := true, s3 := true }
  | .mm => { tdo := true, tdl := true, tdr := true, anc := true, rnd := true, chn := true }
  | .mmAcc => { tdo := true, tdl := true, tdr := true, anc := true, rnd := true, chn := true, td3 := true }
  | .pralineSpill => { tdo := true, tdl := true, tdr := true, anc := true, mode := true }
  | .vop => { tdo := true, tdl := true, tdr := true, rnd := true, mode := true }
  | .softmax => { tdo := true, tdl := true, anc := true, rnd := true }
  | .convert => { tdo := true, tdl := true, rnd := true }
  | .transpose => { tdo := true, tdl := true }
  | .tallyClose => { tdo := true, rnd := true, s1 := true, ext := true }
  | .norm => { tdo := true, tdl := true, tdr := true, td3 := true, rnd := true, s1 := true, ext := true }
  | .attnFwd => { tdo := true, tdl := true, tdr := true, td3 := true, anc := true, rnd := true, mode := true, s1 := true, s2 := true, s4 := true, ext := true }
  | .attnBwd => { tdo := true, tdl := true, tdr := true, td3 := true, td4 := true, anc := true, rnd := true, mode := true, s1 := true, s2 := true, s3 := true, s4 := true, ext := true }
  | .sortb => { s1 := true, s2 := true, s3 := true, s4 := true }
  | .aadd | .amax | .circSet | .circAdv => {}

/-- A field of Table 6.5 outside the entry's use is set; ENG is nonzero for an array instruction and zero for every other
(R126, R183); RND 3 is reserved. -/
def f2Unused (kind : Kind) (f : F2) : Bool :=
  let u := usesOf kind
  (!u.tdo && f.tdo != 0) || (!u.tdl && f.tdl != 0) || (!u.tdr && f.tdr != 0) || (!u.anc && f.anc != 0)
  || (!u.rnd && f.rnd != 0) || f.rnd == 3 || (!u.chn && f.chn != 0) || (!u.mode && f.mode != 0)
  || (if isArrayKind kind then f.eng == 0 else f.eng != 0)

/-- A field of Table 6.6 outside the entry's use is set. -/
def f3Unused (kind : Kind) (f : F3) : Bool :=
  let u := usesOf kind
  f2Unused kind f.w1 || (!u.td3 && f.td3 != 0) || (!u.td4 && f.td4 != 0) || (!u.s1 && f.s1 != 0) || (!u.s2 && f.s2 != 0)
  || (!u.s3 && f.s3 != 0) || (!u.s4 && f.s4 != 0) || (!u.ext && f.ext != 0)

/-- VOP codes with two operands: the element operations 0x00 to 0x04 and the gated activations (R188). -/
def vopBinary (code : Nat) : Bool := decide (code < 5) || (sfuGated code).isSome
def vopUnary (code : Nat) : Bool := (decide (5 ≤ code) && decide (code ≤ 8)) || (sfuUnary code).isSome

/-- MODE of VOP (R188). -/
def vopReserved (f : F2) : Bool :=
  let m := f.mode.toNat
  let code := m % 256
  !(vopBinary code || vopUnary code) || bitField m 11 10 ≠ 0 || (code ≠ 8 && bitField m 23 12 ≠ 0)
  || (vopUnary code && (f.tdr != 0 || bitField m 9 8 ≠ 0))

/-- The chain slot a product names is empty, or a prologue stands on MM.ACC (R184, R225). -/
def chainReserved (t : Thread) (kind : Kind) (n : BitVec 5) : Bool :=
  n != 0 &&
  match mapGet t.chains n.toNat with
  | none => true
  | some ws => kind == .mmAcc && fieldOf (ws.getD 0 0) 7 4 != 0

/-- MODE of ATTN.FWD and ATTN.BWD, and the descriptor fields that a mode bit leaves unused (Table 8.4, R198, R203). -/
def attnReserved (kind : Kind) (f : F3) : Bool :=
  let m := f.w1.mode.toNat
  2 ≤ m % 4 || bitField m 23 14 ≠ 0 || f.ext >>> 32 != 0
  || (if kind = .attnFwd then (!m.testBit 11 && f.w1.tdr != 0) || (!m.testBit 10 && f.td3 != 0)
      else m.testBit 11 || m.testBit 13 || (!m.testBit 10 && f.td4 != 0))

/-- The words of an instruction hold a reserved encoding (R126). -/
def opReserved (t : Thread) (kind : Kind) : Op → Bool
  | .f0 f =>
    f.d != 0 || f.x != 0 || decide (5 ≤ f.sub.toNat) || (kind == .amax && f.sub == 4) || (f.c == 0 && f.sub == 4)
  | .f1 f =>
    f.d != 0 || f.sub != 0 ||
    (if kind = .circSet then f.imm >>> 4 != 0
     else f.a != 0 || f.imm >>> 13 != 0 || bitField f.imm.toNat 12 4 == 0 || decide (256 < bitField f.imm.toNat 12 4))
  | .f2 f =>
    f2Unused kind f
    || (match kind with
        | .vop => vopReserved f
        | .pralineSpill => f.mode >>> 1 != 0
        | .mm => chainReserved t kind f.chn
        | _ => false)
  | .f3 f =>
    f3Unused kind f
    || (match kind with
        | .kvAlloc => f.ext >>> 1 != 0
        | .ptEdit => f.ext >>> 2 != 0 || f.ext == 1 || (f.ext == 0 && f.s4 != 0)
        | .tallyClose => f.ext.setWidth 35 != 0
        | .norm => (!f.ext.getLsbD 32 && f.w1.tdr != 0) || (!f.ext.getLsbD 33 && f.td3 != 0)
        | .mmAcc => chainReserved t kind f.w1.chn
        | .attnFwd | .attnBwd => attnReserved kind f
        | _ => false)

def opGuard : Op → BitVec 4
  | .f0 f => f.guard | .f1 f => f.guard | .f2 f => f.guard | .f3 f => f.w1.guard

def opKt : Op → BitVec 4
  | .f0 f => f.kt | .f1 f => f.kt | .f2 f => f.kt | .f3 f => f.w1.kt

def opWords : Op → Nat
  | .f3 _ => 2
  | _ => 1

def opEng : Op → BitVec 2
  | .f2 f => f.eng | .f3 f => f.w1.eng | _ => 0

/-! Capture (R145, R177). -/

/-- An instruction with no operand captured. -/
def blankItem (k : Core) (kind : Kind) (kt : BitVec 4) : Item where
  kind := kind
  serial := k.nextSerial
  addr := k.th.pc
  kt := kt
  sub := 0
  ext := 0
  rnd := 0
  eng := 0
  chn := 0
  anc := 0
  tdo := 0
  tdl := 0
  tdr := 0
  td3 := 0
  td4 := 0
  n1 := 0
  n2 := 0
  n3 := 0
  n4 := 0
  s1 := 0
  s2 := 0
  s3 := 0
  s4 := 0
  chain := []
  tds := []
  cas := 0
  seed := k.th.seed
  torigin := k.th.torigin
  phase := .queued
  twin := false
  steps := 0
  claims := []
  reads := []
  out := 0
  got := []
  stage := 0
  snaps := []
  marks := []
  padOuts := []
  globOuts := []

def captureF2 (k : Core) (kind : Kind) (f : F2) : Item :=
  let t := k.th
  let ch := if f.chn = 0 then [] else (mapGet t.chains f.chn.toNat).getD []
  { blankItem k kind f.kt with
    sub := f.mode.toNat, rnd := f.rnd, eng := f.eng, chn := f.chn, anc := t.anc f.anc,
    tdo := t.td f.tdo, tdl := t.td f.tdl, tdr := t.td f.tdr,
    chain := ch, tds := if f.chn = 0 then [] else t.tds.toList }

def captureF3 (k : Core) (kind : Kind) (f : F3) : Item :=
  let t := k.th
  { captureF2 k kind f.w1 with
    td3 := t.td f.td3, td4 := t.td f.td4, n1 := f.s1, n2 := f.s2, n3 := f.s3, n4 := f.s4,
    s1 := t.s f.s1, s2 := t.s f.s2, s3 := t.s f.s3, s4 := t.s f.s4, ext := f.ext.toNat,
    cas := if kind = .ptEdit && f.ext.getLsbD 0 then BitVec.ofNat 64 (k.padLoad (t.s f.s4).toNat 8) else 0 }

/-- The captured instruction. -/
def capture (k : Core) (kind : Kind) : Op → Item
  | .f0 f =>
    { blankItem k kind f.kt with
      sub := f.sub.toNat, n1 := f.a, n2 := f.b, n3 := f.c, s1 := k.th.s f.a, s2 := k.th.s f.b, s3 := k.th.s f.c }
  | .f1 f => { blankItem k kind f.kt with ext := f.imm.toNat, n1 := f.a, s1 := k.th.s f.a }
  | .f2 f => captureF2 k kind f
  | .f3 f => captureF3 k kind f

/-- PT.EDIT with CAS reads its word at issue (R210, R493). -/
def issueBad (k : Core) (kind : Kind) : Op → Option Nat
  | .f3 f => if kind = .ptEdit && f.ext.getLsbD 0 then areaBad k (k.th.s f.s4).toNat 8 8 else none
  | _ => none

/-- The instruction enters the queue of each of its engines. -/
def Core.enqueue (k : Core) (i : Item) : List Engine → Core
  | [] => k
  | [e] => k.setQueue e (k.queue e ++ [i])
  | e :: t => (k.setQueue e (k.queue e ++ [i])).enqueue { i with twin := true } t

/-- A queue is full or the counter stands at 1023: issue waits (R88, R128; log 21). -/
def mustWait (k : Core) (kind : Kind) (op : Op) : Bool :=
  (enginesFor kind (opEng op)).any (fun e => decide (queueDepth e ≤ (k.queue e).length)) || k.th.tok (opKt op) == 1023

/-- The instruction is placed and its token counted (R88, R128). -/
def Core.place (k : Core) (kind : Kind) (op : Op) : Core :=
  let i := capture k kind op
  { (k.enqueue i (enginesFor kind (opEng op))) with
    nextSerial := k.nextSerial + 1, hold := none,
    th := (k.th.setTok (opKt op) (k.th.tok (opKt op) + 1)).skip (opWords op) }

/-- Issue of an engine instruction, or the wait for room. -/
def State.placeOp (s : State) (c : CoreId) (kind : Kind) (op : Op) : State :=
  let k := s.core c
  match issueBad k kind op with
  | some cause => s.fault c cause k.th.pc []
  | none =>
    if mustWait k kind op then s.modCore c (fun k => { k with hold := some (.issue kind op) })
    else s.modCore c (fun k => k.place kind op)

/-- The issue event of an engine instruction (R88, R125, R126). -/
def State.issueOp (s : State) (c : CoreId) (kind : Kind) (op : Op) : State :=
  s.issue c (opGuard op) (opReserved (s.core c).th kind op) (opWords op) (fun s => s.placeOp c kind op)

/-- ISSUE_RESUME: the queue has room and the counter stands below 1023 (R88, R128). -/
def execIssueResume (c : CoreId) (s : State) : Host.Outcome State Fault Refusal :=
  .next (
    match (s.core c).hold with
    | some (.issue kind op) => if canHold s c then s.placeOp c kind op else s
    | _ => s)

/-! Completion (R129, R131). -/

/-- An instruction that stands in the queues of both arrays (R96). -/
def isPair (i : Item) : Bool := isArrayKind i.kind && i.eng == 3

/-- The other array's queue. -/
def otherArray : Engine → Engine
  | .arrayA => .arrayB
  | .arrayB => .arrayA
  | e => e

/-- An instruction of a pair counts once, when both queues have it at their head (R129). -/
def pairAtHead (k : Core) (e : Engine) (i : Item) : Bool :=
  !isPair i || (match k.queue (otherArray e) with | j :: _ => j.serial == i.serial | [] => false)

/-- The finished instruction at the head of a queue, which is counted next (R129). -/
def Core.countable (k : Core) (e : Engine) : Option Item :=
  match k.queue e with
  | [] => none
  | i :: _ => if i.phase = .finished && pairAtHead k e i then some i else none

/-- The instruction at the head of a queue is counted and leaves (R128, R129). -/
def Core.countHead (k : Core) (e : Engine) (i : Item) : Core :=
  let k := if isPair i then k.setQueue (otherArray e) (k.queue (otherArray e)).tail else k
  { (k.setQueue e (k.queue e).tail) with th := k.th.setTok i.kt (k.th.tok i.kt - 1) }

/-- The steps of a completed instruction count on its die and in its context's card (Tables 15.6, 16.8). -/
def State.countSteps (s : State) (c : CoreId) (i : Item) : State :=
  let d := 8 * (coreDie c).toNat
  let x := (s.core c).runCtx.getD 0
  match engineOf i.kind with
  | .arrayA | .arrayB => (s.count (0x100 + d) i.steps).modCard x (fun r => { r with stepsArray := r.stepsArray + i.steps })
  | .attn => (s.count (0x110 + d) i.steps).modCard x (fun r => { r with stepsAttn := r.stepsAttn + i.steps })
  | .sfu => (s.count (0x120 + d) i.steps).modCard x (fun r => { r with stepsSfu := r.stepsSfu + i.steps })
  | _ => s

/-- Its effects are all visible (R131). -/
def itemDone (i : Item) : Bool := i.phase == .performed && i.out == 0 && i.claims.isEmpty

/-- The crumbs of a CRUMB.GET, in index order. -/
def gotBytes (m : SMap (List Byte)) : List Byte := (m.map (·.2)).flatten

/-- The crumbs of a CRUMB.GET land when the last has arrived, each word once (R163). -/
def State.landCrumbs (s : State) (c : CoreId) (i : Item) : State :=
  if i.kind = .crumbGet then s.modCore c (fun k => k.padWrite i.s4.toNat (gotBytes i.got)) else s

/-- An instruction with an address and a cause faults its context and has no effect (R137). -/
def State.itemFaults (s : State) (c : CoreId) (i : Item) (cause : Nat) (detail : List Byte) : State :=
  (s.modCore c (fun k => k.modItem i.serial (fun j => { j with phase := .finished, out := 0, claims := [] }))).fault c cause i.addr detail

def State.itemBad (s : State) (c : CoreId) (i : Item) (cause : Nat) : State := s.itemFaults c i cause []

end Sys2Proof.Machine
end

