-- ==== Sys2Proof/Machine/Chains.lean ====
section
/-! DEFINITION. Fused chains and row tallies (spec/09_fused_chains.md R222 to R241, spec/08_akaux_tensor.md R184, R187). -/
namespace Sys2Proof.Machine

/-! Chain records (Tables 9.1 and 9.2). -/

def stageCode (w : Word) : Nat := fieldOf w 3 0

/-- The stage acts on the left operand. -/
def stageIsPrologue (w : Word) : Bool := decide (9 ≤ stageCode w)

/-- Bits outside the fields of Table 9.2, for each stage code; none for a reserved code. -/
def stageFields (code : Nat) : Option (Nat × Nat) :=
  match code with
  | 0x1 => some (63, 32)
  | 0x2 => some (15, 4)
  | 0x3 => some (8, 4)
  | 0x4 => some (8, 4)
  | 0x5 => some (11, 4)
  | 0x6 => some (15, 4)
  | 0x7 => some (7, 4)
  | 0x8 => some (44, 4)
  | 0x9 => some (63, 4)
  | 0xA => some (11, 4)
  | 0xB => some (63, 32)
  | _ => none

/-- A1 and A2 of a TALLY stage. -/
def tallyA1 (w : Word) : Int := (BitVec.ofNat 12 (fieldOf w 32 21)).toInt
def tallyA2 (w : Word) : Int := (BitVec.ofNat 12 (fieldOf w 44 33)).toInt

/-- The pair rule of R224. -/
def pairRule (a1 a2 : Int) : Bool := decide (-64 ≤ a2 - 2 * a1 + 64) && decide (a2 - 2 * a1 + 64 ≤ 127)

/-- BASE_W leaves fewer than 128 words (R224). -/
def baseLate (w : Word) : Bool := decide (2 ^ 17 < fieldOf w 20 4 + 128)

/-- Word `n` of a record of `len` stage words, `np` of them prologue stages, is a reserved stage encoding (R223, R224). -/
def stageReserved (np len n : Nat) (w : Word) : Bool :=
  match stageFields (stageCode w) with
  | none => true
  | some (hi, lo) =>
    decide (w.toNat ≠ stageCode w + fieldOf w hi lo * 2 ^ lo)
    || stageIsPrologue w != decide (n ≤ np)
    || (match stageCode w with
        | 0x5 | 0xA => (sfuUnary (fieldOf w 11 4)).isNone
        | 0x6 => (sfuGated (fieldOf w 11 4)).isNone
        | 0x8 => n ≠ len || tallyA1 w = -2048 || tallyA2 w = -2048 || !pairRule (tallyA1 w) (tallyA2 w) || baseLate w
        | 0x9 => n ≠ 1 || baseLate w
        | _ => false)

/-- The words of a chain record at a scratch offset. -/
def chainWords (k : Core) (a n : Nat) : List Word := tabulate n (fun i => BitVec.ofNat 64 (k.padLoad (a + 8 * i) 8))

/-- The checks of CHAIN.DEF on its record: alignment, the end of the scratchpad, poison, then the encodings (R187, R493). -/
def chainBad (k : Core) (a : Nat) : Option Nat :=
  match areaBad k a 8 64 with
  | some c => some c
  | none =>
    let h := BitVec.ofNat 64 (k.padLoad a 8)
    let len := fieldOf h 3 0
    match areaBad k a (8 * (len + 1)) 64 with
    | some c => some c
    | none =>
      let np := fieldOf h 7 4
      let ws := (chainWords k a (len + 1)).drop 1
      if fieldOf h 63 8 ≠ 0 || len < np || (ws.mapIdx (fun i w => stageReserved np len (i + 1) w)).any id then some cReserved
      else none

/-- CHAIN.DEF (R187). -/
def execChainDef (c : CoreId) (f : F1) (s : State) : Host.Outcome State Fault Refusal :=
  .next (s.issue c f.guard (f.d != 0 || f.sub != 0 || f.kt != 0 || f.imm >>> 5 != 0 || f.imm == 0) 1 (fun s =>
    let k := s.core c
    let a := (k.th.s f.a).toNat
    match chainBad k a with
    | some cause => s.fault c cause k.th.pc []
    | none =>
      let n := k.padLoad a 1 % 16
      s.onThread c (fun t => { t with chains := mapSet t.chains f.imm.toNat (chainWords k a (n + 1)) })))

/-! The chain a product captured. -/

def Item.prologue (i : Item) : List Word := (i.chain.drop 1).take (fieldOf (i.chain.getD 0 0) 7 4)
def Item.epilogue (i : Item) : List Word := (i.chain.drop 1).drop (fieldOf (i.chain.getD 0 0) 7 4)

/-- The TALLY stage, which is last. -/
def Item.tallyStage (i : Item) : Option Word := i.epilogue.find? (fun w => stageCode w == 8)

/-- The PNORM stage. -/
def Item.pnorm (i : Item) : Option Word := i.prologue.find? (fun w => stageCode w == 9)

def stageTd (i : Item) (n : Nat) : BitVec 256 := i.tds.getD n 0

/-- The tiles a stage names, with the shape each must have for a product of M, N, K (Table 9.2). -/
def stageTiles (w : Word) (m n k : Nat) : List (Nat × Nat × Nat) :=
  match stageCode w with
  | 0x3 | 0x4 => [(fieldOf w 7 4, if w.getLsbD 8 then (m, 1) else (1, n))]
  | 0x6 => [(fieldOf w 15 12, m, n)]
  | 0x7 => [(fieldOf w 7 4, m, n)]
  | 0x9 => (if w.getLsbD 22 then [(fieldOf w 27 24, 1, k)] else []) ++ (if w.getLsbD 23 then [(fieldOf w 31 28, 1, k)] else [])
  | _ => []

/-- A vector input: a checked descriptor of any format but Praline (R48, R123, R189, R225). -/
def checkVector (th : Thread) (d : BitVec 256) : Except Nat (Tile × Fmt) :=
  match checkTile th d false with
  | .error c => .error c
  | .ok (t, f) => if fmtVectorInput f then .ok (t, f) else .error cFormat

/-- R225: one stage tile. -/
def stageTileBad (th : Thread) (i : Item) (x : Nat × Nat × Nat) : Option Nat :=
  let d := stageTd i x.1
  if (tileOf d).circEn then some cDescriptor else
  match checkVector th d with
  | .error c => some c
  | .ok (t, _) => if t.rows = x.2.1 && t.cols = x.2.2 then none else some cShape

def allStageTiles (i : Item) (m n k : Nat) : List (Nat × Nat × Nat) := ((i.chain.drop 1).map (fun w => stageTiles w m n k)).flatten

def chainTilesBad (th : Thread) (i : Item) (m n k : Nat) : Option Nat := firstBad ((allStageTiles i m n k).map (stageTileBad th i))

/-- Scratch offset of a tally record. -/
def tallyAt (w : Word) (r : Nat) : Nat := 64 * (fieldOf w 20 4 + r)

/-- A stage tile or a tally record of the `m` rows is poisoned (R226, R231). -/
def chainPoison (k : Core) (i : Item) (m n kk : Nat) : Bool :=
  (allStageTiles i m n kk).any (fun x => k.tilePoison (i.area k.th (stageTd i x.1) false))
  || (i.tallyStage.toList ++ i.pnorm.toList).any (fun w => k.padPoison (tallyAt w 0) (64 * m))

/-- The tally record in a scratchpad word (Table 9.3). -/
def Core.tally (k : Core) (a : Nat) : Tally := tallyOfBytes (k.padBytes a 44)

/-- The tallies of `m` rows from offset `a` are closed. -/
def talliesClosed (k : Core) (a m : Nat) : Bool := (List.range m).all (fun r => tallyClosed (k.tally (a + 64 * r)))

/-- A record that a waiting PNORM reads is poisoned (R226). -/
def pnormPoison (k : Core) (i : Item) (m : Nat) : Bool := i.pnorm.any (fun w => k.padPoison (tallyAt w 0) (64 * m))

/-- A PNORM's tallies are closed (R228). -/
def pnormReady (k : Core) (i : Item) (m : Nat) : Bool :=
  match i.pnorm with
  | none => true
  | some w => talliesClosed k (tallyAt w 0) m

/-! Normalisation (R239). -/

/-- What a row's normalisation takes from its record: the mean, the reciprocal root, and the flags raised. -/
structure RowNorm where
  mean : Val
  root : Val
  flags : Flags

def rowNorm (t : Tally) (rms : Bool) (eps : Val) : RowNorm :=
  let v := momentW (if rms then moment1 t.sq t.n.toNat else variance t)
  let mu := if rms then (valZero false, (0 : Flags)) else momentW (moment1 t.sx t.n.toNat)
  let a := wAdd v.1 eps
  let r := sfuStage .rsqrt a.1
  ⟨mu.1, r.1, mu.2 ||| v.2 ||| a.2 ||| r.2⟩

def bindVal (x : Val × Flags) (f : Val → Val × Flags) : Val × Flags :=
  let y := f x.1
  (y.1, x.2 ||| y.2)

/-- normalise() of one element (R239). -/
def normElem (n : RowNorm) (rms : Bool) (g b : Option Val) (x : Val) : Val × Flags :=
  let y := bindVal (if rms then (x, 0) else wSub x n.mean) (fun y => wMul y n.root)
  let y := match g with | some g => bindVal y (fun y => wMul y g) | none => y
  match b with | some b => bindVal y (fun y => wAdd y b) | none => y

/-! Stages in W (R227 to R229). -/

/-- A stage with its tiles' values. -/
structure Stage where
  word : Word
  tiles : List (List (List Val))
  norms : List RowNorm

def fp32Const (w : Word) : Val := decodeVal .fp32 (fieldOf w 63 32) none

/-- A stage with what it reads: its tiles, and the row records of a PNORM over `m` rows. -/
def loadStage (k : Core) (i : Item) (m : Nat) (w : Word) : Stage :=
  let td (n : Nat) := k.tileVals (i.area k.th (stageTd i n) false)
  match stageCode w with
  | 0x3 | 0x4 | 0x7 => ⟨w, [td (fieldOf w 7 4)], []⟩
  | 0x6 => ⟨w, [td (fieldOf w 15 12)], []⟩
  | 0x9 => ⟨w, [if w.getLsbD 22 then td (fieldOf w 27 24) else [], if w.getLsbD 23 then td (fieldOf w 31 28) else []],
      tabulate m (fun r => rowNorm (k.tally (tallyAt w r)) (w.getLsbD 21) (fp32Const w))⟩
  | _ => ⟨w, [], []⟩

def Stage.tile (t : Stage) (n i j : Nat) : Val := elemAt (t.tiles.getD n []) i j

/-- One stage on y at (i, j), or on x at (i, k) (Table 9.2). -/
def Stage.apply (t : Stage) (i j : Nat) (y : Val) : Val × Flags :=
  let w := t.word
  let vec : Val := if w.getLsbD 8 then t.tile 0 i 0 else t.tile 0 0 j
  match stageCode w with
  | 0x1 => wMul y (fp32Const w)
  | 0x2 => wScale y (BitVec.ofNat 12 (fieldOf w 15 4)).toInt
  | 0x3 => wAdd y vec
  | 0x4 => wMul y vec
  | 0x5 => match sfuUnary (fieldOf w 11 4) with | some f => sfuStage f y | none => (y, 0)
  | 0x6 => match sfuGated (fieldOf w 11 4) with | some f => sfuGate f .w64 y (t.tile 0 i j) | none => (y, 0)
  | 0x7 => wAdd y (t.tile 0 i j)
  | 0x9 =>
    let n := t.norms.getD i ⟨valZero false, valZero false, 0⟩
    let r := normElem n (w.getLsbD 21) (if w.getLsbD 22 then some (t.tile 0 0 j) else none) (if w.getLsbD 23 then some (t.tile 1 0 j) else none) y
    (r.1, r.2 ||| n.flags)
  | 0xA => match sfuUnary (fieldOf w 11 4) with | some f => sfuStage f y | none => (y, 0)
  | 0xB => wMul y (fp32Const w)
  | _ => (y, 0)

/-- The stages in record order on one element. -/
def applyStages (ts : List Stage) (i j : Nat) (y : Val × Flags) : Val × Flags := ts.foldl (fun y t => bindVal y (t.apply i j)) y

/-- The prologue on row `i` of the left operand: each element transformed, rounded to nearest-even into the operand's
format, and decoded again (R228). -/
def prologueRow (ts : List Stage) (f : Fmt) (i : Nat) (vs : List Val) : List Val × Flags :=
  if ts.isEmpty then (vs, 0) else
  let ys := vs.mapIdx (fun j x => applyStages ts i j (x, 0))
  let o := encodeRow f (ys.map (fun y => (y.1, Rnd.rne)))
  (o.vals f, foldFlags (ys.map (·.2)) ||| o.flags)

/-- The epilogue of one row: each record into W, the stages, and the one rounding of the instruction (R227). -/
def epilogueRow (ts : List Stage) (f : Fmt) (i : Nat) (rnd : Nat → Rnd) (ps : List Praline) : RowOut :=
  let ys := ps.mapIdx (fun j p => applyStages ts i j (prToW p))
  let o := encodeRow f (ys.mapIdx (fun j y => (y.1, rnd j)))
  { o with flags := o.flags ||| foldFlags (ys.map (·.2)) }

/-! Row tallies (R232 to R234). -/

/-- A signed 16-bit sum. -/
def add16 (a b : Int) : Int := (BitVec.ofInt 16 (a + b)).toInt

/-- The TALLY stage on one stored row. -/
def Core.tallyUpdate (k : Core) (w : Word) (r : Nat) (vs : List Val) : Core :=
  let a := tallyAt w r
  let old := k.tally a
  let new := tallyRow old vs (tallyA1 w) (tallyA2 w)
  (k.padWrite a (tallyBytes new)).modTh (fun t => { t with openTally := add16 t.openTally (tallyOpenDelta old new) })

/-- A stored row's tally update, where the chain has a TALLY stage. -/
def Core.tallyStored (k : Core) (i : Item) (r : Nat) (vs : List Val) : Core :=
  match i.tallyStage with
  | some w => k.tallyUpdate w r vs
  | none => k

end Sys2Proof.Machine
end

