-- ==== Sys2Proof/Machine/Array.lean ====
section
/-! DEFINITION. The arrays: MM, MM.ACC, PRALINE.SPILL, their checks, steps and bank schedules (spec/05_cores_arrays_scratchpad.md R91
to R102, spec/08_akaux_tensor.md R182 to R186). -/
namespace Sys2Proof.Machine

/-- An engine performs the effect of the started instruction at place `n` of its queue; `bad`: what a code finds at a word it
reads (R105). -/
def State.runItem (s : State) (c : CoreId) (e : Engine) (n : Nat) (bad : Option (Nat × Ecc)) (kind : Kind) (f : State → Item → State) : State :=
  match ((s.core c).queue e)[n]? with
  | some i => if s.up && (s.core c).inService && i.kind = kind && i.phase = .started then f (s.spadFound c bad) i else s
  | none => s

/-- The instruction's effect is done; what it asked of others is counted in `out` (R131). -/
def State.performed (s : State) (c : CoreId) (i : Item) : State :=
  s.modCore c (fun k => k.modItem i.serial (fun j => { j with phase := .performed }))

/-- The flags of an instruction go to the nibbles of the engines it ran on (R69, R71). -/
def Core.raise (k : Core) (es : List Engine) (f : Flags) : Core := es.foldl (fun k e => k.modTh (fun t => t.orFlags e f)) k

/-- The regions that input descriptors with POP release (R113). -/
def popsOf (ins : List (BitVec 256)) : List (BitVec 4) :=
  (ins.filter (fun d => (tileOf d).circEn && (tileOf d).pop)).map (fun d => (tileOf d).circ)

/-- The pops of an instruction; none where one would take HEAD past TAIL (R113). -/
def Core.popAll (k : Core) : List (BitVec 4) → Option Core
  | [] => some k
  | r :: t =>
    match (k.th.circ r).freeSlots 1 with
    | none => none
    | some x => (k.modTh (fun th => th.setCirc r x)).popAll t

/-- A poisoned source or a pop past TAIL faults before anything is read or written; else the effect `f` on the core, the
pops, and the instruction is performed (R106, R113, R137). -/
def State.perform (s : State) (c : CoreId) (i : Item) (poison : Bool) (ins : List (BitVec 256)) (f : Core → Core) : State :=
  let k := s.core c
  if poison then s.itemBad c i cPoison else
  match k.popAll (popsOf ins) with
  | none => s.itemBad c i cCircular
  | some k' => (s.setCore c (f { k with th := k'.th })).performed c i

/-! Steps (R92, R93, Table 8.2). -/

def wideFmt (f : Fmt) : Bool := f == .bf16 || f == .fp16

/-- The 4- and 6-bit set of Table 5.2. -/
def smallFmt (f : Fmt) : Bool := fmtBits f == 4 || fmtBits f == 6

/-- Half array steps per element of K: 4, 1 or 2 (Table 5.2). -/
def halfSteps (l r : Fmt) : Nat := if wideFmt l || wideFmt r then 4 else if smallFmt l && smallFmt r then 1 else 2

/-- K_s. -/
def accSteps (l r : Fmt) (k : Nat) : Nat := ceilDiv (k * halfSteps l r) 2

/-- K_s + 4 + D (R93, R95, R96). -/
def arraySteps (l r o : Fmt) (m n k : Nat) : Nat := accSteps l r k + 4 + m * ceilDiv (ceilDiv (rowBytes o n) 64) 32

/-! Bank schedules (R100, R101). -/

/-- One feeder stream. -/
structure Stream where
  base : Nat
  stride : Nat
  rows : Nat
  /-- Panel width in words. -/
  width : Nat
  /-- Steps to consume one panel. -/
  steps : Nat
  panels : Nat

def panelWidth (f : Fmt) : Nat := if fmtBits f = 6 then 3 else 1

def streamOf (a : Area) (row0 rows half : Nat) : Stream :=
  let w := panelWidth a.fmt
  ⟨a.rowAt row0, a.stride, rows, w, 64 * w * 8 / fmtBits a.fmt * half / 2, ceilDiv a.rowBytes (64 * w)⟩

/-- The words a stream reads in step t: word v of panel p + 1 at step floor(v T / (R W)) of panel p (R100). -/
def Stream.wordsAt (x : Stream) (t : Nat) : List Nat :=
  let p := t / x.steps
  let o := t % x.steps
  let n := x.rows * x.width
  if x.panels ≤ p + 1 then [] else
  let lo := ceilDiv (o * n) x.steps
  tabulate (ceilDiv ((o + 1) * n) x.steps - lo) (fun i =>
    let v := lo + i
    (x.base + v / x.width * x.stride) / 64 + (p + 1) * x.width + v % x.width)

/-- The lowest bank that more than two words of a list lie in (R98, R101). -/
def bankClash (ws : List Nat) : Option Nat :=
  (List.range 32).find? (fun b => decide (2 < (ws.filter (fun v => v % 32 == b)).length))

/-- The bank of the first conflict of an instruction's feeders: on AB, identical word reads of one step count as one (R101). -/
def bankConflict (xs : List Stream) (pair : Bool) : Option Nat :=
  let last := (xs.map (fun x => (x.panels - 1) * x.steps)).foldl max 0
  (List.range last).findSome? (fun t =>
    let ws := (xs.map (fun x => x.wordsAt t)).flatten
    bankClash (if pair then ws.eraseDups else ws))

/-- The streams of an array instruction (R96, R100). -/
def streamsOf (l r : Area) (pair : Bool) : List Stream :=
  let h := halfSteps l.fmt r.fmt
  if pair then [streamOf l 0 l.rows h, streamOf r 0 128 h, streamOf r 128 (r.rows - 128) h]
  else [streamOf l 0 l.rows h, streamOf r 0 r.rows h]

/-! Checks at the head (R123, R136, R183, R185, R186, R225). -/

/-- An array input. -/
def checkArrayIn (th : Thread) (d : BitVec 256) : Except Nat (Tile × Fmt) :=
  match checkTile th d false with
  | .error c => .error c
  | .ok (t, f) => if fmtArrayInput f then .ok (t, f) else .error cFormat

/-- A stored output other than Praline. -/
def checkStored (th : Thread) (d : BitVec 256) : Except Nat (Tile × Fmt) :=
  match checkTile th d true with
  | .error c => .error c
  | .ok (t, f) => if fmtStoredOutput f then .ok (t, f) else .error cFormat

/-- A Praline tile in a role that wants one. -/
def checkPraline (th : Thread) (d : BitVec 256) (isOut : Bool) : Except Nat (Tile × Fmt) :=
  match checkTile th d isOut with
  | .error c => .error c
  | .ok (t, f) => if f = .praline then .ok (t, f) else .error cFormat

/-- N fits the arrays named (R183). -/
def fitsArrays (pair : Bool) (n : Nat) : Bool := if pair then decide (129 ≤ n) && decide (n ≤ 256) else decide (n ≤ 128)

/-- MM, MM.ACC and PRALINE.SPILL at the head: the steps, or the cause of a fault. -/
def headArray (x : Core) (i : Item) : Except Nat Nat := do
  let th := x.th
  let l ← checkArrayIn th i.tdl
  let r ← checkArrayIn th i.tdr
  let o ← if i.kind = .pralineSpill then checkPraline th i.tdo true else checkStored th i.tdo
  let p ← if i.kind = .mmAcc then (checkPraline th i.td3 false).map some else .ok none
  let (m, n, k) := (l.1.rows, r.1.rows, l.1.cols)
  if i.anc = 0x800 then throw cAnchor
  if r.1.cols ≠ k || o.1.rows ≠ m || o.1.cols ≠ n || 128 < m || !fitsArrays (i.eng == 3) n then throw cShape
  if p.any (fun p => p.1.rows ≠ m || p.1.cols ≠ n) then throw cShape
  match chainTilesBad th i m n k with
  | some c => throw c
  | none =>
    if pnormPoison x i m then throw cPoison
    pure (arraySteps l.2 r.2 o.2 m n k)

/-! The products (R182, R185, R186, R227). -/

def commonsOf (vs : List Val) : List Common := vs.map (fun v => (toCommon v).1)

/-- One dot product from a starting record, with the flags its terms raise (R75, R77, R80). -/
def dot (a : Int) (acc : Praline) (xs ys : List Common) : Praline × Flags :=
  (List.zip xs ys).foldl (fun r p => let t := term p.1 p.2 a; (prAdd r.1 t, r.2 ||| termFlags t)) (acc, 0)

/-- The records of one output row. -/
def dotRow (a : Int) (start : List Praline) (x : List Common) (ys : List (List Common)) : List (Praline × Flags) :=
  ys.mapIdx (fun j y => dot a (start.getD j prEmpty) x y)

/-- The records of a product and the flags raised before its epilogue. -/
def product (k : Core) (i : Item) (l r : Area) (start : Nat → List Praline) : List (List Praline) × Flags :=
  let a := anchorInt i.anc
  let ts := i.prologue.map (loadStage k i l.rows)
  let ys := (k.tileVals r).map commonsOf
  let rows := tabulate l.rows (fun m =>
    let x := prologueRow ts l.fmt m (k.rowVals l m)
    let ds := dotRow a (start m) (commonsOf x.1) ys
    (ds.map (·.1), x.2 ||| foldFlags (ds.map (·.2))))
  (rows.map (·.1), foldFlags (rows.map (·.2)))

/-- The rows written in order, each followed by its tally update (R233). -/
def writeRows (i : Item) (o : Area) (k : Core) (rows : List RowOut) : Core :=
  (rows.mapIdx (fun m r => (m, r))).foldl (fun k x => (k.writeRow o x.1 x.2.codes x.2.scales).tallyStored i x.1 (x.2.vals o.fmt)) k

/-- MM and MM.ACC: every operand is read before the drain writes (R180). -/
def mmEffect (i : Item) (k : Core) : Core :=
  let th := k.th
  let l := i.area th i.tdl false
  let r := i.area th i.tdr false
  let o := i.area th i.tdo true
  let p := product k i l r (if i.kind = .mmAcc then k.rowRecs (i.area th i.td3 false) else fun _ => [])
  let ep := i.epilogue.map (loadStage k i l.rows)
  let outs := p.1.mapIdx (fun m ps =>
    if i.chain.isEmpty then encodePrRow o.fmt (ps.mapIdx (fun j x => (x, i.rndAt m j))) else epilogueRow ep o.fmt m (i.rndAt m) ps)
  (writeRows i o k outs).raise (enginesFor i.kind i.eng) (p.2 ||| foldFlags (outs.map (·.flags)))

/-- PRALINE.SPILL (R186). -/
def spillEffect (i : Item) (k : Core) : Core :=
  let th := k.th
  let o := i.area th i.tdo true
  let p := product k i (i.area th i.tdl false) (i.area th i.tdr false) (if i.sub % 2 = 1 then k.rowRecs o else fun _ => [])
  let k := (p.1.mapIdx (fun m ps => (m, ps))).foldl (fun k x => k.writeRow o x.1 (x.2.map (fun q => (prBits q).toNat)) []) k
  k.raise (enginesFor i.kind i.eng) p.2

/-- A poisoned word under an operand, a starting record, a stage tile or a tally record. -/
def arrayPoison (k : Core) (i : Item) : Bool :=
  let th := k.th
  let l := i.area th i.tdl false
  let r := i.area th i.tdr false
  k.tilePoison l || k.tilePoison r || (i.kind = .mmAcc && k.tilePoison (i.area th i.td3 false))
  || (i.kind = .pralineSpill && i.sub % 2 = 1 && k.tilePoison (i.area th i.tdo true))
  || chainPoison k i l.rows r.rows l.cols

def arrayIns (i : Item) : List (BitVec 256) := if i.kind = .mmAcc then [i.tdl, i.tdr, i.td3] else [i.tdl, i.tdr]

/-- Spans of the enabled regions' slots. -/
def regionSpans (th : Thread) : List (Nat × Nat) :=
  (th.circs.toList.filter (fun r => r.en)).map (fun r => (64 * r.baseW.toNat, 64 * (r.slotW.toNat * r.slots.toNat)))

/-- Spans of the stage tiles and PNORM records a chain reads (R241). -/
def chainReads (k : Core) (i : Item) (m n kk : Nat) : List (Nat × Nat) :=
  ((allStageTiles i m n kk).map (fun x => (i.area k.th (stageTd i x.1) false).spans)).flatten
  ++ i.pnorm.toList.map (fun w => (tallyAt w 0, 64 * m))

/-- Spans of the tally records a chain writes. -/
def chainTallies (i : Item) (m : Nat) : List (Nat × Nat) := i.tallyStage.toList.map (fun w => (tallyAt w 0, 64 * m))

/-- What a chain leaves undefined where its stage tiles or records lie in a region's slots: the output, and the records
(R241). -/
def State.blurChain (s : State) (c : CoreId) (i : Item) (rs : List (Nat × Nat)) : State :=
  let k := s.core c
  let l := i.area k.th i.tdl false
  let m := l.rows
  let n := (tileOf i.tdr).rows
  if !(k.item i.serial).any (fun j => j.phase == .performed) then s else
  let o := i.area k.th i.tdo true
  let s := if spansMeet (chainReads k i m n l.cols) rs then s.blurArea c o else s
  if spansMeet (chainTallies i m) rs || (spansMeet (chainReads k i m n l.cols) rs) then
    (chainTallies i m).foldl (fun s w => s.padOut c true (w.1, List.replicate w.2 0)) s
  else s

def State.runArray (s : State) (c : CoreId) (f : Item → Core → Core) (i : Item) : State :=
  (s.perform c i (arrayPoison (s.core c) i) (arrayIns i) (f i)).blurChain c i (regionSpans (s.core c).th)

def execMm (c : CoreId) (v : Ev F2) (s : State) : Host.Outcome State Fault Refusal :=
  .next (match v with
    | .issue w => s.issueOp c .mm (.f2 w)
    | .run e n b => s.runItem c e n b .mm (fun s i => s.runArray c mmEffect i))

def execMmAcc (c : CoreId) (v : Ev F3) (s : State) : Host.Outcome State Fault Refusal :=
  .next (match v with
    | .issue w => s.issueOp c .mmAcc (.f3 w)
    | .run e n b => s.runItem c e n b .mmAcc (fun s i => s.runArray c mmEffect i))

def execPralineSpill (c : CoreId) (v : Ev F2) (s : State) : Host.Outcome State Fault Refusal :=
  .next (match v with
    | .issue w => s.issueOp c .pralineSpill (.f2 w)
    | .run e n b => s.runItem c e n b .pralineSpill (fun s i => s.runArray c spillEffect i))

end Sys2Proof.Machine
end

