-- ==== Sys2Proof/Machine/CrumbUnit.lean ====
section
/-! DEFINITION. The crumb unit: AADD, AMAX, CIRC.SET, CIRC.ADV, CRUMB.GET (spec/07_akaux_control_memory.md R162 to R169,
spec/05_cores_arrays_scratchpad.md R110, R113). -/
namespace Sys2Proof.Machine

/-- A cause without a poisoned table. -/
def bad (c : Nat) : Bad := ⟨c, none⟩

/-- The first failing translation of a list of accesses (R157). -/
def accessBad (s : State) (x : CtxId) (want : Want) : List (Word × Nat) → Option Bad
  | [] => none
  | (g, n) :: t =>
    match translate s x g n want with
    | .error b => some b
    | .ok _ => accessBad s x want t

/-- A check that answers an optional cause. -/
def orElse (o : Option Bad) (steps : Nat) : Except Bad Nat :=
  match o with | some b => .error b | none => .ok steps

/-- A fault of an instruction in an engine, with the record of a poisoned table (R137, R470). -/
def State.itemBadWalk (s : State) (c : CoreId) (i : Item) (b : Bad) : State :=
  let s := match b.unit with
    | some a => s.error (coreDie c).toNat 0x0107 a [1]
    | none => s
  s.itemBad c i b.cause

/-! Atomics (R164 to R166). -/

/-- Elements of an AADD or AMAX: one in the scalar form, C = s0. -/
def atomicCount (i : Item) : Nat := if i.n3 = 0 then 1 else i.s3.toNat

def atomicLen (i : Item) : Nat := atomicCount i * atomicSize i.sub

/-- A span cut at 32-byte boundaries: offsets from its start and lengths; at most `n` pieces. -/
def cutAt (unit : Nat) : (n a off len : Nat) → List (Nat × Nat)
  | 0, _, _, _ => []
  | n + 1, a, off, len =>
    if len = 0 then [] else
    let m := min len (unit - a % unit)
    (off, m) :: cutAt unit n (a + m) (off + m) (len - m)

def atomicPieces (i : Item) : List (Nat × Nat) := cutAt 32 (atomicLen i / 32 + 2) i.s1.toNat 0 (atomicLen i)

def gAdd (g : Word) (n : Nat) : Word := g + BitVec.ofNat 64 n

/-- AMAX to another chip is refused (R165). -/
def amaxRemote (s : State) (x : CtxId) (i : Item) : Bool :=
  i.kind == .amax && (atomicPieces i).any (fun p => match translate s x (gAdd i.s1 p.1) p.2 .write with | .ok (.remote _ _) => true | _ => false)

/-- AADD and AMAX at the head (R165). -/
def headAtomic (s : State) (k : Core) (x : CtxId) (i : Item) : Except Bad Nat :=
  if i.n3 ≠ 0 && i.s3 = 0 then .ok 0 else
  let steps := ceilDiv (atomicLen i) 64
  if atomicMax i.sub < atomicCount i then .error (bad cShape)
  else if i.s1.toNat % atomicSize i.sub ≠ 0 then .error (bad cAlignment)
  else
    match (if i.n3 = 0 then none else areaBad k i.s2.toNat (atomicLen i) (atomicSize i.sub)) with
    | some c => .error (bad c)
    | none =>
      if amaxRemote s x i then .error badT
      else orElse (accessBad s x .write ((atomicPieces i).map (fun p => (gAdd i.s1 p.1, p.2)))) steps

/-- The source elements. -/
def atomicData (k : Core) (i : Item) : List Byte :=
  if i.n3 = 0 then leBytes (atomicSize i.sub) i.s2.toNat else k.padBytes i.s2.toNat (atomicLen i)

/-- The element that fills a remote add to whole chunks: its sum leaves every neighbour as it is but a -0, which R59 makes +0, and a
NaN, which becomes the canonical one (DESIGN CHOICE, log 17). -/
def padElement : Nat → List Byte
  | 0 => leBytes 4 0
  | 1 => leBytes 8 0
  | 2 => leBytes 4 0x80000000
  | 3 => leBytes 2 0x8000
  | _ => []

/-- `len` bytes of padding elements. -/
def padding (type len : Nat) : List Byte := (List.replicate (len / atomicSize type) (padElement type)).flatten

/-- One request of an instruction to another chip; it counts as outstanding. -/
def State.askFor (s : State) (c : CoreId) (i : Item) (x : CtxId) (what place : Nat) (h : BitVec 12) (type : BitVec 4) (len off : Nat)
    (sub : BitVec 4) (data : List Byte) : State :=
  (s.modCore c (fun k => k.modItem i.serial (fun j => { j with out := j.out + 1 }))).ask c i.serial x what place h type len off sub data

/-- A request of an instruction of core `c`, with the low bits of the core's epoch (R140). -/
def State.newReq (s : State) (c : CoreId) (serial : Nat) (x : CtxId) (off : Nat) (wrec : Option Nat) (len : Nat) (op : ReqOp) : Req :=
  ⟨c, serial, x, off, wrec, len, op, (s.core c).epoch.setWidth 4, false⟩

/-- One request to the memory network of this module. -/
def State.request (s : State) (r : Req) : State :=
  let s : State := { s with net := s.net ++ [r] }
  s.modCore r.core (fun k => k.modItem r.serial (fun j => { j with out := j.out + 1 }))

/-- One adder piece sent: to its controller, or to another chip as an atomic add or a Praline reduce (R166, R167). -/
def State.sendPiece (s : State) (c : CoreId) (i : Item) (x : CtxId) (g : Word) (data : List Byte) : State :=
  match translate s x g data.length .write with
  | .ok (.main off) => s.request (s.newReq c i.serial x off none data.length (.piece i.sub (i.kind == .amax) data))
  | .ok (.remote h off) =>
    if i.sub = 4 then s.askFor c i x askItem 0 h tyReduce (data.length / 16) off 0 data
    else
      let lo := off % 16
      let hi := (16 - (off + data.length) % 16) % 16
      let all := padding i.sub lo ++ data ++ padding i.sub hi
      s.askFor c i x askItem 0 h tyAtomic (all.length / 16) (off - lo) (BitVec.ofNat 4 i.sub) all
  | _ => s

/-- A destination of this module lies in a poisoned frame. -/
def atomicPoison (s : State) (x : CtxId) (i : Item) : Bool :=
  (atomicPieces i).any (fun p => match translate s x (gAdd i.s1 p.1) p.2 .write with | .ok (.main off) => s.poisoned off p.2 | _ => false)

def State.runAtomic (s : State) (c : CoreId) (x : CtxId) (i : Item) : State :=
  match headAtomic s (s.core c) x i with
  | .error b => s.itemBadWalk c i b
  | .ok _ =>
    if atomicCount i = 0 then s.performed c i
    else if atomicPoison s x i then s.itemBad c i cPoison
    else
      let d := atomicData (s.core c) i
      ((atomicPieces i).foldl (fun s p => s.sendPiece c i x (gAdd i.s1 p.1) ((d.drop p.1).take p.2)) s).performed c i

/-- An effect that belongs to the context whose thread runs on the core. -/
def State.runFor (s : State) (c : CoreId) (e : Engine) (n : Nat) (bad : Option (Nat × Ecc)) (kind : Kind)
    (f : State → CtxId → Item → State) : State :=
  s.runItem c e n bad kind (fun s i => match (s.core c).runCtx with | some x => f s x i | none => s)

def execAadd (c : CoreId) (v : Ev F0) (s : State) : Host.Outcome State Fault Refusal :=
  .next (match v with
    | .issue w => s.issueOp c .aadd (.f0 w)
    | .run e n b => s.runFor c e n b .aadd (fun s x i => s.runAtomic c x i))

def execAmax (c : CoreId) (v : Ev F0) (s : State) : Host.Outcome State Fault Refusal :=
  .next (match v with
    | .issue w => s.issueOp c .amax (.f0 w)
    | .run e n b => s.runFor c e n b .amax (fun s x i => s.runAtomic c x i))

/-! Circular regions (R110, R113, R168, R169). -/

def circRegion (i : Item) : BitVec 4 := BitVec.ofNat 4 i.ext

/-- The configuration an image gives, with its pointers at zero (Table 5.5). -/
def circOfImage (w : Word) : Circ :=
  { Circ.reset with baseW := BitVec.ofNat 17 (fieldOf w 16 0), slotW := BitVec.ofNat 15 (fieldOf w 31 17),
                    slots := BitVec.ofNat 9 (fieldOf w 40 32), en := w.getLsbD 41 }

/-- The range checks of R110. -/
def circFits (r : Circ) : Bool :=
  decide (1 ≤ r.slotW.toNat) && decide (r.slotW.toNat ≤ 16384) && decide (2 ≤ r.slots.toNat) && decide (r.slots.toNat ≤ 256)
  && decide (r.baseW.toNat + r.slotW.toNat * r.slots.toNat ≤ 2 ^ 17)

def headCircSet (i : Item) : Except Bad Nat :=
  if fieldOf i.s1 63 42 ≠ 0 then .error (bad cReserved)
  else if i.s1.getLsbD 41 && !circFits (circOfImage i.s1) then .error (bad cCircular)
  else .ok 1

/-- The slots of a region that instructions on other engines have started to read. -/
def slotsInUse (k : Core) (i : Item) : List (BitVec 16) :=
  (((allEngines.map k.queue).flatten.filter (fun j => j.serial != i.serial && phaseStarted j.phase && !j.twin && j.phase != .finished)).map
    (fun j => (j.reads.filter (fun r => r.1 == circRegion i)).map (·.2))).flatten

/-- What the region of a CIRC.SET image shares with the other regions that a thread has enabled (R110). -/
def newShared (t : Thread) (i : Item) : List (Nat × Nat) :=
  let q := circOfImage i.s1
  if q.en then t.sharedSpans (circRegion i) (64 * q.baseW.toNat) (64 * (q.slotW.toNat * q.slots.toNat)) else []

/-- CIRC.SET takes effect; what an instruction on another engine still reads in the region, and what the new region shares with
others, is undefined: free bytes (R110, R168). -/
def State.setRegion (s : State) (c : CoreId) (i : Item) : State :=
  let r := (s.core c).th.circ (circRegion i)
  let ws := (slotsInUse (s.core c) i).map (fun n => (r.slotAt n, 64 * r.slotW.toNat)) ++ newShared (s.core c).th i
  (ws.foldl (fun s p => s.blurPad c p.1 p.2) s).modCirc c (circRegion i) (fun _ => circOfImage i.s1)

def execCircSet (c : CoreId) (v : Ev F1) (s : State) : Host.Outcome State Fault Refusal :=
  .next (match v with
    | .issue w => s.issueOp c .circSet (.f1 w)
    | .run e n b => s.runItem c e n b .circSet (fun s i =>
        if ((s.core c).th.circ (circRegion i)).filling then s
        else (s.setRegion c i).performed c i))

/-- The region after CIRC.ADV; none: disabled, BROKEN, or HEAD would pass TAIL. -/
def circAdvanced (k : Core) (i : Item) : Option Circ :=
  let r := k.th.circ (circRegion i)
  if !r.en || r.broken then none else r.freeSlots (bitField i.ext 12 4)

def execCircAdv (c : CoreId) (v : Ev F1) (s : State) : Host.Outcome State Fault Refusal :=
  .next (match v with
    | .issue w => s.issueOp c .circAdv (.f1 w)
    | .run e n b => s.runItem c e n b .circAdv (fun s i =>
        match circAdvanced (s.core c) i with
        | none => s.itemBad c i cCircular
        | some r => (s.modCirc c (circRegion i) (fun _ => r)).performed c i))

/-! CRUMB.GET (R162, R163). -/

def crumbCount (i : Item) : Nat := i.s2.toNat

/-- The address of crumb `n`. -/
def crumbAddr (k : Core) (i : Item) (n : Nat) : Word := BitVec.ofNat 64 (k.padLoad (i.s1.toNat + 8 * n) 8) + i.s3

def crumbAddrs (k : Core) (i : Item) : List Word := tabulate (crumbCount i) (crumbAddr k i)

def headCrumbGet (s : State) (k : Core) (x : CtxId) (i : Item) : Except Bad Nat :=
  let n := crumbCount i
  if n = 0 || 256 < n then .error (bad cShape) else
  match firstBad [areaBad k i.s1.toNat (8 * n) 8, areaOutBad i.s4.toNat (32 * n) 32] with
  | some c => .error (bad c)
  | none =>
    if (crumbAddrs k i).any (fun g => g.toNat % 32 ≠ 0) then .error (bad cAlignment)
    else orElse (accessBad s x .read ((crumbAddrs k i).map (fun g => (g, 32)))) (ceilDiv n 2)

/-- One crumb asked for. -/
def State.sendCrumb (s : State) (c : CoreId) (i : Item) (x : CtxId) (n : Nat) (g : Word) : State :=
  match translate s x g 32 .read with
  | .ok (.main off) => s.request (s.newReq c i.serial x off none 32 (.crumb n))
  | .ok (.weight w off) => (s.demand w).request (s.newReq c i.serial x off (some w) 32 (.crumb n))
  | .ok (.remote h off) => s.askFor c i x askCrumb n h tyCrumb 2 off 0 []
  | .error _ => s

def State.runCrumbGet (s : State) (c : CoreId) (x : CtxId) (i : Item) : State :=
  match headCrumbGet s (s.core c) x i with
  | .error b => s.itemBadWalk c i b
  | .ok _ =>
    let gs := crumbAddrs (s.core c) i
    ((gs.mapIdx (fun n g => (n, g))).foldl (fun s p => s.sendCrumb c i x p.1 p.2) s).performed c i

def execCrumbGet (c : CoreId) (v : Ev F3) (s : State) : Host.Outcome State Fault Refusal :=
  .next (match v with
    | .issue w => s.issueOp c .crumbGet (.f3 w)
    | .run e n b => s.runFor c e n b .crumbGet (fun s x i => s.runCrumbGet c x i))

end Sys2Proof.Machine
end

