-- ==== Sys2Proof/Machine/Bulk.lean ====
section
/-! DEFINITION. The bulk DMA: BULK.GET, BULK.PUT, SEND, RSUM, BCAST (spec/07_akaux_control_memory.md R159 to R161,
spec/08_akaux_tensor.md R216 to R221). -/
namespace Sys2Proof.Machine

/-! Moves (R159, R160). -/

/-- One row's words: scratch offset, global address, bytes. -/
structure Move where
  pad : Nat
  glob : Word
  len : Nat

/-- The global row stride. -/
def bulkStride (i : Item) (a : Area) : Nat := if i.n2 = 0 then roundUp a.rowBytes 64 else i.s2.toNat

/-- The rows and, for an MX format, the scale rows of a transfer (R159). -/
def movesOf (i : Item) (a : Area) : List Move :=
  let g := bulkStride i a
  tabulate a.rows (fun r => ⟨a.rowAt r, gAdd i.s1 (r * g), roundUp a.rowBytes 64⟩)
  ++ (if fmtIsMx a.fmt then
        tabulate a.rows (fun r => ⟨a.scaleAt r, gAdd i.s1 (a.rows * g + r * scaleStride a.cols), scaleStride a.cols⟩)
      else [])

/-- A row cut into granules of up to 2 KiB of the global address (R160). -/
def granulesOf (m : Move) : List Move :=
  (cutAt 2048 (m.len / 2048 + 2) m.glob.toNat 0 m.len).map (fun p => ⟨m.pad + p.1, gAdd m.glob p.1, p.2⟩)

def allGranules (i : Item) (a : Area) : List Move := ((movesOf i a).map granulesOf).flatten

/-- The words a transfer moves: its array steps (R160). -/
def moveSteps (f : Fmt) (t : Tile) : Nat :=
  t.rows * ceilDiv (rowBytes f t.cols) 64 + (if fmtIsMx f then t.rows * (scaleStride t.cols / 64) else 0)

/-- The tile of a bulk transfer: the output of BULK.GET, the input of BULK.PUT. -/
def bulkTile (i : Item) : BitVec 256 := if i.kind = .bulkGet then i.tdo else i.tdl

def bulkWant (i : Item) : Want := if i.kind = .bulkGet then .read else .write

/-- BULK.GET and BULK.PUT at the head: alignment, descriptor and translation (R159, R161). -/
def headBulk (s : State) (k : Core) (x : CtxId) (i : Item) : Except Bad Nat :=
  match checkTile k.th (bulkTile i) (i.kind == .bulkGet) with
  | .error c => .error (bad c)
  | .ok (t, f) =>
    let a := areaOf k.th t f 0
    if i.s1.toNat % 64 ≠ 0 || (i.n2 != 0 && i.s2.toNat % 64 ≠ 0) then .error (bad cAlignment)
    else orElse (accessBad s x (bulkWant i) ((allGranules i a).map (fun m => (m.glob, m.len)))) (moveSteps f t)

/-- One granule of BULK.GET asked for. -/
def State.sendGet (s : State) (c : CoreId) (i : Item) (x : CtxId) (m : Move) : State :=
  match translate s x m.glob m.len .read with
  | .ok (.main off) => s.request (s.newReq c i.serial x off none m.len (.toPad m.pad))
  | .ok (.weight w off) => (s.demand w).request (s.newReq c i.serial x off (some w) m.len (.toPad m.pad))
  | .ok (.remote h off) => s.askFor c i x askGranule m.pad h tyRead (m.len / 16) off 0 []
  | .error _ => s

/-- One granule of BULK.PUT sent with its data. -/
def State.sendPut (s : State) (c : CoreId) (i : Item) (x : CtxId) (m : Move) : State :=
  let data := (s.core c).padBytes m.pad m.len
  match translate s x m.glob m.len .write with
  | .ok (.main off) => s.request (s.newReq c i.serial x off none m.len (.write data))
  | .ok (.remote h off) => s.askFor c i x askItem 0 h tyWrite (m.len / 16) off 0 data
  | _ => s

def State.runBulkGet (s : State) (c : CoreId) (x : CtxId) (i : Item) : State :=
  match headBulk s (s.core c) x i with
  | .error b => s.itemBadWalk c i b
  | .ok _ => ((allGranules i (i.area (s.core c).th i.tdo true)).foldl (fun s m => s.sendGet c i x m) s).performed c i

def execBulkGet (c : CoreId) (v : Ev F3) (s : State) : Host.Outcome State Fault Refusal :=
  .next (match v with
    | .issue w => s.issueOp c .bulkGet (.f3 w)
    | .run e n b => s.runFor c e n b .bulkGet (fun s x i => s.runBulkGet c x i))

/-- A poisoned word among those that move. -/
def movePoison (k : Core) (ms : List Move) : Bool := ms.any (fun m => k.padPoison m.pad m.len)

/-- What a BULK.PUT that faults with POISON leaves at a granule's place in this module: free bytes (R161). -/
def State.blurPut (s : State) (x : CtxId) (m : Move) : State :=
  match translate s x m.glob m.len .write with
  | .ok (.main off) => s.blurMem off m.len
  | _ => s

def State.runBulkPut (s : State) (c : CoreId) (x : CtxId) (i : Item) : State :=
  match headBulk s (s.core c) x i with
  | .error b => s.itemBadWalk c i b
  | .ok _ =>
    let k := s.core c
    let a := i.area k.th i.tdl false
    let sent (s : State) := (allGranules i a).foldl (fun s m => s.sendPut c i x m) s
    if movePoison k (movesOf i a) then ((allGranules i a).foldl (fun s m => s.blurPut x m) s).itemBad c i cPoison else
    match k.popAll (popsOf [i.tdl]) with
    | none => s.itemBad c i cCircular
    | some k' => ((sent s).modTh c (fun _ => k'.th)).performed c i

def execBulkPut (c : CoreId) (v : Ev F3) (s : State) : Host.Outcome State Fault Refusal :=
  .next (match v with
    | .issue w => s.issueOp c .bulkPut (.f3 w)
    | .run e n b => s.runFor c e n b .bulkPut (fun s x i => s.runBulkPut c x i))

/-! SEND and BCAST (R216 to R218, R220). -/

/-- A destination word (Table 8.8). -/
structure Dest where
  chip : BitVec 12
  core : CoreId
  region : BitVec 4
  ctx : CtxId

def destOf (w : Word) : Dest :=
  ⟨BitVec.ofNat 12 (fieldOf w 11 0), BitVec.ofNat 6 (fieldOf w 17 12), BitVec.ofNat 4 (fieldOf w 21 18), BitVec.ofNat 6 (fieldOf w 27 22)⟩

/-- A destination in a peer grant that the thread of core `k` took at its slice start, with its upper bits zero (R216, R377). -/
def destOk (s : State) (k : Core) (x : CtxId) (w : Word) : Bool :=
  fieldOf w 63 28 == 0 && grantIn s ((k.running.map (·.peers)).getD []) x (destOf w).chip (destOf w).ctx

/-- The footprint of TDL in words. -/
def sendWords (t : Tile) (f : Fmt) : Nat := footprintW f t.rows t.strideW t.cols

/-- The destination words of BCAST. -/
def bcastList (k : Core) (i : Item) : List Word := tabulate i.s2.toNat (fun n => BitVec.ofNat 64 (k.padLoad (i.s1.toNat + 8 * n) 8))

def headSend (s : State) (k : Core) (x : CtxId) (i : Item) : Except Bad Nat :=
  match checkTile k.th i.tdl false with
  | .error c => .error (bad c)
  | .ok (t, f) => if destOk s k x i.s1 then .ok (sendWords t f) else .error badT

def headBcast (s : State) (k : Core) (x : CtxId) (i : Item) : Except Bad Nat :=
  match checkTile k.th i.tdl false with
  | .error c => .error (bad c)
  | .ok (t, f) =>
    let n := i.s2.toNat
    if n = 0 || 64 < n then .error (bad cShape) else
    match areaBad k i.s1.toNat (8 * n) 8 with
    | some c => .error (bad c)
    | none => if (bcastList k i).all (destOk s k x) then .ok (sendWords t f * n) else .error badT

/-- The fragments of a footprint: 2 KiB each, numbered from 0; at most 512, the most a slot can hold (R352). -/
def fragments (data : List Byte) : List (Nat × List Byte) :=
  let n := min 512 (ceilDiv data.length fragSize)
  tabulate n (fun j => (j, (data.drop (fragSize * j)).take fragSize))

/-- The fragments of one transfer as packets with one TAG. -/
def sendPackets (s : State) (x : CtxId) (d : Dest) (data : List Byte) : List Packet :=
  let fs := fragments data
  fs.map (fun p =>
    let a := sendAddrBits ⟨d.core, d.region, d.ctx, decide (p.1 + 1 = fs.length), p.1, data.length / 64⟩
    ⟨tySend, 0, false, d.chip, s.chipId, x, p.2.length / 16, s.nextTag, BitVec.ofNat 48 a, 0, 0, p.2⟩)

/-- One copy delivered: to a core of this module, or to another chip, whose answer is awaited (R217, R352). -/
def State.deliver (s : State) (c : CoreId) (i : Item) (x : CtxId) (d : Dest) (data : List Byte) : State :=
  let ps := sendPackets s x d data
  let s := s.modCore c (fun k => k.modItem i.serial (fun j => { j with out := j.out + 1 }))
  if d.chip = s.chipId && s.chipValid then
    ps.foldl (fun s p => s.sendArrival ⟨p, none, some (c, i.serial)⟩) s
  else
    let s : State := { s with asked := s.asked ++ [(⟨s.nextTag, c, i.serial, x, askItem, 0, data.length, false⟩ : Asked)], nextTag := s.nextTag + 1 }
    ps.foldl (fun s p => s.route p none) s

/-- A core of this module that a destination names lies on the sender's die, or the dies reach each other (R406). -/
def destReached (s : State) (c : CoreId) (w : Word) : Bool :=
  let d := destOf w
  d.chip != s.chipId || !s.chipValid || joined s (coreDie c) (coreDie d.core)

/-- SEND and BCAST: the footprint goes to each destination in turn. -/
def State.runSend (s : State) (c : CoreId) (x : CtxId) (i : Item) (ds : List Word) : State :=
  let k := s.core c
  let a := i.area k.th i.tdl false
  if ds.any (fun d => !destReached s c d) then s else
  if !ds.all (destOk s k x) then s.itemBad c i cTranslation
  else if k.padPoison a.base a.bytes then s.itemBad c i cPoison
  else
    let data := k.padBytes a.base a.bytes
    match k.popAll (popsOf [i.tdl]) with
    | none => s.itemBad c i cCircular
    | some k' => (ds.foldl (fun s w => s.deliver c i x (destOf w) data) ((s.modTh c (fun _ => k'.th)).performed c i))

def execSend (c : CoreId) (v : Ev F3) (s : State) : Host.Outcome State Fault Refusal :=
  .next (match v with
    | .issue w => s.issueOp c .send (.f3 w)
    | .run e n b => s.runFor c e n b .send (fun s x i => s.runSend c x i [i.s1]))

def execBcast (c : CoreId) (v : Ev F3) (s : State) : Host.Outcome State Fault Refusal :=
  .next (match v with
    | .issue w => s.issueOp c .bcast (.f3 w)
    | .run e n b => s.runFor c e n b .bcast (fun s x i =>
        match headBcast s (s.core c) x i with
        | .error b => s.itemBadWalk c i b
        | .ok _ => s.runSend c x i (bcastList (s.core c) i)))

/-! RSUM (R219). -/

/-- The pieces of the packed records: offsets from the base and lengths. -/
def rsumPieces (i : Item) (len : Nat) : List (Nat × Nat) := cutAt 32 (len / 32 + 2) i.s1.toNat 0 len

def headRsum (s : State) (k : Core) (x : CtxId) (i : Item) : Except Bad Nat :=
  match checkPraline k.th i.tdl false with
  | .error c => .error (bad c)
  | .ok (t, _) =>
    let n := t.rows * t.cols
    if i.s1.toNat % 16 ≠ 0 || (i.n2 != 0 && i.s2.toNat % 8 ≠ 0) then .error (bad cAlignment)
    else orElse (accessBad s x .write ((rsumPieces i (16 * n)).map (fun p => (gAdd i.s1 p.1, p.2)) ++ (if i.n2 = 0 then [] else [(i.s2, 8)])))
      (ceilDiv n 4)

/-- The adds of an RSUM: `i` with the type and kind an adder sees. -/
def asAtomic (i : Item) (type : Nat) : Item := { i with kind := .aadd, sub := type }

/-- The counter's +1, sent once every record add is applied. -/
def State.sendCounter (s : State) (c : CoreId) (i : Item) (x : CtxId) : State :=
  (s.sendPiece c (asAtomic i 1) x i.s2 (leBytes 8 1)).performed c i

/-- The record adds go out; the counter waits for them. -/
def State.runRsum (s : State) (c : CoreId) (x : CtxId) (i : Item) : State :=
  match headRsum s (s.core c) x i with
  | .error b => s.itemBadWalk c i b
  | .ok _ =>
    let k := s.core c
    let a := i.area k.th i.tdl false
    if k.tilePoison a then s.itemBad c i cPoison else
    let data := (tabulate a.rows (fun r => k.padBytes (a.rowAt r) a.rowBytes)).flatten
    match k.popAll (popsOf [i.tdl]) with
    | none => s.itemBad c i cCircular
    | some k' =>
      let s := (rsumPieces i data.length).foldl
        (fun s p => s.sendPiece c (asAtomic i 4) x (gAdd i.s1 p.1) ((data.drop p.1).take p.2)) (s.modTh c (fun _ => k'.th))
      if i.n2 = 0 then s.performed c i
      else s.modCore c (fun k => k.modItem i.serial (fun j => { j with phase := .held .link, stage := 1 }))

/-- The second part of an RSUM with a counter. -/
def State.runCounter (s : State) (c : CoreId) (e : Engine) (n : Nat) : State :=
  match ((s.core c).queue e)[n]?, (s.core c).runCtx with
  | some i, some x =>
    if s.up && i.kind = .rsum && i.phase = .held .link && i.out = 0 then s.sendCounter c i x else s
  | _, _ => s

def execRsum (c : CoreId) (v : Ev F3) (s : State) : Host.Outcome State Fault Refusal :=
  .next (match v with
    | .issue w => s.issueOp c .rsum (.f3 w)
    | .run e n b => (s.runFor c e n b .rsum (fun s x i => s.runRsum c x i)).runCounter c e n)

end Sys2Proof.Machine
end

