-- ==== Sys2Proof/Machine/Kv.lean ====
section
/-! DEFINITION. The allocator: the commit in its fixed order and the master's KV commands (spec/12_kv_pages_prefix.md R283, R289 to
R295, R304, spec/16_master_interface.md R416 to R419). -/
namespace Sys2Proof.Machine

/-- A commit under way: the state, the slots whose non-empty blocks it changed, and the results so far. -/
structure KvRun where
  st : State
  hot : List SlotId
  results : List (KvReq × Nat × Nat)

def KvRun.result (r : KvRun) (q : KvReq) (outcome frames : Nat) : KvRun := { r with results := r.results ++ [(q, outcome, frames)] }

/-- The slot a request names still belongs to the context that asked (R206, R208). -/
def stillOwned (s : State) (q : KvReq) : Bool := (s.slot q.slot).state != .unassigned && (s.slot q.slot).ctx == q.ctx

/-- Releases the blocks of a slot at or beyond `b0`; how many there were. -/
def KvRun.drop (r : KvRun) (n : SlotId) (b0 : Nat) : KvRun × Nat :=
  let bs := (heldBlocks r.st n).filter (fun b => decide (b0 ≤ b))
  ({ r with st := bs.foldl (fun s b => s.releaseBlock n b) r.st, hot := if bs.isEmpty then r.hot else n :: r.hot }, bs.length)

/-- Step 1: a release or a leave (R208, R290, R307). -/
def KvRun.release (r : KvRun) (q : KvReq) : KvRun :=
  if !stillOwned r.st q then r.result q 2 0 else
  let d := r.drop q.slot (blocksOf q.length)
  let r := d.1
  let t := r.st.slot q.slot
  let len := min t.length q.length
  let t' : Slot :=
    if q.length = 0 then { t with state := .idle, length := 0, evictable := false }
    else match t.state with
      | .idle => t
      | .prefixLost => if mapsLost r.st q.slot then { t with length := len }
                       else { t with length := if t.lostIdle then 0 else len, state := if t.lostIdle then .idle else .live }
      | _ => { t with length := len }
  { r with st := r.st.setSlot q.slot t' }.result q 0 d.2

/-- Evictable slots of a pool, in slot order (R291). -/
def evictables (s : State) (p : BitVec 4) : List SlotId :=
  s.slots.filterMap (fun e =>
    let n : SlotId := BitVec.ofNat 14 e.1
    if e.2.state == .paused && e.2.evictable && poolOfSlot s n == p then some n else none)

/-- One slot is evicted whole (R291). -/
def KvRun.evict (r : KvRun) (n : SlotId) : KvRun :=
  let r := (r.drop n 0).1
  { r with hot := n :: r.hot,
           st := (r.st.modSlot n (fun t => { t with state := .idle, length := 0, evictable := false })).error 0 0x0101 n.toNat [] }

/-- The free list is brought to `need` sets: CACHED sets first, then evictable slots (R291); at most `fuel` reclaims. -/
def KvRun.obtain : (fuel : Nat) → KvRun → BitVec 4 → Nat → Bool → KvRun
  | 0, r, _, _, _ => r
  | fuel + 1, r, p, need, lc =>
    if need ≤ freeCount r.st p then r else
    match oldest r.st (r.st.pool p) (setsIn r.st p .cached) with
    | some k => KvRun.obtain fuel { r with st := (r.st.clearWay p k).putSetRec (r.st.pool p) k setFree } p need lc
    | none =>
      if !lc then r else
      match evictables r.st p with
      | [] => r
      | n :: _ => KvRun.obtain fuel (r.evict n) p need lc

/-- The reclaims that a request for `need` sets makes, and whether it can then be met (R291). -/
def KvRun.reclaim (r : KvRun) (p : BitVec 4) (need : Nat) (lc : Bool) : KvRun × Bool :=
  let t := r.obtain (need + 16384) p need lc
  (t, decide (need ≤ freeCount t.st p))

/-- Which free set a grant takes is open: a free value picks (log 5). -/
def State.takeFree (s : State) (p : BitVec 4) : Option (Nat × State) :=
  match setsIn s p .free with
  | [] => none
  | k :: ks =>
    let f := s.free
    some ((k :: ks).getD (f.1.toNat % (k :: ks).length) k, f.2)

/-- The header fields of DEF_HDR as entry bits (R280, R301). -/
def headerBits (h : Nat) : Nat := bitField h 17 16 * 2 ^ 22 + bitField h 19 18 * 2 ^ 24 + bitField h 7 0 * 2 ^ 32 + bitField h 15 8 * 2 ^ 40

def entryVBit : Nat := 2 ^ 26
def entryRoBit : Nat := 2 ^ 27

/-- Block `b` of a slot gets set `k` privately, with the stream entries given (R280, R292). -/
def State.ownBlock (s : State) (n : SlotId) (b k : Nat) (hdr : Nat → Nat) : State :=
  let p := s.pool (poolOfSlot s n)
  let s := s.putBlock n b (BitVec.ofNat 64 (k + entryVBit)) (fun i => BitVec.ofNat 64 (k * p.ns + i + entryVBit + hdr i))
  s.putSetRec p k { setFree with state := .priv, slot := n, ctx := (s.slot n).ctx }

def State.grantBlock (s : State) (n : SlotId) (b : Nat) : State :=
  let p := poolOfSlot s n
  match s.takeFree p with
  | none => s
  | some (k, s) => s.ownBlock n b k (fun _ => headerBits (s.pool p).defHdr)

/-- The copy of R292: a frozen last block becomes private. -/
def State.copyBlock (s : State) (n : SlotId) (b : Nat) : State :=
  let p := poolOfSlot s n
  let q := s.pool p
  let old := entrySet (ownOf s n b)
  let hdrs := tabulate q.ns (fun i => let e := (entryOf s n i b).toNat; bitField e 25 22 * 2 ^ 22 + bitField e 47 32 * 2 ^ 32)
  match s.takeFree p with
  | none => s
  | some (k, s) =>
    let z := s.zero (setAddr q k) (setBytes q)
    let s := { z with mem := memCopy z.mem s.mem (setAddr q old) (setAddr q k) (setBytes q) }
    (s.ownBlock n b k (fun i => hdrs.getD i 0)).dropRef p old

/-- Blocks in [lo, hi) whose ownership entry is empty. -/
def emptyBlocks (s : State) (n : SlotId) (lo hi : Nat) : List Nat :=
  ((List.range hi).filter (fun b => decide (lo ≤ b))).filter (fun b => !entryV (ownOf s n b))

/-- A length out of range for a slot (R206). -/
def badLength (t : Slot) (l : Nat) : Bool := decide (2 ^ 20 < l) || decide (t.cap < blocksOf l)

/-- Steps 2 and 3: growth (R206, R290 to R293). -/
def KvRun.grow (r : KvRun) (lc : Bool) (q : KvReq) : KvRun :=
  let n := q.slot
  let t := r.st.slot n
  if !stillOwned r.st q || badLength t q.length || !(t.state == .live || t.state == .paused) then r.result q 2 0
  else if q.length ≤ t.length then
    { r with st := r.st.setSlot n { t with state := .live, evictable := false } }.result q 0 0
  else
    let p := poolOfSlot r.st n
    let new := emptyBlocks r.st n (blocksOf t.length) (blocksOf q.length)
    let b := t.length / 64
    let o := ownOf r.st n b
    let copy := t.length % 64 ≠ 0 && entryV o && entryRo o
    if copy && r.st.poisoned (setAddr (r.st.pool p) (entrySet o)) (setBytes (r.st.pool p)) then
      { r with st := r.st.setLost p (entrySet o) }.result q 2 0
    else
    let need := new.length + copy.toNat
    let got := r.reclaim p need lc
    let r := got.1
    if !got.2 then
      (if lc then { r with st := r.st.error 0 0x0102 n.toNat [] }
       else { r with st := r.st.setSlot n { r.st.slot n with state := .paused } }).result q 1 0
    else
      let r := if copy then { r with st := r.st.copyBlock n b, hot := n :: r.hot } else r
      let s := new.foldl (fun s b => s.grantBlock n b) r.st
      { r with st := s.modSlot n (fun t => { t with state := .live, length := q.length, evictable := false }) }.result q 0 need

/-- Step 4: a join (R206, R290, R293). -/
def KvRun.join (r : KvRun) (q : KvReq) : KvRun :=
  let n := q.slot
  let t := r.st.slot n
  if !stillOwned r.st q || badLength t q.length || t.state ≠ .idle then r.result q 2 0 else
  let p := poolOfSlot r.st n
  let new := emptyBlocks r.st n 0 (blocksOf q.length)
  let got := (r.drop n (blocksOf q.length)).1.reclaim p new.length false
  if !got.2 then (r.reclaim p new.length false).1.result q 1 0 else
  let r := got.1
  let s := new.foldl (fun s b => s.grantBlock n b) r.st
  { r with st := s.modSlot n (fun t => { t with state := .live, length := q.length }) }.result q 0 new.length

/-- Requests by slot number (R290: slot order). -/
def insertBySlot (q : KvReq) : List KvReq → List KvReq
  | [] => [q]
  | r :: t => if q.slot.toNat < r.slot.toNat then q :: r :: t else r :: insertBySlot q t

def bySlot : List KvReq → List KvReq
  | [] => []
  | q :: t => insertBySlot q (bySlot t)

/-- The commit of a closed transaction in the order of R290. -/
def commitRun (s : State) (ts : List KvReq) : KvRun :=
  let live := bySlot (ts.filter (fun q => q.outcome.isNone))
  let lc (q : KvReq) : Bool := isLc s (s.slot q.slot).ctx
  let r : KvRun := ⟨s, [], (ts.filter (fun q => q.outcome.isSome)).map (fun q => (q, 3, 0))⟩
  let r := (live.filter (·.release)).foldl KvRun.release r
  let g := live.filter (fun q => !q.release && !q.join)
  let j := live.filter (fun q => !q.release && q.join)
  let r := (g.filter lc).foldl (KvRun.grow · true) r
  let r := (g.filter (fun q => !lc q)).foldl (KvRun.grow · false) r
  ((j.filter lc) ++ (j.filter (fun q => !lc q))).foldl KvRun.join r

/-- The result word (Table 8.6). -/
def resultWord (outcome frames : Nat) (step : Word) : Nat := outcome + 4 + (frames % 2 ^ 16) * 2 ^ 16 + (step.toNat % 2 ^ 32) * 2 ^ 32

/-- One request's result word and its count in the Report Card (R295, R399). -/
def State.writeResult (s : State) (x : KvReq × Nat × Nat) : State :=
  let s := match x.1.result with
    | some (none, a) => s.store a 8 (resultWord x.2.1 x.2.2 s.kvStep)
    | some (some h, a) => s.askWord 0 0 x.1.ctx askResult h a 8 (resultWord x.2.1 x.2.2 s.kvStep)
    | none => s
  s.modCard x.1.ctx (fun r => match x.2.1 with
    | 0 => { r with kvGranted := r.kvGranted + 1 }
    | 1 => { r with kvDeferred := r.kvDeferred + 1 }
    | 2 => { r with kvRefused := r.kvRefused + 1 }
    | _ => r)

/-- The commit is applied whole once no slot whose non-empty blocks it changes has a reader mark (R294, R295). -/
def State.tryCommit (s : State) : State :=
  match s.kvCommitting with
  | none => s
  | some ts =>
    let r := commitRun s ts
    if r.hot.any (fun n => decide (0 < (s.slot n).marks)) || !allocatorIn s then s else
    let s := r.results.foldl State.writeResult r.st
    let s := ({ s with kvCommitting := none, kvBusy := false, intr := s.intr ||| 4 } : State).count 0x510 1
    s.teardownsCommitted

def kvCmdOffset : Nat := 0x0900000

/-- The word a KV command was written as. -/
def kvCmdWord (op : Nat) (n : SlotId) (x : CtxId) (on : Bool) : Word := BitVec.ofNat 64 (op + n.toNat * 16 + x.toNat * 2 ^ 18 + on.toNat * 2 ^ 24)

/-- A command that takes effect at once: status, DEV_INTR and the notice of a refusal (R416, R419). -/
def State.kvDone (s : State) (op : Nat) (n : SlotId) (v : Word) (ok : Bool) : State :=
  let s : State := { s with kvResult := !ok, kvOp := op, kvSlot := n, intr := s.intr ||| 4 }
  if ok then s else s.cmdRefused kvCmdOffset v

/-- A KV command: ignored with a notice while another is BUSY (R416) or a unit of the allocator is quarantined (log 86), nothing
while the module does not run. -/
def State.kvCmd (s : State) (v : Word) (body : State → State) : State :=
  if !s.up || !commandable s then s else if s.kvBusy || !allocatorIn s then s.cmdRefused kvCmdOffset v else body s

/-- The page table lies where R277 allows: in the carve-out, or in the main tier outside the carve-out and every pool. -/
def tableOk (s : State) (pt len : Nat) : Bool :=
  inCarveOut pt len
  || (decide (pt + len ≤ 2 ^ 39) && !touchesCarveOut pt len
      && allPools.all (fun n => let p := s.pool n; !p.en || !overlap pt len p.base p.bytes))

def assignOk (s : State) (n : SlotId) (x : CtxId) : Bool :=
  let p := s.pool (s.kvCtx x).pool
  let cap := fieldOf s.kvArg1 14 0
  x != 0 && (s.slot n).state == .unassigned && p.en && p.ready && decide (1 ≤ cap) && decide (cap ≤ 16384)
  && tableOk s s.kvArg0 (8 * cap * (p.ns + 1))

/-- ASSIGN: PT and CAP come from KV_ARG0 and KV_ARG1 (R283, R417). -/
def State.kvAssign (s : State) (n : SlotId) (x : CtxId) (v : Word) : State :=
  s.kvCmd v (fun s =>
    if assignOk s n x then
      let cap := fieldOf s.kvArg1 14 0
      let s := s.setSlot n { Slot.reset with state := .idle, ctx := x, cap := cap, pt := s.kvArg0 }
      (s.zero s.kvArg0 (8 * cap * ((s.pool (s.kvCtx x).pool).ns + 1))).kvDone 1 n v true
    else s.kvDone 1 n v false)

def execKvAssign (n : SlotId) (x : CtxId) (s : State) : Host.Outcome State Fault Refusal := .next (s.kvAssign n x (kvCmdWord 1 n x false))

/-- UNASSIGN: an IDLE slot that holds no block (R283). -/
def State.kvUnassign (s : State) (n : SlotId) (v : Word) : State :=
  s.kvCmd v (fun s =>
    if (s.slot n).state = .idle && (heldBlocks s n).isEmpty then (s.setSlot n Slot.reset).kvDone 2 n v true
    else s.kvDone 2 n v false)

def execKvUnassign (n : SlotId) (s : State) : Host.Outcome State Fault Refusal := .next (s.kvUnassign n (kvCmdWord 2 n 0 false))

/-- LEAVE (R283). -/
def State.kvLeave (s : State) (n : SlotId) (v : Word) : State :=
  s.kvCmd v (fun s =>
    if (s.slot n).state = .unassigned then s.kvDone 3 n v false
    else (s.kvAdd (leaveReq n (s.slot n).ctx)).kvDone 3 n v true)

def execKvLeave (n : SlotId) (s : State) : Host.Outcome State Fault Refusal := .next (s.kvLeave n (kvCmdWord 3 n 0 false))

/-- EVICTABLE: a PAUSED best-effort slot; ignored for others (R283). -/
def State.kvEvictable (s : State) (n : SlotId) (on : Bool) (v : Word) : State :=
  s.kvCmd v (fun s =>
    let s' := if (s.slot n).state = .paused && !isLc s (s.slot n).ctx then s.modSlot n (fun t => { t with evictable := on }) else s
    s'.kvDone 4 n v true)

def execKvEvictable (n : SlotId) (on : Bool) (s : State) : Host.Outcome State Fault Refusal := .next (s.kvEvictable n on (kvCmdWord 4 n 0 on))

/-- Poisoned carve-out structures the allocator reads for a commit: set records of the pools, page tables of the slots
with a request (R470 codes 3 and 4). -/
def State.readPoison (s : State) : State :=
  let s := allPools.foldl (fun s n =>
    let p := s.pool n
    if !p.en || !s.poisoned p.srec (16 * p.sets) then s else
    (List.range p.sets).foldl (fun s k =>
      if s.poisoned (setRecAt p k) 16 then (s.setRecPoisoned n k).error 0 0x0107 (setRecAt p k) [4] else s) s) s
  s.kvTrans.foldl (fun s q =>
    let t := s.slot q.slot
    let len := 8 * t.cap * ((s.pool (poolOfSlot s q.slot)).ns + 1)
    if s.poisoned t.pt len then (s.slotFails q.slot).error 0 0x0107 t.pt [3] else s) s

/-- COMMIT: the batch-step boundary (R289). -/
def State.kvCommit (s : State) (v : Word) : State :=
  s.kvCmd v (fun s =>
    let s := s.readPoison
    let s : State := { s with kvStep := s.kvStep + 1, kvBoundary := s.bell, kvOp := 5, kvSlot := 0, kvResult := false, kvBusy := true,
                              kvCommitting := some s.kvTrans, kvTrans := [] }
    s.rollCards.tryCommit)

def execKvCommit (s : State) : Host.Outcome State Fault Refusal := .next (s.kvCommit (kvCmdWord 5 0 0 false))

/-- COMMIT_RESUME (R294). -/
def execCommitResume (s : State) : Host.Outcome State Fault Refusal := .next (if s.up then s.tryCommit else s)

/-- FLUSH: every CACHED set of a pool no context names (R283, R304). -/
def State.kvFlush (s : State) (n : SlotId) (v : Word) : State :=
  s.kvCmd v (fun s =>
      if 16 ≤ n.toNat then s.reservedWrite kvCmdOffset v else
      let p : BitVec 4 := n.setWidth 4
      if allCtxs.any (fun x => (s.kvCtx x).pool == p && namesPool s x) then s.kvDone 7 n v false
      else
        let q := s.pool p
        let s := (setsIn s p .cached).foldl (fun s k => (s.clearWay p k).putSetRec q k setFree) s
        s.kvDone 7 n v true)

def execKvFlush (n : SlotId) (s : State) : Host.Outcome State Fault Refusal := .next (s.kvFlush n (kvCmdWord 7 n 0 false))

/-- DEF_HDR: a scale is nonzero only where its format is E4M3 (Table 12.1). -/
def defHdrOk (h : Nat) : Bool :=
  (bitField h 7 0 == 0 || bitField h 17 16 == 1) && (bitField h 15 8 == 0 || bitField h 19 18 == 1)

/-- The checks of EN from 0 to 1 (R275, R418, Table 12.1). -/
def poolOk (s : State) (n : BitVec 4) : Bool :=
  let p := s.pool n
  let others := allPools.filter (fun m => m != n && (s.pool m).en)
  decide (1 ≤ p.frame) && decide (p.frame ≤ 64) && decide (1 ≤ p.ns) && decide (p.ns ≤ 4096) && decide (1 ≤ p.sets)
  && decide ((others.map (fun m => (s.pool m).ns * (s.pool m).sets)).sum + p.ns * p.sets ≤ 2 ^ 22)
  && decide (p.base + p.bytes ≤ 2 ^ 39) && !touchesCarveOut p.base p.bytes
  && others.all (fun m => !overlap p.base p.bytes (s.pool m).base (s.pool m).bytes)
  && inCarveOut p.srec (16 * p.sets) && inCarveOut p.hdr (4 * p.ns * p.sets)
  && defHdrOk p.defHdr

def poolCtlOffset (n : BitVec 4) : Nat := 0x0901038 + 64 * n.toNat

/-- A write of KV_POOLp_CTL (R418). -/
def State.writePoolCtl (s : State) (n : BitVec 4) (v : Word) : State :=
  let p := s.pool n
  match p.en, v.getLsbD 0 with
  | false, true =>
    if poolOk s n then
      let s := (List.range p.sets).foldl (fun s k => s.putSetRec p k setFree) s
      let s : State := { s with retired := s.retired.filter (fun k => k / 2 ^ 22 != n.toNat),
                                failedSets := s.failedSets.filter (fun k => k / 2 ^ 22 != n.toNat) }
      let s := s.setPool n { p with en := true, ready := false }
      allPools.foldl (fun s i => s.clearImport i (poolCtlOffset n)) s
    else s.reservedWrite (poolCtlOffset n) v
  | true, false =>
    if allCtxs.any (fun x => (s.kvCtx x).pool == n && namesPool s x) || freeCount s n + retiredCount s n ≠ p.sets then
      s.reservedWrite (poolCtlOffset n) v
    else s.setPool n { p with en := false, ready := false }
  | _, _ => s

def execKvPoolEnable (n : BitVec 4) (v : Word) (s : State) : Host.Outcome State Fault Refusal :=
  .next (if s.up then s.writePoolCtl n v else s)

/-- POOL_READY: the free list is built (R418). -/
def execPoolReady (n : BitVec 4) (s : State) : Host.Outcome State Fault Refusal :=
  .next (if s.up && (s.pool n).en then s.modPool n (fun p => { p with ready := true }) else s)

end Sys2Proof.Machine
end

