-- ==== Sys2Proof/Machine/PrefixIndex.lean ====
section
/-! DEFINITION. KV requests of a thread, page-table edits, hall passes and the prefix index (spec/08_akaux_tensor.md R205 to R215,
spec/12_kv_pages_prefix.md R277 to R288, R294, R296 to R303, spec/19_errors_reliability.md R470). -/
namespace Sys2Proof.Machine

/-- The slot a scalar names, if the master has assigned it to the context (R205). -/
def slotFor (s : State) (x : CtxId) (w : Word) : Option SlotId :=
  let n : SlotId := w.setWidth 14
  if w.toNat < 16384 && (s.slot n).state != .unassigned && (s.slot n).ctx == x then some n else none

/-! KV.ALLOC and KV.FREE (R206, R208). -/

/-- The place of a result word: none where the request names none; another chip, or this module, and the offset. -/
def resultPlace (s : State) (x : CtxId) (i : Item) : Except Bad (Option (Option (BitVec 12) × Nat)) :=
  if i.kind = .kvFree && i.n3 = 0 then .ok none
  else if i.s3.toNat % 8 ≠ 0 then .error (bad cAlignment)
  else
    match translate s x i.s3 8 .write with
    | .error b => .error b
    | .ok (.main off) => .ok (some (none, off))
    | .ok (.remote h off) => .ok (some (some h, off))
    | .ok (.weight _ _) => .error badT

def headKvReq (s : State) (x : CtxId) (i : Item) : Except Bad Nat :=
  match slotFor s x i.s1 with
  | none => .error badT
  | some _ => (resultPlace s x i).map (fun _ => 1)

/-- The request joins the pending transaction (R206, R208, R289). -/
def State.runKvReq (s : State) (c : CoreId) (x : CtxId) (i : Item) : State :=
  match slotFor s x i.s1, resultPlace s x i with
  | none, _ => s.itemBad c i cTranslation
  | _, .error b => s.itemBadWalk c i b
  | some n, .ok r =>
    if !allocatorIn s then s else
    (s.kvAdd ⟨n, x, i.kind == .kvFree, i.kind == .kvAlloc && i.ext.testBit 0, false, i.s2.toNat, r, none⟩).performed c i

def execKvAlloc (c : CoreId) (v : Ev F3) (s : State) : Host.Outcome State Fault Refusal :=
  .next (match v with
    | .issue w => s.issueOp c .kvAlloc (.f3 w)
    | .run e n b => s.runFor c e n b .kvAlloc (fun s x i => s.runKvReq c x i))

def execKvFree (c : CoreId) (v : Ev F3) (s : State) : Host.Outcome State Fault Refusal :=
  .next (match v with
    | .issue w => s.issueOp c .kvFree (.f3 w)
    | .run e n b => s.runFor c e n b .kvFree (fun s x i => s.runKvReq c x i))

/-! What a commit under way touches (R294). -/

/-- The commit touches the slot: a request for it, or its eviction. -/
def commitTouches (s : State) (n : SlotId) : Bool :=
  match s.kvCommitting with
  | none => false
  | some ts => ts.any (fun q => q.slot == n) || (commitRun s ts).hot.contains n

/-- The commit changes a set record of the pool. -/
def commitChanges (s : State) (p : BitVec 4) : Bool :=
  match s.kvCommitting with
  | none => false
  | some ts =>
    let t := (commitRun s ts).st
    let q := s.pool p
    (List.range q.sets).any (fun k => s.setRec q k != t.setRec q k)

/-! Page-table edits (R210, R277 to R280). -/


/-- The stream and the block are in range (R277); the ownership row is not a stream (R279). -/
def editInRange (s : State) (e : Edit) : Bool :=
  decide (e.stream < (s.pool (poolOfSlot s e.slot)).ns) && decide (e.block < (s.slot e.slot).cap)

/-- The fields of a new entry meet Table 12.2 and R280. -/
def entryOk (s : State) (n : SlotId) (v : Word) : Bool :=
  let q := s.pool (poolOfSlot s n)
  v == 0 ||
  (entryV v && !entryRo v && fieldOf v 31 28 == 0 && fieldOf v 63 48 == 0
   && (fieldOf v 23 22 == 1 || fieldOf v 39 32 == 0) && (fieldOf v 25 24 == 1 || fieldOf v 47 40 == 0)
   && decide (entrySet v < q.ns * q.sets)
   && (let r := s.setRec q (entrySet v / q.ns); r.state == .priv && r.slot == n))

/-- The edit keeps every rule of R277, R279 and R280. -/
def editOk (s : State) (e : Edit) : Bool := editInRange s e && entryOk s e.slot e.entry && !entryRo (entryOf s e.slot e.stream e.block)

/-- An edit of a block at or beyond the committed length never waits for the pass (R286). -/
def editFree (s : State) (e : Edit) : Bool := decide (blocksOf (s.slot e.slot).length ≤ e.block)

def editOf (n : SlotId) (i : Item) : Edit := ⟨n, fieldOf i.s2 63 32, fieldOf i.s2 13 0, i.s3⟩

def editSetsCas (i : Item) : Bool := i.ext.testBit 0
def editXchg (i : Item) : Bool := i.ext.testBit 1

/-- PT.EDIT at the head: the slot, the selector, the block, the new entry, the word of XCHG (R205, R210, R493). -/
def headPtEdit (s : State) (x : CtxId) (i : Item) : Except Bad Nat :=
  match slotFor s x i.s1 with
  | none => .error badT
  | some n =>
    if fieldOf i.s2 31 14 ≠ 0 || !editInRange s (editOf n i) then .error badT
    else match (if editXchg i then areaOutBad i.s4.toNat 8 8 else none) with
      | some c => .error (bad c)
      | none => .ok 1

/-! The hall pass (R284, R285). -/

/-- Asked at the slot with no one before: an editor needs no holder, a reader no editor. -/
def passOpen (t : Slot) (editor : Bool) : Bool :=
  if editor then t.holders.isEmpty else !t.holders.any (·.editor)

/-- A request is served at once when no one waits and the pass is open. -/
def passNow (t : Slot) (editor : Bool) : Bool := t.waiting.isEmpty && passOpen t editor

def Slot.hold (t : Slot) (p : Passer) : Slot := { t with holders := t.holders ++ [p] }
def Slot.queue (t : Slot) (p : Passer) : Slot := { t with waiting := t.waiting ++ [p] }

/-- An instruction gives up the pass it holds. -/
def State.releasePass (s : State) (n : SlotId) (p : Passer) : State := s.modSlot n (fun t => { t with holders := t.holders.filter (· != p) })

def editorOf (c : CoreId) (i : Item) : Passer := ⟨some (c, i.serial), true⟩

/-- PT.EDIT performed: the old entry is exchanged, the new one written unless CAS finds another (R210). -/
def State.runPtEdit (s : State) (c : CoreId) (x : CtxId) (i : Item) : State :=
  match slotFor s x i.s1 with
  | none => s.itemBad c i cTranslation
  | some n =>
    let e := editOf n i
    if commitTouches s n then s
    else if !editOk s e then (s.itemBad c i cTranslation).releasePass n (editorOf c i)
    else
      let old := entryOf s n e.stream e.block
      let s := if editSetsCas i && old != i.cas then s else s.putEntry n e.stream e.block e.entry
      let s := if editXchg i then s.modCore c (fun k => k.padStore i.s4.toNat 8 old.toNat) else s
      (s.releasePass n (editorOf c i)).performed c i

def execPtEdit (c : CoreId) (v : Ev F3) (s : State) : Host.Outcome State Fault Refusal :=
  .next (match v with
    | .issue w => s.issueOp c .ptEdit (.f3 w)
    | .run e n b => s.runFor c e n b .ptEdit (fun s x i => s.runPtEdit c x i))

/-- The master's EDIT: block and stream from KV_ARG1, the entry from KV_ARG2 (R417). -/
def masterEdit (s : State) (n : SlotId) : Edit := ⟨n, fieldOf s.kvArg1 43 32, fieldOf s.kvArg1 13 0, s.kvArg2⟩

def editWord (n : SlotId) : Word := kvCmdWord 6 n 0 false

/-- The master's edit, written as `v`, is made or refused, and BUSY falls (R419). -/
def State.finishEdit (s : State) (e : Edit) (v : Word) : State :=
  let s : State := { s with kvBusy := false, kvEdit := none }
  if (s.slot e.slot).state != .unassigned && editOk s e then (s.putEntry e.slot e.stream e.block e.entry).kvDone 6 e.slot v true
  else s.kvDone 6 e.slot v false

/-- EDIT: at once where the rules let it, else it waits for the pass with BUSY set (R283, R285). -/
def State.kvEditCmd (s : State) (n : SlotId) (v : Word) : State :=
  s.kvCmd v (fun s =>
    let e := masterEdit s n
    if (s.slot n).state = .unassigned || !editOk s e then s.finishEdit e v
    else if editFree s e || passNow (s.slot n) true then s.finishEdit e v
    else { s.modSlot n (·.queue ⟨none, true⟩) with kvBusy := true, kvEdit := some (e, v), kvOp := 6, kvSlot := n, kvResult := false })

def execKvEdit (n : SlotId) (s : State) : Host.Outcome State Fault Refusal := .next (s.kvEditCmd n (editWord n))

/-! The prefix index (R211 to R215, R296 to R302). -/

/-- A prefix parameter block (Table 8.7). -/
structure Pfx where
  tokens : Nat
  ntok : Nat
  model : Nat
  parent : List Byte
  slot : Nat
  reserved : Nat
  blk0 : Nat

def pfxAt (k : Core) (a : Nat) : Pfx :=
  ⟨k.padLoad a 8, k.padLoad (a + 8) 4, k.padLoad (a + 12) 4, k.padBytes (a + 16) 16, k.padLoad (a + 32) 2, k.padLoad (a + 34) 2, k.padLoad (a + 36) 4⟩

def Pfx.blocks (p : Pfx) : Nat := p.ntok / 64

/-- PFX.LOOKUP and PFX.INSERT at the head (R205, R211, R277, R493). -/
def headPfx (s : State) (k : Core) (x : CtxId) (i : Item) : Except Bad Nat :=
  match areaBad k i.s1.toNat 64 64 with
  | some c => .error (bad c)
  | none =>
    let p := pfxAt k i.s1.toNat
    if p.reserved ≠ 0 then .error (bad cReserved)
    else if p.ntok = 0 || 2 ^ 20 < p.ntok then .error (bad cShape)
    else match areaBad k p.tokens (4 * p.ntok) 4 with
      | some c => .error (bad c)
      | none =>
        match slotFor s x (BitVec.ofNat 64 p.slot) with
        | none => .error badT
        | some n => if (s.slot n).cap < p.blk0 + p.blocks then .error badT else .ok 1

/-- R296: the hash of a block. -/
def blockHash (domain model : Nat) (parent tokens : List Byte) : List Byte :=
  shake256 (leBytes 2 domain ++ leBytes 4 model ++ parent ++ tokens) 16

/-- Address of the bucket of a hash (R297). -/
def bucketNo (j : KvCtx) (h : Nat) : Nat := h % 2 ^ j.idxB.toNat
def bucketAt (j : KvCtx) (h : Nat) : Nat := j.idx + 64 * bucketNo j h

def wayAt (s : State) (a w : Nat) : Nat := s.fetch (a + 16 * w) 16

/-- A way matches (R297). -/
def wayMatches (j : KvCtx) (h w : Nat) : Bool :=
  w.testBit 22 && bitField w 39 24 == j.domain.toNat && bitField w 127 40 == h >>> 40

def waySet (w : Nat) : Nat := bitField w 21 0

/-- The lowest way of a bucket that meets a condition. -/
def findWay (s : State) (a : Nat) (p : Nat → Bool) : Option Nat := [0, 1, 2, 3].find? (fun w => p (wayAt s a w))

/-- A poisoned bucket: the record, and every set that names it leaves the index (R470 code 6). -/
def State.bucketPoisoned (s : State) (p : BitVec 4) (j : KvCtx) (h : Nat) : State :=
  let q := s.pool p
  let s := s.error 0 0x0107 (bucketAt j h) [6]
  (List.range q.sets).foldl (fun s k =>
    let r := s.setRec q k
    if r.domain != j.domain || r.bucket ≠ bucketNo j h then s
    else match r.state with
      | .frozen => s.putSetRec q k { r with state := .detached }
      | .cached => s.putSetRec q k setFree
      | _ => s) s

/-- A prefix instruction under way. -/
structure PfxRun where
  st : State
  parent : List Byte
  count : Nat
  dup : Nat
  status : Nat
  stop : Bool

def PfxRun.halt (r : PfxRun) (status : Nat) : PfxRun := { r with status := status, stop := true }

/-- PERF_PFX_BLOCKS: LOOKED and HIT, each modulo 2^32 (Table 16.8). -/
def State.countPfx (s : State) (hit : Bool) : State :=
  let v := (mapGet s.perf 0x518).getD 0
  let lo := (v % 2 ^ 32 + (!hit).toNat) % 2 ^ 32
  let hi := (v / 2 ^ 32 + hit.toNat) % 2 ^ 32
  { s with perf := mapSet s.perf 0x518 (hi * 2 ^ 32 + lo) }

/-- Every entry of a block is empty. -/
def blockEmpty (s : State) (n : SlotId) (b : Nat) : Bool :=
  (List.range ((s.pool (poolOfSlot s n)).ns + 1)).all (fun i => entryOf s n i b == 0)

/-- An entry of a block lies in a poisoned unit (R470 code 3). -/
def blockPoison (s : State) (n : SlotId) (b : Nat) : Bool :=
  (List.range ((s.pool (poolOfSlot s n)).ns + 1)).any (fun i => s.poisoned (entryAddr s n i b) 8)

def hdrAt (q : Pool) (f : Nat) : Nat := q.hdr + 4 * f

/-- A frozen header table entry as entry bits: KSCALE, VSCALE, KFMT, VFMT (R301). -/
def hdrBits (h : Nat) : Nat := bitField h 7 0 * 2 ^ 32 + bitField h 15 8 * 2 ^ 40 + bitField h 17 16 * 2 ^ 22 + bitField h 19 18 * 2 ^ 24

/-- The header table entry of a stream entry. -/
def hdrOf (e : Nat) : Nat := bitField e 39 32 + bitField e 47 40 * 2 ^ 8 + bitField e 23 22 * 2 ^ 16 + bitField e 25 24 * 2 ^ 18

/-- A block of the slot maps frozen set `k` (R300 step 3). -/
def State.mapFrozen (s : State) (n : SlotId) (b k : Nat) : State :=
  let q := s.pool (poolOfSlot s n)
  s.putBlock n b (BitVec.ofNat 64 (k + entryVBit + entryRoBit))
    (fun i => BitVec.ofNat 64 (k * q.ns + i + entryVBit + entryRoBit + hdrBits (s.fetch (hdrAt q (k * q.ns + i)) 4)))

/-- The set is hit: a reference, LAST_STEP, the mapping, the counts. -/
def PfxRun.hit (r : PfxRun) (x : CtxId) (n : SlotId) (b k : Nat) (h : List Byte) : PfxRun :=
  let q := r.st.pool (poolOfSlot r.st n)
  let t := r.st.setRec q k
  let s := r.st.putSetRec q k { t with state := .frozen, refs := (if t.state = .cached then 0 else t.refs) + 1, lastStep := r.st.kvStep.toNat % 2 ^ 32 }
  let s := ((s.mapFrozen n b k).countPfx true).modCard x (fun c => { c with pfxHits := c.pfxHits + 1 })
  { r with st := s, parent := h, count := r.count + 1 }

/-- One block of a lookup (R300). -/
def PfxRun.look (x : CtxId) (n : SlotId) (k : Core) (p : Pfx) (r : PfxRun) (b : Nat) : PfxRun :=
  if r.stop then r else
  let s := r.st
  let blk := p.blk0 + b
  if blockPoison s n blk then { r with st := (s.slotFails n).error 0 0x0107 (s.slot n).pt [3] }.halt 2
  else if !blockEmpty s n blk then r.halt 2
  else
    let j := s.kvCtx x
    let h := blockHash j.domain.toNat p.model r.parent (k.padBytes (p.tokens + 256 * b) 256)
    let a := bucketAt j (ofLeBytes h)
    let s := s.countPfx false
    if s.poisoned a 64 then { r with st := s.bucketPoisoned j.pool j (ofLeBytes h) }.halt 0
    else match findWay s a (wayMatches j (ofLeBytes h)) with
      | none => { r with st := s }.halt 0
      | some w =>
        let f := waySet (wayAt s a w)
        let q := s.pool j.pool
        if s.poisoned (setRecAt q f) 16 then { r with st := (s.setRecPoisoned j.pool f).error 0 0x0107 (setRecAt q f) [4] }.halt 0
        else if s.poisoned (hdrAt q (f * q.ns)) (4 * q.ns) then { r with st := (s.error 0 0x0107 (hdrAt q (f * q.ns)) [5]).setLost j.pool f }.halt 0
        else if (s.setRec q f).state = .frozen || (s.setRec q f).state = .cached then { r with st := s }.hit x n blk f h
        else { r with st := s }.halt 0

/-- The outputs of the parameter block: COUNT, STATUS, DUP, LAST (Table 8.7); free where they overlap the token ids read (R180). -/
def State.pfxResult (c : CoreId) (a : Nat) (p : Pfx) (r : PfxRun) : State :=
  r.st.padOut c (overlap p.tokens (4 * p.ntok) (a + 40) 24)
    (a + 40, leBytes 4 r.count ++ leBytes 2 r.status ++ leBytes 2 r.dup ++ r.parent)

/-- The slot is touched, or its context's pool changes, in a commit under way (R294). -/
def pfxWaits (s : State) (x : CtxId) (n : Option SlotId) : Bool :=
  (match n with | some n => commitTouches s n | none => false) || commitChanges s (s.kvCtx x).pool

/-- The index engine of a core's die is in service (R141, log 86). -/
def indexIn (s : State) (c : CoreId) : Bool := s.unitIn (.prefixIndex (coreDie c))

def State.runLookup (s : State) (c : CoreId) (x : CtxId) (i : Item) : State :=
  match headPfx s (s.core c) x i with
  | .error b => s.itemBadWalk c i b
  | .ok _ =>
    let k := s.core c
    let p := pfxAt k i.s1.toNat
    let n : SlotId := BitVec.ofNat 14 p.slot
    if pfxWaits s x (some n) || !indexIn s c then s else
    let r := (List.range p.blocks).foldl (PfxRun.look x n k p) ⟨s, p.parent, 0, 0, 0, false⟩
    (State.pfxResult c i.s1.toNat p r).performed c i

def execPfxLookup (c : CoreId) (v : Ev F3) (s : State) : Host.Outcome State Fault Refusal :=
  .next (match v with
    | .issue w => s.issueOp c .pfxLookup (.f3 w)
    | .run e n b => s.runFor c e n b .pfxLookup (fun s x i => s.runLookup c x i))

/-- The block may be inserted (R301). -/
def insertable (s : State) (n : SlotId) (b : Nat) : Bool :=
  let q := s.pool (poolOfSlot s n)
  let o := ownOf s n b
  decide ((b + 1) * 64 ≤ (s.slot n).length) && entryV o && !entryRo o
  && (List.range q.ns).all (fun i => let e := entryOf s n i b; entryV e && entrySet e == entrySet o * q.ns + i)

/-- The CACHED way with the oldest set (R301). -/
def cachedWay (s : State) (q : Pool) (a : Nat) : Option Nat :=
  let ws := [0, 1, 2, 3].filter (fun w => (wayAt s a w).testBit 22 && (s.setRec q (waySet (wayAt s a w))).state == .cached)
  match oldest s q (ws.map (fun w => waySet (wayAt s a w))) with
  | none => none
  | some k => ws.find? (fun w => waySet (wayAt s a w) == k)

/-- The way for a new hash: the lowest empty one, else the oldest CACHED one. -/
def chooseWay (s : State) (q : Pool) (a : Nat) : Option Nat :=
  match findWay s a (fun w => !w.testBit 22) with
  | some w => some w
  | none => cachedWay s q a

/-- The block's set enters the index (R301). -/
def State.freeze (s : State) (x : CtxId) (n : SlotId) (b way : Nat) (h : Nat) : State :=
  let j := s.kvCtx x
  let q := s.pool j.pool
  let k := entrySet (ownOf s n b)
  let a := bucketAt j h
  let old := wayAt s a way
  let s := if old.testBit 22 then s.putSetRec q (waySet old) setFree else s
  let s := s.store (a + 16 * way) 16 (k + 2 ^ 22 + j.domain.toNat * 2 ^ 24 + (h >>> 40) * 2 ^ 40)
  let s := s.putSetRec q k ⟨.frozen, 0, 0, j.domain, 1, bucketNo j h, way, s.kvStep.toNat % 2 ^ 32⟩
  let s := (List.range q.ns).foldl (fun s i =>
    let e := (entryOf s n i b).toNat
    (s.store (hdrAt q (k * q.ns + i)) 4 (hdrOf e)).putEntry n i b (BitVec.ofNat 64 (e ||| entryRoBit))) s
  s.putEntry n q.ns b (BitVec.ofNat 64 (k + entryVBit + entryRoBit))

/-- One block of an insert (R301). -/
def PfxRun.insert (x : CtxId) (n : SlotId) (k : Core) (p : Pfx) (r : PfxRun) (b : Nat) : PfxRun :=
  if r.stop then r else
  let s := r.st
  let blk := p.blk0 + b
  if blockPoison s n blk then { r with st := (s.slotFails n).error 0 0x0107 (s.slot n).pt [3] }.halt 2
  else if !insertable s n blk then r.halt 2
  else
    let j := s.kvCtx x
    let q := s.pool j.pool
    let h := blockHash j.domain.toNat p.model r.parent (k.padBytes (p.tokens + 256 * b) 256)
    let a := bucketAt j (ofLeBytes h)
    let own := setRecAt q (entrySet (ownOf s n blk))
    if s.poisoned own 16 then { r with st := (s.setRecPoisoned j.pool (entrySet (ownOf s n blk))).error 0 0x0107 own [4] }.halt 2
    else if s.poisoned a 64 then { r with st := s.bucketPoisoned j.pool j (ofLeBytes h) }.halt 1
    else match findWay s a (wayMatches j (ofLeBytes h)) with
      | some _ => { r with parent := h, dup := r.dup + 1 }
      | none =>
        match chooseWay s q a with
        | none => r.halt 1
        | some w => { r with st := s.freeze x n blk w (ofLeBytes h), parent := h, count := r.count + 1 }

/-- PFX.INSERT runs with the slot's hall pass, which it gives up at the end (R301). -/
def State.runInsert (s : State) (c : CoreId) (x : CtxId) (i : Item) : State :=
  match headPfx s (s.core c) x i with
  | .error b => s.itemBadWalk c i b
  | .ok _ =>
    let k := s.core c
    let p := pfxAt k i.s1.toNat
    let n : SlotId := BitVec.ofNat 14 p.slot
    if pfxWaits s x (some n) || !indexIn s c then s else
    let r := (List.range p.blocks).foldl (PfxRun.insert x n k p) ⟨s, p.parent, 0, 0, 0, false⟩
    ((State.pfxResult c i.s1.toNat p r).releasePass n (editorOf c i)).performed c i

def execPfxInsert (c : CoreId) (v : Ev F3) (s : State) : Host.Outcome State Fault Refusal :=
  .next (match v with
    | .issue w => s.issueOp c .pfxInsert (.f3 w)
    | .run e n b => s.runFor c e n b .pfxInsert (fun s x i => s.runInsert c x i))

/-- PFX.RELEASE at the head; context 0 has no domain (R214, R378, R493). -/
def headRelease (k : Core) (x : CtxId) (i : Item) : Except Bad Nat :=
  let n := i.s2.toNat
  if x = 0 then .error (bad cTranslation) else
  if n = 0 || 256 < n then .error (bad cShape) else
  match firstBad [areaBad k i.s1.toNat (16 * n) 16, areaOutBad i.s3.toNat 4 4] with
  | some c => .error (bad c)
  | none => .ok 1

/-- One listed hash: its way is cleared and its set leaves the index (R214, R299, R302); counts it. -/
def releaseHash (x : CtxId) (r : State × Nat) (h : Nat) : State × Nat :=
  let s := r.1
  let j := s.kvCtx x
  let q := s.pool j.pool
  let a := bucketAt j h
  if s.poisoned a 64 then (s.bucketPoisoned j.pool j h, r.2)
  else match findWay s a (wayMatches j h) with
    | none => r
    | some w =>
      let k := waySet (wayAt s a w)
      let s := s.store (a + 16 * w) 16 0
      if s.poisoned (setRecAt q k) 16 then ((s.setRecPoisoned j.pool k).error 0 0x0107 (setRecAt q k) [4], r.2 + 1)
      else
        let t := s.setRec q k
        let s := match t.state with
          | .frozen => s.putSetRec q k { t with state := .detached }
          | .cached => s.putSetRec q k setFree
          | _ => s
        (s, r.2 + 1)

def State.runRelease (s : State) (c : CoreId) (x : CtxId) (i : Item) : State :=
  let k := s.core c
  match headRelease k x i with
  | .error b => s.itemBadWalk c i b
  | .ok _ =>
    if pfxWaits s x none || !indexIn s c then s else
    let r := (List.range i.s2.toNat).foldl (fun r n => releaseHash x r (k.padLoad (i.s1.toNat + 16 * n) 16)) (s, 0)
    let lists := overlap i.s1.toNat (16 * i.s2.toNat) i.s3.toNat 4
    (r.1.padOut c lists (i.s3.toNat, leBytes 4 r.2)).performed c i

def execPfxRelease (c : CoreId) (v : Ev F3) (s : State) : Host.Outcome State Fault Refusal :=
  .next (match v with
    | .issue w => s.issueOp c .pfxRelease (.f3 w)
    | .run e n b => s.runFor c e n b .pfxRelease (fun s x i => s.runRelease c x i))

end Sys2Proof.Machine
end

