-- ==== Sys2Proof/Machine/AttnPlan.lean ====
section
/-! DEFINITION. Attention: the mode, the work list, masks, charged pairs, and every check made before a hall pass is taken
(spec/08_akaux_tensor.md R196 to R203, spec/11_attention_engine.md R256 to R259, R268, R270, R274). -/
namespace Sys2Proof.Machine

/-- MODE (Table 8.4). -/
structure AttnMode where
  amode : Nat
  d : Nat
  g : Nat
  causal : Bool
  win : Bool
  tree : Bool
  save : Bool
  kv16 : Bool
  keep : Bool
  deriving DecidableEq, Repr

def attnMode (m : Nat) : AttnMode :=
  ⟨m % 4, 64 * (bitField m 3 2 + 1), bitField m 7 4 + 1, m.testBit 8, m.testBit 9, m.testBit 10, m.testBit 11, m.testBit 12, m.testBit 13⟩

def Item.fwd (i : Item) : Bool := i.kind == .attnFwd
def Item.mode (i : Item) : AttnMode := attnMode i.sub

/-- The score lines are read: ATTN.BWD in STORED mode. -/
def Item.stored (i : Item) : Bool := !i.fwd && i.mode.amode == 1

/-- Q, the ancestry tile and the row statistics of either instruction (R196, R197, R203). -/
def Item.qTile (i : Item) : BitVec 256 := if i.fwd then i.tdl else i.tdr
def Item.ancestry (i : Item) : BitVec 256 := if i.fwd then i.td3 else i.td4
def Item.statTile (i : Item) : BitVec 256 := if i.fwd then i.tdr else i.td3

/-! The work list (Table 8.5). -/

/-- A work-list entry with the ancestry bitmaps of its tokens. -/
structure Entry where
  slot : Nat
  qtok : Nat
  qpos : Nat
  kbeg : Nat
  kend : Nat
  qrow : Nat
  trow : Nat
  win : Nat
  scores : Word
  bms : List Nat
  deriving DecidableEq, Repr

def entryOfWords (w : List Word) : Entry :=
  let w0 := w.getD 0 0
  let w1 := w.getD 1 0
  let w2 := w.getD 2 0
  ⟨fieldOf w0 13 0, fieldOf w0 23 16, fieldOf w0 52 32, fieldOf w1 20 0, fieldOf w1 52 32, fieldOf w2 15 0, fieldOf w2 31 16,
   fieldOf w2 52 32, w.getD 3 0, []⟩

/-- A reserved bit is set, or STATUS is not zero (R198). -/
def entryReserved (w : List Word) : Bool :=
  let w0 := w.getD 0 0
  let w1 := w.getD 1 0
  let w2 := w.getD 2 0
  fieldOf w0 15 14 != 0 || fieldOf w0 31 24 != 0 || fieldOf w0 63 53 != 0 || fieldOf w1 31 21 != 0 || fieldOf w1 63 53 != 0 || fieldOf w2 63 53 != 0

def attnCount (i : Item) : Nat := i.s2.toNat

/-- The words of the work list in scratchpad. -/
def listWords (k : Core) (i : Item) : List Word :=
  tabulate (4 * attnCount i) (fun n => BitVec.ofNat 64 (k.padLoad (i.s1.toNat + 8 * n) 8))

/-- Scratch offset of row `r` of the ancestry tile. -/
def ancestryAt (i : Item) (r : Nat) : Nat := let t := tileOf i.ancestry; 64 * (t.baseW + r * t.strideW)

/-- Entries of a list of words, without their bitmaps. -/
def bareEntries : (n : Nat) → List Word → List Entry
  | 0, _ => []
  | n + 1, w => entryOfWords (w.take 4) :: bareEntries n (w.drop 4)

/-- The bitmaps of every entry's tokens, in work-list order; none without TREE. -/
def bitmapWords (k : Core) (i : Item) : List Word :=
  if i.mode.tree then
    ((bareEntries (attnCount i) (listWords k i)).map (fun e =>
      tabulate e.qtok (fun t => BitVec.ofNat 64 (k.padLoad (ancestryAt i (e.trow + t)) 8)))).flatten
  else []

/-- STATUS taken out of the first word of each entry. -/
def withoutStatus (ws : List Word) : List Word := ws.mapIdx (fun n w => if n % 4 = 0 then w &&& 0xFFFFFFFF00FFFFFF else w)

/-- What the sequencer reads of the work list and the ancestry tile at the head (R179, R258). -/
def attnWords (k : Core) (i : Item) : List Word := withoutStatus (listWords k i) ++ bitmapWords k i

/-- Bitmaps dealt to the entries in order. -/
def dealBitmaps : List Entry → List Word → List Entry
  | [], _ => []
  | e :: t, b => { e with bms := (b.take e.qtok).map BitVec.toNat } :: dealBitmaps t (b.drop e.qtok)

/-- The entries that a list of read words holds. -/
def planOf (i : Item) (ws : List Word) : List Entry :=
  let es := bareEntries (attnCount i) ws
  if i.mode.tree then dealBitmaps es (ws.drop (4 * attnCount i)) else es

/-! Positions and masks (R256). -/

def popcount (n : Nat) : Nat := ((List.range 64).filter n.testBit).length

/-- The logical position of query token `t`. -/
def lam (m : AttnMode) (e : Entry) (t : Nat) : Int :=
  if m.tree then (e.qpos : Int) + popcount (e.bms.getD t 0) - 1 else (e.qpos : Int) + t

/-- R256: key `p` is visible to query token `t`. -/
def visible (m : AttnMode) (e : Entry) (t p : Nat) : Bool :=
  if p < e.kbeg || e.kend ≤ p then false
  else if m.tree && e.qpos ≤ p then
    let u := p - e.qpos
    (e.bms.getD t 0).testBit u && (!m.win || decide (lam m e t - lam m e u < e.win))
  else if m.causal && lam m e t < (p : Int) then false
  else !(m.win && decide ((e.win : Int) ≤ lam m e t - p))

def Entry.rows (e : Entry) (g : Nat) : Nat := e.qtok * g
def Entry.blocks (e : Entry) : Nat := ceilDiv (e.kend - e.kbeg) 64
def Entry.groups (e : Entry) (g : Nat) : Nat := ceilDiv (e.rows g) 128

/-- Tokens with a row in row group `n` (R198). -/
def Entry.groupTokens (e : Entry) (g n : Nat) : List Nat :=
  let lo := 128 * n / g
  tabulate ((min (128 * n + 128) (e.rows g) - 1) / g + 1 - lo) (fun t => lo + t)

/-- The pair of row group `n` and key block `b` is not wholly masked (R258). -/
def chargedPair (m : AttnMode) (e : Entry) (n b : Nat) : Bool :=
  (e.groupTokens m.g n).any (fun t => (List.range 64).any (fun j => visible m e t (e.kbeg + 64 * b + j)))

/-- A block that some row group reads. -/
def chargedBlock (m : AttnMode) (e : Entry) (b : Nat) : Bool := (List.range (e.groups m.g)).any (fun n => chargedPair m e n b)

/-- n_e (R199). -/
def chargedPairs (m : AttnMode) (e : Entry) : Nat :=
  ((List.range (e.groups m.g)).map (fun n => ((List.range e.blocks).filter (chargedPair m e n)).length)).sum

/-- κ (R199). -/
def kappa (m : AttnMode) (q : Fmt) : Nat := if wideFmt q || m.kv16 then 2 else 1

/-- Steps of one charged pair (Table 8.2). -/
def pairSteps (fwd : Bool) (m : AttnMode) (kp : Nat) : Nat :=
  if fwd then (if m.amode = 0 then kp * (m.d + 64) + 24 else kp * (2 * m.d + 64) + 40)
  else (if m.amode = 0 then kp * (3 * m.d + 128) + 48 else kp * (2 * m.d + 128) + 32)

def attnSteps (i : Item) (q : Fmt) (es : List Entry) : Nat :=
  32 + (es.map (chargedPairs i.mode)).sum * pairSteps i.fwd i.mode (kappa i.mode q)

/-! Score lines and the dK and dV area (R268, R270). -/

/-- Stride of a score line in bytes. -/
def Entry.lineStride (e : Entry) : Nat := roundUp (4 * (e.kend - e.kbeg)) 64

/-- Granules of a span of global addresses. -/
def spanPieces (unit : Nat) (g : Word) (len : Nat) : List (Nat × Nat) := cutAt unit (len / unit + 2) g.toNat 0 len

def spanAccesses (g : Word) (len : Nat) : List (Word × Nat) := (spanPieces 2048 g len).map (fun p => (gAdd g p.1, p.2))

/-- The accesses of an entry's score lines. -/
def lineAccesses (m : AttnMode) (e : Entry) : List (Word × Nat) := spanAccesses e.scores (e.rows m.g * e.lineStride)

/-- B_e: the regions of the entries in work-list order, from S3. -/
def areaStarts (d : Nat) (base : Word) : List Entry → List Word
  | [] => []
  | e :: t => base :: areaStarts d (gAdd base (32 * d * (e.kend - e.kbeg))) t

def areaLen (d : Nat) (es : List Entry) : Nat := (es.map (fun e => 32 * d * (e.kend - e.kbeg))).sum

/-! Checks before any hall pass. -/

/-- The limits of Table 11.4 and R257 on one entry, and its rows within the tiles. -/
def entryShape (i : Item) (rows ancRows : Nat) (e : Entry) : Bool :=
  let m := i.mode
  decide (1 ≤ e.qtok) && decide (e.qtok ≤ if m.tree then 64 else 128)
  && e.kbeg % 64 == 0 && decide (e.kbeg < e.kend) && decide (e.kend ≤ 2 ^ 20)
  && (if m.win then decide (1 ≤ e.win) && decide (e.win ≤ 2 ^ 20) else e.win == 0)
  && decide (e.qrow + e.rows m.g ≤ rows)
  && (!m.tree || (e.qpos + e.qtok == e.kend && decide (e.trow + e.qtok ≤ ancRows)))
  && (m.keep || i.stored || e.scores == 0)

/-- Bit t set and every bit above it clear, for each token (R257). -/
def bitmapsOk (e : Entry) : Bool := (e.bms.mapIdx (fun t b => b >>> t == 1)).all id

/-- Two entries' rows overlap (R198). -/
def rowsClash (g : Nat) : List Entry → Bool
  | [] => false
  | e :: t => t.any (fun f => overlap e.qrow (e.rows g) f.qrow (f.rows g)) || rowsClash g t

/-- A tile that may name no region (R181; the cause is that of a stage tile, log 23). -/
def checkPlain (th : Thread) (d : BitVec 256) (isOut : Bool) : Except Nat (Tile × Fmt) :=
  if (tileOf d).circEn then .error cDescriptor else checkTile th d isOut

/-- Q and O of a work list: a format that R198 does not allow is a breach of R198, which faults with SHAPE (log 58). -/
def inShape {α : Type} (r : Except Nat α) : Except Nat α := r.mapError (fun c => if c = cFormat then cShape else c)

/-- The tiles of an attention instruction: rows of the tiles every entry must fit, the format of Q (R196, R197, R202, R203). -/
def attnTiles (th : Thread) (i : Item) : Except Nat (Nat × Fmt) := do
  let m := i.mode
  let q ← inShape (checkArrayIn th i.qTile)
  let o ← if i.fwd then inShape (checkStored th i.tdo) else checkStored th i.tdo
  let g ← if i.fwd then pure q.1 else do
    if (tileOf i.tdl).circEn then throw cDescriptor
    let x ← checkArrayIn th i.tdl
    pure x.1
  if q.1.cols ≠ m.d || o.1.cols ≠ m.d || g.cols ≠ m.d then throw cShape
  let rows ← if i.fwd && !m.save then pure (min q.1.rows o.1.rows) else do
    let t ← checkPlain th i.statTile i.fwd
    if t.2 ≠ .w64 then throw cFormat
    if t.1.cols ≠ (if i.fwd then 2 else 3) then throw cShape
    if i.fwd && t.1.rows ≠ q.1.rows then throw cShape
    pure (min (min q.1.rows o.1.rows) t.1.rows)
  if m.tree then
    let a ← checkPlain th i.ancestry false
    if a.2 ≠ .uint8 || a.1.cols ≠ 8 then throw cShape
  pure (min rows g.rows, q.2)

/-- The score scale is finite and above zero (R257). -/
def scaleOk (i : Item) : Bool := let v := decodeVal .fp32 (i.ext % 2 ^ 32) none; v.cls == .fin && !v.neg

/-- The scratch areas read at the head: the work list, and the ancestry rows of its entries. -/
def attnAreas (k : Core) (i : Item) : Option Nat :=
  match areaBad k i.s1.toNat (32 * attnCount i) 32 with
  | some c => some c
  | none =>
    if ((List.range (attnCount i)).any (fun n => entryReserved ((listWords k i).drop (4 * n)))) then some cReserved else none

def ancestryPoison (k : Core) (i : Item) : Bool :=
  i.mode.tree && (bareEntries (attnCount i) (listWords k i)).any (fun e =>
    (List.range e.qtok).any (fun t => k.padPoison (ancestryAt i (e.trow + t)) 8))

/-- Addresses: score lines and the record area (R157, R203, R268). -/
def attnAddresses (s : State) (x : CtxId) (i : Item) (es : List Entry) : Option Bad :=
  let m := i.mode
  let lines := m.keep || i.stored
  if (lines && es.any (fun e => e.scores.toNat % 64 ≠ 0)) || (!i.fwd && i.s3.toNat % 16 ≠ 0) then some (bad cAlignment) else
  match (if lines then accessBad s x (if i.fwd then .write else .read) ((es.map (lineAccesses m)).flatten) else none) with
  | some b => some b
  | none => if i.fwd then none else accessBad s x .write (spanAccesses i.s3 (areaLen m.d es))

/-- ATTN.FWD and ATTN.BWD at the head: the steps, or the fault. -/
def headAttn (s : State) (k : Core) (x : CtxId) (i : Item) : Except Bad Nat := do
  let t ← (attnTiles k.th i).mapError bad
  if i.anc = 0x800 then throw (bad cAnchor)
  if !scaleOk i || i.s2 = 0 || 256 < attnCount i then throw (bad cShape)
  match attnAreas k i with
  | some c => throw (bad c)
  | none => pure ()
  if fieldOf i.s4 63 12 ≠ 0 then throw badT
  let anc := (tileOf i.ancestry).rows
  if !(bareEntries (attnCount i) (listWords k i)).all (entryShape i t.1 anc) then throw (bad cShape)
  if ancestryPoison k i then throw (bad cPoison)
  let es := planOf i (attnWords k i)
  if !es.all bitmapsOk || rowsClash i.mode.g es then throw (bad cShape)
  match attnAddresses s x i es with
  | some b => throw b
  | none => pure (attnSteps i t.2 es)

/-! SORTB (R204). -/

def sortCode (i : Item) (b : Nat) : Nat := fieldOf i.s4 (4 * b + 3) (4 * b)

/-- The codes are nondecreasing, at most 11, and the last is 11. -/
def sortCodesOk (i : Item) : Bool :=
  sortCode i 15 == 11 && (List.range 15).all (fun b => decide (sortCode i b ≤ sortCode i (b + 1)))

def sortCount (i : Item) : Nat := i.s2.toNat

def sortEntry (k : Core) (i : Item) (n : Nat) : Nat := k.padLoad (i.s1.toNat + 8 * n) 8

def sortEntryOk (w : Nat) : Bool :=
  bitField w 31 14 == 0 && bitField w 63 53 == 0 && decide (1 ≤ bitField w 52 32) && decide (bitField w 52 32 ≤ 2 ^ 20)

def headSortb (k : Core) (i : Item) : Except Bad Nat :=
  let n := sortCount i
  if n = 0 || 16384 < n || !sortCodesOk i then .error (bad cShape) else
  match firstBad [areaBad k i.s1.toNat (8 * n) 8, areaOutBad i.s3.toNat (8 * n + 64) 64] with
  | some c => .error (bad c)
  | none => if (List.range n).all (fun j => sortEntryOk (sortEntry k i j)) then .ok (ceilDiv n 8 + 32) else .error (bad cShape)

/-- The bucket of a length: the first whose bound reaches it. -/
def bucketOf (i : Item) (len : Nat) : Nat := ((List.range 16).find? (fun b => decide (len ≤ 2 ^ (9 + sortCode i b)))).getD 15

/-- The sorted list and the counts. -/
def sortOut (k : Core) (i : Item) : List Byte :=
  let es := tabulate (sortCount i) (sortEntry k i)
  let buckets := tabulate 16 (fun b => es.filter (fun w => bucketOf i (bitField w 52 32) == b))
  (buckets.flatten.map (leBytes 8)).flatten ++ (buckets.map (fun l => leBytes 4 l.length)).flatten

end Sys2Proof.Machine
end

