-- ==== Sys2Proof/Machine/AttnMath.lean ====
section
/-! DEFINITION. What the attention engine computes for one row: pages, scores, ONE_SWEEP, EXACT, and the backward pass
(spec/11_attention_engine.md R255, R259 to R271, spec/12_kv_pages_prefix.md R276, R278). -/
namespace Sys2Proof.Machine

/-! Pages (R260, R276, R278). -/

def pageFmt : Nat → Fmt
  | 0 => .bf16 | 1 => .e4m3 | 2 => .mxe4m3 | _ => .mxe2m1

/-- KFMT or VFMT, and KSCALE or VSCALE, of a stream entry. -/
def entryFmt (w : Word) (v : Bool) : Fmt := pageFmt (if v then fieldOf w 25 24 else fieldOf w 23 22)
def entryScale (w : Word) (v : Bool) : Nat := if v then fieldOf w 47 40 else fieldOf w 39 32

/-- Bytes the planes of one half take (R276). -/
def halfBytes (f : Fmt) (d : Nat) : Nat := 64 * (d * fmtBits f / 8) + (if fmtIsMx f then 2 * d else 0)

def kvFrameBytes (p : Pool) : Nat := p.frame * 2048
def kvFrameAddr (p : Pool) (w : Word) : Nat := p.base + entrySet w * kvFrameBytes p

/-- Token row `j` of one half of the page that an entry maps, in the common form (R58, R260, R276). -/
def pageRow (s : State) (p : Pool) (w : Word) (d : Nat) (v : Bool) (j : Nat) : List Common :=
  let f := entryFmt w v
  let base := kvFrameAddr p w + (if v then kvFrameBytes p / 2 else 0)
  let rb := d * fmtBits f / 8
  let codes := codesOf (fmtBits f) d (memLoad s.mem (base + j * rb) rb)
  codes.mapIdx (fun c code =>
    let xs := if fmtIsMx f then some (memLoad s.mem (base + 64 * rb + j * (d / 32) + c / 32) 1)
              else if f = .e4m3 then some (entryScale w v) else none
    commonOf (decodeVal f code xs))

def pageRows (s : State) (p : Pool) (w : Word) (d : Nat) (v : Bool) : List (List Common) := tabulate 64 (pageRow s p w d v)

/-! Scores (R255). -/

/-- A Praline sum into W with the flags of its terms (R77, R85). -/
def sumW (r : Praline × Flags) : Val × Flags := let w := prToW r.1; (w.1, r.2 ||| w.2)

/-- R255: one scaled score. -/
def scoreOf (a : Int) (scale : Val) (q k : List Common) : Val × Flags :=
  bindVal (sumW (dot a prEmpty q k)) (fun w => wMul w scale)

def negInf (v : Val) : Bool := v.cls == .inf && v.neg

/-- One key of a row: the score if it is visible. -/
abbrev Scored := Option (Val × Flags)

def scoreVal (z : Scored) : Val := match z with | some v => v.1 | none => valInf true

def scoredFlags (zs : List Scored) : Flags := foldFlags (zs.map (fun z => match z with | some v => v.2 | none => 0))

/-- exp(z - m) in the common form (R252, R494). -/
def weightOf (m z : Val) : Common × Flags :=
  let e := bindVal (wSub z m) (sfuStage .exp)
  let c := toCommon e.1
  (c.1, e.2 ||| c.2)

/-- Column `c` of a list of value rows. -/
def columnOf (vs : List (List Common)) (c : Nat) : List Common := vs.map (fun v => v.getD c ⟨.zero, false, 0, 0⟩)

/-- The sum of weights at anchor 0 and the weighted sums of the values at anchor A. A key whose score is -inf contributes
nothing (R258, R264; log 24). -/
structure Gathered where
  s : Praline × Flags
  n : List (Praline × Flags)
  flags : Flags

def gather (a : Int) (d : Nat) (m : Val) (zs : List Scored) (vs : List (List Common)) : Gathered :=
  let live := (List.zip zs vs).filter (fun p => !negInf (scoreVal p.1))
  let ws := live.map (fun p => weightOf m (scoreVal p.1))
  let pe := ws.map (·.1)
  let rows := live.map (·.2)
  ⟨dot 0 prEmpty pe (pe.map (fun _ => commonOne)), tabulate d (fun c => dot a prEmpty pe (columnOf rows c)), foldFlags (ws.map (·.2))⟩

/-! ONE_SWEEP (R262). -/

structure Sweep where
  m : Val
  l : Val
  o : List Val
  flags : Flags

def Sweep.start (d : Nat) : Sweep := ⟨valInf true, valZero false, List.replicate d (valZero false), 0⟩

/-- x * al + y, each operation rounded into W. -/
def rescale (x al : Val) (y : Val × Flags) : Val × Flags :=
  bindVal (wMul x al) (fun p => let r := wAdd p y.1; (r.1, r.2 ||| y.2))

/-- One charged block. -/
def Sweep.block (a : Int) (d : Nat) (w : Sweep) (b : List Scored × List (List Common)) : Sweep :=
  let mb := (b.1.map scoreVal).foldl valMax (valInf true)
  if negInf mb then w else
  let mn := valMax w.m mb
  let al := if negInf w.m then (valZero false, (0 : Flags)) else bindVal (wSub w.m mn) (sfuStage .exp)
  let g := gather a d mn b.1 b.2
  let l := rescale w.l al.1 (sumW g.s)
  let o := List.zipWith (fun x n => rescale x al.1 (sumW n)) w.o g.n
  ⟨mn, l.1, o.map (·.1), w.flags ||| al.2 ||| g.flags ||| l.2 ||| foldFlags (o.map (·.2))⟩

/-- The exact quotient o / l before its one rounding (R237, R262). -/
def quotient (o l : Val) : Val :=
  match o.cls, l.cls with
  | .zero, _ => valZero false
  | .nan, _ | _, .nan => valNan
  | .inf, .inf => valNan
  | .inf, _ => valInf (o.neg != l.neg)
  | .fin, .fin => let r := ratioMag o.n (o.q - l.q) l.n; valFin (o.neg != l.neg) r.1 r.2
  | .fin, _ => valZero (o.neg != l.neg)

/-- What a row gives: its outputs before rounding, its statistics, the flags so far. -/
structure RowAttn where
  out : List (Val × Flags)
  m : Val
  l : Val
  flags : Flags

/-- A row with no visible key, or of a failed entry, as zeros (R259, R273). -/
def zeroRow (d : Nat) (m : Val) : RowAttn := ⟨List.replicate d (valZero false, 0), m, valZero false, 0⟩

def oneSweep (a : Int) (d : Nat) (bs : List (List Scored × List (List Common))) : RowAttn :=
  let w := bs.foldl (Sweep.block a d) (Sweep.start d)
  if negInf w.m then { zeroRow d (valInf true) with flags := w.flags }
  else ⟨w.o.map (fun o => (quotient o w.l, 0)), w.m, w.l, w.flags⟩

/-! EXACT (R263). -/

/-- praline_ratio before its rounding. An overflow result is a magnitude beyond every format; for an MX output it counts as
infinite (R86). -/
def pralineRatio (dst : Fmt) (n s : Praline) (a : Int) : Val × Flags :=
  match prScreen n with
  | .empty => (valZero false, 0)
  | .bad => (valNan, flInvalid)
  | .beyond neg => if fmtIsMx dst then (valInf neg, flOverflow ||| flInexact) else (valFin neg 1 4096, 0)
  | .ok v =>
    if v = 0 then (valZero false, 0)
    else let r := ratioMag v.natAbs a s.v.toInt.toNat; (valFin (decide (v < 0)) r.1 r.2, 0)

def exactRow (a : Int) (d : Nat) (dst : Fmt) (bs : List (List Scored × List (List Common))) : RowAttn :=
  let zs := (bs.map (·.1)).flatten
  let m := (zs.map scoreVal).foldl valMax (valInf true)
  if negInf m then zeroRow d (valInf true) else
  let g := gather a d m zs (bs.map (·.2)).flatten
  let l := sumW g.s
  ⟨g.n.map (fun n => let r := pralineRatio dst n.1 g.s.1 a; (r.1, r.2 ||| n.2)), m, l.1, g.flags ||| l.2⟩

/-- R264: a row with a NaN or a +inf score. DESIGN CHOICE: its value-sum terms are not formed, so that they raise no flag (R77,
log 79). -/
def nanRow (d : Nat) (zs : List Scored) : Option RowAttn :=
  let vs := zs.map scoreVal
  let pos := vs.any (fun v => v.cls == .inf && !v.neg)
  if pos || vs.any (fun v => v.cls == .nan) then some ⟨List.replicate d (valNan, 0), valNan, valNan, flIf pos flInvalid⟩ else none

/-- One row of ATTN.FWD from its blocks' scores and values. -/
def fwdRow (m : AttnMode) (a : Int) (dst : Fmt) (bs : List (List Scored × List (List Common))) : RowAttn :=
  let zs := (bs.map (·.1)).flatten
  let r := match nanRow m.d zs with
    | some r => r
    | none => if m.amode = 0 then oneSweep a m.d bs else exactRow a m.d dst bs
  { r with flags := r.flags ||| scoredFlags zs }

/-- A score line: FP32 by RNE, -inf where masked, zero padding; with the flags of the roundings (R268). -/
def scoreLine (e : Entry) (zs : List Scored) : List Byte × Flags :=
  let n := e.kend - e.kbeg
  let cs := tabulate n (fun k => encodeVal .fp32 .rne (scoreVal (zs.getD k none)))
  ((cs.map (fun c => leBytes 4 c.1)).flatten ++ List.replicate (e.lineStride - 4 * n) 0, foldFlags (cs.map (·.2)))

/-! The backward pass (R269). -/

/-- What one key gives a row: its place, its score, its key and its value. -/
structure KeyIn where
  p : Nat
  z : Val × Flags
  k : List Common
  v : List Common

/-- What a row adds at one key: the dK records and the dV records. -/
structure KeyAdd where
  p : Nat
  dk : List Praline
  dv : List Praline

/-- A row's dQ: records, or NaN throughout. -/
inductive DqRow where
  | recs (r : List Praline)
  | nan
  deriving DecidableEq, Repr

structure BwdRow where
  dq : DqRow
  adds : List KeyAdd
  flags : Flags

/-- Terms of one factor with each of a list, with their flags. -/
def termsOf (a : Int) (x : Common) (ys : List Common) : List Praline × Flags :=
  let ts := ys.map (fun y => term x y a)
  (ts, foldFlags (ts.map termFlags))

/-- e / l in the common form, one rounding to 12 bits. -/
def ratioCommon (e l : Val) : Common × Flags := toCommon (quotient e l)

/-- pp and cs of one key (R269). -/
def bwdFactors (a : Int) (scale m l dl : Val) (dout : List Common) (x : KeyIn) : (Common × Common) × Flags :=
  let e := bindVal (wSub x.z.1 m) (sfuStage .exp)
  let pp := ratioCommon e.1 l
  let dp := sumW (dot a prEmpty dout x.v)
  let c := bindVal (bindVal (wSub dp.1 dl) (fun t => wMul (toW (valOfCommon pp.1)).1 t)) (fun t => wMul t scale)
  let cs := toCommon c.1
  ((pp.1, cs.1), x.z.2 ||| e.2 ||| pp.2 ||| dp.2 ||| c.2 ||| cs.2)

/-- The terms of one key. -/
def bwdKey (a : Int) (q dout : List Common) (x : KeyIn) (f : (Common × Common) × Flags) : List Praline × KeyAdd × Flags :=
  let dq := termsOf a f.1.2 x.k
  let dk := termsOf a f.1.2 q
  let dv := termsOf a f.1.1 dout
  (dq.1, ⟨x.p, dk.1, dv.1⟩, f.2 ||| dq.2 ||| dk.2 ||| dv.2)

def addRecs (x y : List Praline) : List Praline := List.zipWith prAdd x y

/-- l is finite and above zero, and m neither NaN nor +inf. -/
def statsOk (m l : Val) : Bool := m.cls != .nan && m.cls != .inf && l.cls == .fin && !l.neg

def infCommon : Common := ⟨.inf, false, 0, 0⟩

/-- One row of ATTN.BWD. DESIGN CHOICE: where R269 makes the row NaN (m is NaN or +inf, or l is not finite and positive) its scores
and dp are not formed, so that they raise no flag (R77, log 79). -/
def bwdRow (d : Nat) (a : Int) (scale m l dl : Val) (q dout : List Common) (xs : List KeyIn) : BwdRow :=
  let zero := List.replicate d prEmpty
  if negInf m then ⟨.recs zero, [], 0⟩ else
  let ok := statsOk m l
  let ks := xs.map (fun x => bwdKey a q dout x (if ok then bwdFactors a scale m l dl dout x else ((infCommon, infCommon), flInvalid)))
  let fl := foldFlags (ks.map (·.2.2))
  if ok then ⟨.recs (ks.foldl (fun acc k => addRecs acc k.1) zero), ks.map (·.2.1), fl⟩
  else ⟨.nan, ks.map (·.2.1), fl ||| flInvalid⟩

/-- The adds of several rows brought together at each key; the sum does not depend on the order (R81, R270). -/
def mergeAdd (m : SMap KeyAdd) (x : KeyAdd) : SMap KeyAdd :=
  match mapGet m x.p with
  | none => mapSet m x.p x
  | some y => mapSet m x.p ⟨x.p, addRecs y.dk x.dk, addRecs y.dv x.dv⟩

end Sys2Proof.Machine
end

