-- ==== Sys2Proof/Machine/Sfu.lean ====
section
/-! DEFINITION. The SFU: VOP, SOFTMAX, CONVERT, TRANSPOSE, TALLY.CLOSE, NORM (spec/08_akaux_tensor.md R188 to R195,
spec/10_special_functions.md R244 to R254, spec/09_fused_chains.md R237 to R239). -/
namespace Sys2Proof.Machine

/-- Elements of a tile. -/
def elements (t : Tile) : Nat := t.rows * t.cols

def sameShape (a b : Tile) : Bool := a.rows = b.rows && a.cols = b.cols

/-- The result is the steps, or SHAPE. -/
def shapeOr (ok : Bool) (steps : Nat) : Except Nat Nat := if ok then .ok steps else .error cShape

/-! VOP (R188, R189). -/

/-- TDR fits its broadcast mode. -/
def vopFits (mode : Nat) (l r : Tile) : Bool :=
  match mode with
  | 0 => sameShape l r
  | 1 => r.rows = 1 && r.cols = l.cols
  | 2 => r.rows = l.rows && r.cols = 1
  | _ => r.rows = 1 && r.cols = 1

def vopCode (i : Item) : Nat := i.sub % 256
def vopMode (i : Item) : Nat := bitField i.sub 9 8

def headVop (k : Core) (i : Item) : Except Nat Nat := do
  let l ← checkVector k.th i.tdl
  let o ← checkStored k.th i.tdo
  let fits ← if vopBinary (vopCode i) then (checkVector k.th i.tdr).map (fun r => vopFits (vopMode i) l.1 r.1) else .ok true
  shapeOr (fits && sameShape l.1 o.1) (sfuCost (vopCode i) * ceilDiv (elements l.1) 64 + 8)

/-- The operand y for element (r, c). -/
def vopY (mode : Nat) (rows : List (List Val)) (r c : Nat) : Val :=
  match mode with
  | 0 => elemAt rows r c
  | 1 => elemAt rows 0 c
  | 2 => elemAt rows r 0
  | _ => elemAt rows 0 0

/-- One element's result in W, before the rounding to storage (Table 8.3, R250, R251). -/
def vopElem (code : Nat) (scale : Int) (dst : Fmt) (x y : Val) : Val × Flags :=
  match code with
  | 0x00 => wAdd x y
  | 0x01 => wSub x y
  | 0x02 => wMul x y
  | 0x03 => (valMax x y, 0)
  | 0x04 => (valMin x y, 0)
  | 0x05 => (valAbs x, 0)
  | 0x06 => (valNeg x, 0)
  | 0x07 => (x, 0)
  | 0x08 => wScale x scale
  | _ =>
    match sfuUnary code, sfuGated code with
    | some f, _ => sfuForStore f dst x
    | _, some f => sfuGate f dst x y
    | _, _ => (x, 0)

/-- A row written from values with flags. -/
def storeVals (i : Item) (o : Area) (r : Nat) (vs : List (Val × Flags)) : RowOut :=
  let out := encodeRow o.fmt (vs.mapIdx (fun j v => (v.1, i.rndAt r j)))
  { out with flags := out.flags ||| foldFlags (vs.map (·.2)) }

/-- Rows written in order with their flags in the SFU's nibble. -/
def sfuWrite (o : Area) (k : Core) (rows : List RowOut) : Core :=
  ((rows.mapIdx (fun m r => (m, r))).foldl (fun k x => k.writeRow o x.1 x.2.codes x.2.scales) k).raise [.sfu] (foldFlags (rows.map (·.flags)))

def vopEffect (i : Item) (k : Core) : Core :=
  let l := i.area k.th i.tdl false
  let o := i.area k.th i.tdo true
  let code := vopCode i
  let ys := if vopBinary code then k.tileVals (i.area k.th i.tdr false) else []
  let scale := (BitVec.ofNat 12 (bitField i.sub 23 12)).toInt
  sfuWrite o k (tabulate l.rows (fun r =>
    storeVals i o r ((k.rowVals l r).mapIdx (fun c x =>
      vopElem code scale o.fmt x (vopY (vopMode i) ys r c)))))

def vopIns (i : Item) : List (BitVec 256) := if vopBinary (vopCode i) then [i.tdl, i.tdr] else [i.tdl]

/-- A poisoned word under a tile of a list. -/
def insPoison (k : Core) (i : Item) (ins : List (BitVec 256)) : Bool := ins.any (fun d => k.tilePoison (i.area k.th d false))

def execVop (c : CoreId) (v : Ev F2) (s : State) : Host.Outcome State Fault Refusal :=
  .next (match v with
    | .issue w => s.issueOp c .vop (.f2 w)
    | .run e n b => s.runItem c e n b .vop (fun s i =>
        (s.perform c i (insPoison (s.core c) i (vopIns i)) (vopIns i) (vopEffect i)).blurIf c i true (vopIns i) []))

/-! SOFTMAX (R190, R253). -/

def headSoftmax (k : Core) (i : Item) : Except Nat Nat := do
  let l ← checkVector k.th i.tdl
  let o ← checkStored k.th i.tdo
  if i.anc = 0x800 then throw cAnchor
  shapeOr (sameShape l.1 o.1) (3 * ceilDiv (elements l.1) 64 + 2 * l.1.rows + 16)

/-- n * 2^e / d lies below 2^t. -/
def ratioBelow (n : Nat) (e : Int) (d : Nat) (t : Int) : Bool :=
  if t ≤ e then decide (n <<< (e - t).toNat < d) else decide (n < d <<< (t - e).toNat)

/-- Pass 3 on one exponential: the exact quotient with its flags, flushed below T (R251, R253). -/
def softmaxQuotient (dst : Fmt) (a : Int) (sum : Nat) (e : Val) : Val × Flags :=
  match e.cls with
  | .fin =>
    let x := e.q - (a - 64)
    let below := match flushExp dst with
      | none => false
      | some t => ratioBelow e.n x sum t
    if below then (valZero false, flUnderflow ||| flInexact)
    else let r := ratioMag e.n x sum; (valFin false r.1 r.2, 0)
  | _ => (valZero false, 0)

/-- One row of SOFTMAX before its rounding, with the flags the procedure names. -/
def softmaxRow (dst : Fmt) (a : Int) (xs : List Val) : List (Val × Flags) :=
  let all (v : Val) (f : Flags) := xs.map (fun _ => (v, f))
  let m := xs.foldl valMax (valInf true)
  if xs.any (fun x => x.cls = .nan) then all valNan 0
  else if xs.any (fun x => x.cls = .inf && !x.neg) then all valNan flInvalid
  else if m.cls = .inf then all (valZero false) 0
  else
    let es := xs.map (fun x => (sfuStage .exp (wSub x m).1).1)
    let sum := es.foldl (fun r e => prAdd r (vterm e a)) prEmpty
    let ov := sum.f &&& prOv ≠ 0
    if ov || decide ((prMax : Int) < sum.v.toInt) || sum.v = 0 then all valNan (flInvalid ||| flIf ov flOverflow)
    else
      let fl := flIf (sum.f &&& prInx ≠ 0) flInexact
      es.map (fun e => let r := softmaxQuotient dst a sum.v.toNat e; (r.1, r.2 ||| fl))

def softmaxEffect (i : Item) (k : Core) : Core :=
  let l := i.area k.th i.tdl false
  let o := i.area k.th i.tdo true
  sfuWrite o k (tabulate l.rows (fun r => storeVals i o r (softmaxRow o.fmt (anchorInt i.anc) (k.rowVals l r))))

def execSoftmax (c : CoreId) (v : Ev F2) (s : State) : Host.Outcome State Fault Refusal :=
  .next (match v with
    | .issue w => s.issueOp c .softmax (.f2 w)
    | .run e n b => s.runItem c e n b .softmax (fun s i =>
        (s.perform c i (insPoison (s.core c) i [i.tdl]) [i.tdl] (softmaxEffect i)).blurIf c i false [i.tdl] []))

/-! CONVERT (R191). -/

def headConvert (k : Core) (i : Item) : Except Nat Nat := do
  let l ← checkTile k.th i.tdl false
  let o ← checkStored k.th i.tdo
  shapeOr (sameShape l.1 o.1) (ceilDiv (elements l.1) (if l.2 = .praline then 16 else 64) + 4)

def convertEffect (i : Item) (k : Core) : Core :=
  let l := i.area k.th i.tdl false
  let o := i.area k.th i.tdo true
  sfuWrite o k (tabulate l.rows (fun r =>
    if l.fmt = .praline then encodePrRow o.fmt ((k.rowRecs l r).mapIdx (fun j p => (p, i.rndAt r j)))
    else encodeRow o.fmt ((k.rowVals l r).mapIdx (fun j v => (v, i.rndAt r j)))))

def execConvert (c : CoreId) (v : Ev F2) (s : State) : Host.Outcome State Fault Refusal :=
  .next (match v with
    | .issue w => s.issueOp c .convert (.f2 w)
    | .run e n b => s.runItem c e n b .convert (fun s i =>
        (s.perform c i (insPoison (s.core c) i [i.tdl]) [i.tdl] (convertEffect i)).blurIf c i true [i.tdl] []))

/-! TRANSPOSE (R192). -/

def transposable (f : Fmt) : Bool := !fmtIsMx f && fmtBits f ≠ 6 && f != .praline

def headTranspose (k : Core) (i : Item) : Except Nat Nat := do
  let l ← checkTile k.th i.tdl false
  let o ← checkTile k.th i.tdo true
  if l.2 ≠ o.2 || !transposable l.2 then throw cFormat
  shapeOr (o.1.rows = l.1.cols && o.1.cols = l.1.rows)
    (2 * footprintW l.2 l.1.rows l.1.strideW l.1.cols + 4)

def transposeEffect (i : Item) (k : Core) : Core :=
  let l := i.area k.th i.tdl false
  let o := i.area k.th i.tdo true
  let rows := tabulate l.rows (k.rowCodes l)
  (tabulate l.cols (fun j => (j, rows.map (fun r => r.getD j 0)))).foldl (fun k x => k.writeRow o x.1 x.2 []) k

def execTranspose (c : CoreId) (v : Ev F2) (s : State) : Host.Outcome State Fault Refusal :=
  .next (match v with
    | .issue w => s.issueOp c .transpose (.f2 w)
    | .run e n b => s.runItem c e n b .transpose (fun s i =>
        (s.perform c i (insPoison (s.core c) i [i.tdl]) [i.tdl] (transposeEffect i)).blurIf c i false [i.tdl] []))

/-! TALLY.CLOSE and NORM (R193 to R195). -/

def noWait (i : Item) : Bool := i.ext.testBit 35

/-- Tiles seen exceed tiles expected in a record of `m` rows. -/
def tallyOver (k : Core) (a m : Nat) : Bool :=
  (List.range m).any (fun r => let t := k.tally (a + 64 * r); decide (t.expect.toNat < t.seen.toNat))

/-- The records of `m` rows: R493, then with NOWAIT the mismatch (R195). -/
def tallyBad (k : Core) (i : Item) (m : Nat) : Option Nat :=
  match areaBad k i.s1.toNat (64 * m) 64 with
  | some c => some c
  | none => if noWait i && tallyOver k i.s1.toNat m then some cTally else none

/-- The records are closed, or the instruction does not wait (R193, R195). -/
def tallyReady (k : Core) (i : Item) (m : Nat) : Bool := noWait i || talliesClosed k i.s1.toNat m

/-- Invalid where a record is read before it is closed (R195). -/
def openFlag (t : Tally) : Flags := flIf (!tallyClosed t) flInvalid

def headTallyClose (k : Core) (i : Item) : Except Nat Nat := do
  let o ← checkStored k.th i.tdo
  if o.1.cols ≠ 2 then throw cShape
  match tallyBad k i o.1.rows with
  | some c => throw c
  | none => pure (4 * o.1.rows + 8)

/-- Mean and variance of one row, both drawn at its column 0 (R66, R193, R237). -/
def tallyCloseRow (i : Item) (f : Fmt) (r : Nat) (t : Tally) : RowOut :=
  let rnd := i.rndAt r 0
  let a := encodeMoment f rnd (moment1 t.sx t.n.toNat)
  let b := encodeMoment f rnd (variance t)
  ⟨[a.1, b.1], [], a.2 ||| b.2 ||| openFlag t⟩

def tallyCloseEffect (i : Item) (k : Core) : Core :=
  let o := i.area k.th i.tdo true
  sfuWrite o k (tabulate o.rows (fun r => tallyCloseRow i o.fmt r (k.tally (i.s1.toNat + 64 * r))))

/-- A faulting record list at the time it is read, then the effect. -/
def State.runTally (s : State) (c : CoreId) (i : Item) (m : Nat) (ins : List (BitVec 256)) (f : Core → Core) : State :=
  match tallyBad (s.core c) i m with
  | some cause => s.itemBad c i cause
  | none => (s.perform c i (insPoison (s.core c) i ins) ins f).blurIf c i (i.kind == .norm) ins [(i.s1.toNat, 64 * m)]

def execTallyClose (c : CoreId) (v : Ev F3) (s : State) : Host.Outcome State Fault Refusal :=
  .next (match v with
    | .issue w => s.issueOp c .tallyClose (.f3 w)
    | .run e n b => s.runItem c e n b .tallyClose (fun s i => s.runTally c i (tileOf i.tdo).rows [] (tallyCloseEffect i)))

def normGamma (i : Item) : Bool := i.ext.testBit 32
def normBeta (i : Item) : Bool := i.ext.testBit 33
def normRms (i : Item) : Bool := i.ext.testBit 34

/-- An enabled gamma or beta is a 1 x COLS vector tile. -/
def normVec (th : Thread) (on : Bool) (d : BitVec 256) (cols : Nat) : Except Nat Bool :=
  if on then (checkVector th d).map (fun t => decide (t.1.rows = 1) && decide (t.1.cols = cols)) else .ok true

def headNorm (k : Core) (i : Item) : Except Nat Nat := do
  let l ← checkVector k.th i.tdl
  let o ← checkStored k.th i.tdo
  let g ← normVec k.th (normGamma i) i.tdr l.1.cols
  let b ← normVec k.th (normBeta i) i.td3 l.1.cols
  if !(sameShape l.1 o.1 && g && b) then throw cShape
  match tallyBad k i l.1.rows with
  | some c => throw c
  | none => pure (2 * ceilDiv (elements l.1) 64 + 4 * l.1.rows + 12)

def normEffect (i : Item) (k : Core) : Core :=
  let l := i.area k.th i.tdl false
  let o := i.area k.th i.tdo true
  let g := if normGamma i then k.rowVals (i.area k.th i.tdr false) 0 else []
  let b := if normBeta i then k.rowVals (i.area k.th i.td3 false) 0 else []
  let eps := decodeVal .fp32 (i.ext % 2 ^ 32) none
  sfuWrite o k (tabulate l.rows (fun r =>
    let t := k.tally (i.s1.toNat + 64 * r)
    let n := rowNorm t (normRms i) eps
    storeVals i o r ((k.rowVals l r).mapIdx (fun j x =>
      let y := normElem n (normRms i) (if normGamma i then g[j]? else none) (if normBeta i then b[j]? else none) x
      (y.1, y.2 ||| n.flags ||| openFlag t)))))

def normIns (i : Item) : List (BitVec 256) :=
  [i.tdl] ++ (if normGamma i then [i.tdr] else []) ++ (if normBeta i then [i.td3] else [])

def execNorm (c : CoreId) (v : Ev F3) (s : State) : Host.Outcome State Fault Refusal :=
  .next (match v with
    | .issue w => s.issueOp c .norm (.f3 w)
    | .run e n b => s.runItem c e n b .norm (fun s i => s.runTally c i (tileOf i.tdl).rows (normIns i) (normEffect i)))

end Sys2Proof.Machine
end

