-- ==== Sys2Proof/Machine/Attention.lean ====
section
/-! DEFINITION. ATTN.FWD, ATTN.BWD and SORTB: hall-pass snapshots, lost frames, and the instructions' outputs
(spec/08_akaux_tensor.md R196 to R204, spec/11_attention_engine.md R258, R267 to R273, spec/12_kv_pages_prefix.md R284 to R288). -/
namespace Sys2Proof.Machine

/-! Snapshots (R200, R284, R288). -/

/-- R288: the entry names a frame of this slot's own private set, or of a frozen set of the context's domain. -/
def entryValid (s : State) (x : CtxId) (n : SlotId) (w : Word) : Bool :=
  let q := s.pool (poolOfSlot s n)
  let r := s.setRec q (entrySet w / q.ns)
  entryV w && decide (entrySet w < q.ns * q.sets)
  && (if entryRo w then setFrozen r.state && r.domain == (s.kvCtx x).domain else r.state == .priv && r.slot == n)

/-- The formats of an entry fit the frame and κ (R200, R276). -/
def entryFormat (q : Pool) (d kp : Nat) (w : Word) : Option Nat :=
  if kp = 1 && (entryFmt w false == .bf16 || entryFmt w true == .bf16) then some cFormat
  else if kvFrameBytes q / 2 < halfBytes (entryFmt w false) d || kvFrameBytes q / 2 < halfBytes (entryFmt w true) d then some cShape
  else none

/-- The blocks that an entry's snapshot covers (R284). -/
def snapBlocks (e : Entry) : List Nat := tabulate e.blocks (fun b => e.kbeg / 64 + b)

/-- The snapshot of one entry: its statuses and entries, or a fault; a poisoned page table fails the slot (R470). -/
def State.snapshot (s : State) (x : CtxId) (i : Item) (q : Fmt) (e : Entry) : Except Nat (State × Snap) :=
  match slotFor s x (BitVec.ofNat 64 e.slot) with
  | none => .error cTranslation
  | some n =>
    let p := s.pool (poolOfSlot s n)
    let stream := fieldOf i.s4 11 0
    let bs := snapBlocks e
    if p.ns ≤ stream || (s.slot n).cap < ceilDiv e.kend 64 then .error cTranslation
    else if bs.any (fun b => s.poisoned (entryAddr s n stream b) 8) then
      .ok ((s.slotFails n).error 0 0x0107 (s.slot n).pt [3], ⟨n, 1, []⟩)
    else
      let ws := bs.map (entryOf s n stream)
      if !ws.all (entryValid s x n) then .error cTranslation else
      match firstBad (ws.map (entryFormat p i.mode.d (kappa i.mode q))) with
      | some c => .error c
      | none => .ok (s, ⟨n, if (s.slot n).state = .failed then 1 else 0, ws⟩)

/-- The entry's mark is raised and its snapshot kept (R284). -/
def State.keepSnap (s : State) (c : CoreId) (i : Item) (t : Snap) : State :=
  (s.modSlot t.slot (fun y => { y with marks := y.marks + 1 })).modCore c (fun k => k.modItem i.serial (fun j =>
    { j with stage := j.stage + 1, snaps := j.snaps ++ [t], marks := j.marks ++ [t.slot] }))

/-! Lost data (R201, R273, R305, R306). -/

/-- The frame that an entry names is poisoned or its set is LOST. -/
def frameBad (s : State) (p : Pool) (w : Word) : Bool :=
  (s.setRec p (entrySet w / p.ns)).state == .lost || s.poisoned (kvFrameAddr p w) (kvFrameBytes p)

/-- What the engine does when it reads a bad frame: the private slot fails, the frozen set is lost (R305, R306). -/
def State.frameError (s : State) (n : SlotId) (w : Word) : State :=
  let pn := poolOfSlot s n
  if entryRo w then s.setLost pn (entrySet w / (s.pool pn).ns) else s.slotFails n

/-- Charged blocks of an entry with the page entries the snapshot fixed. -/
def chargedPages (i : Item) (e : Entry) (t : Snap) : List Word :=
  (t.entries.mapIdx (fun b w => (b, w))).filterMap (fun x => if chargedBlock i.mode e x.1 then some x.2 else none)

/-- Status of one entry from its snapshot and the frames it reads: SEQ_FAILED over PREFIX_LOST; `failed` lists the slots that
earlier entries of the work list failed (R201, R305). -/
def statusOf (s : State) (i : Item) (failed : List SlotId) (e : Entry) (t : Snap) : Nat :=
  let p := s.pool (poolOfSlot s t.slot)
  let bad := (chargedPages i e t).filter (frameBad s p)
  if t.status = 1 || failed.contains t.slot || bad.any (fun w => !entryRo w) then 1
  else if bad.isEmpty then 0 else 2

def statusList (s : State) (i : Item) (failed : List SlotId) : List (Entry × Snap) → List Nat
  | [] => []
  | (e, t) :: r =>
    let st := statusOf s i failed e t
    st :: statusList s i (if st = 1 then t.slot :: failed else failed) r

/-- Every bad frame an instruction reads takes its effect on slots and sets. -/
def State.frameErrors (s : State) (i : Item) (es : List Entry) (ts : List Snap) : State :=
  (List.zip es ts).foldl (fun s x =>
    ((chargedPages i x.1 x.2).filter (fun w => frameBad s (s.pool (poolOfSlot s x.2.slot)) w)).foldl
      (fun s w => s.frameError x.2.slot w) s) s

/-- Frozen frames found lost by an entry that reads them. -/
def lostFrames (s : State) (i : Item) (es : List Entry) (ts : List Snap) : List (BitVec 4 × Nat) :=
  ((List.zip es ts).map (fun x =>
    let pn := poolOfSlot s x.2.slot
    (((chargedPages i x.1 x.2).filter (fun w => entryRo w && frameBad s (s.pool pn) w)).map (fun w => (pn, entrySet w))))).flatten

/-- The status each entry reports (R201, R273). -/
def statuses (s : State) (i : Item) (es : List Entry) (ts : List Snap) : List Nat :=
  let lost := lostFrames s i es ts
  List.zipWith (fun st (t : Snap) =>
    if st = 0 && t.entries.any (fun w => entryRo w && lost.contains (poolOfSlot s t.slot, entrySet w)) then 2 else st)
    (statusList s i [] (List.zip es ts)) ts

/-! Outputs. -/

/-- What an attention instruction writes: output rows, statistics rows, main-memory lines, record adds, and its flags. -/
structure AttnOut where
  pad : List (Nat × List Byte)
  stat : List (Nat × List Byte)
  lines : List (Word × List Byte)
  adds : List (Word × List Byte)
  flags : Flags

def AttnOut.add (x y : AttnOut) : AttnOut := ⟨x.pad ++ y.pad, x.stat ++ y.stat, x.lines ++ y.lines, x.adds ++ y.adds, x.flags ||| y.flags⟩

/-- The bytes of one written row. -/
def rowBytesOut (a : Area) (r : Nat) (o : RowOut) : List (Nat × List Byte) :=
  (a.rowAt r, leBytes a.rowBytes (packCodes (fmtBits a.fmt) o.codes)) :: (if fmtIsMx a.fmt then [(a.scaleAt r, o.scales.map (BitVec.ofNat 8))] else [])

/-- The statistics row of TDR (R267). -/
def statRow (a : Area) (r : Nat) (m l : Val) : List (Nat × List Byte) :=
  rowBytesOut a r (encodeRow .w64 [(m, Rnd.rne), (l, Rnd.rne)])

/-- The scale of the scores in W. -/
def scaleW (i : Item) : Val := decodeVal .fp32 (i.ext % 2 ^ 32) none

/-- The scores of one row against the blocks of its entry, block by block. -/
def rowScores (i : Item) (e : Entry) (q : List Common) (t : Nat) (keys : List (List (List Common))) : List (List Scored) :=
  keys.mapIdx (fun b ks => ks.mapIdx (fun j k =>
    if visible i.mode e t (e.kbeg + 64 * b + j) then some (scoreOf (anchorInt i.anc) (scaleW i) q k) else none))

/-- Row `j` of an entry in ATTN.FWD. -/
def fwdRowOut (k : Core) (i : Item) (e : Entry) (failed : Bool) (keys vals : List (List (List Common))) (j : Nat) : AttnOut :=
  let m := i.mode
  let r := e.qrow + j
  let o := i.area k.th i.tdo true
  let zs := if failed then [] else rowScores i e (commonsOf (k.rowVals (i.area k.th i.qTile false) r)) (j / m.g) keys
  let row := if failed then zeroRow m.d (valZero false) else fwdRow m (anchorInt i.anc) o.fmt (List.zip zs vals)
  let out := storeVals i o r row.out
  let line := scoreLine e zs.flatten
  ⟨rowBytesOut o r out, if m.save then statRow (i.area k.th i.statTile true) r row.m row.l else [],
   if m.keep then [(gAdd e.scores (j * e.lineStride), line.1)] else [], [],
   out.flags ||| row.flags ||| (if m.keep then line.2 else 0)⟩

/-- The pages of an entry, keys or values, for its charged blocks; other blocks are never read. -/
def entryPages (s : State) (i : Item) (e : Entry) (t : Snap) (v : Bool) : List (List (List Common)) :=
  let p := s.pool (poolOfSlot s t.slot)
  t.entries.mapIdx (fun b w => if chargedBlock i.mode e b then pageRows s p w i.mode.d v else List.replicate 64 [])

/-- The outputs of one entry of ATTN.FWD. -/
def fwdEntry (s : State) (k : Core) (i : Item) (e : Entry) (t : Snap) (st : Nat) : AttnOut :=
  let keys := if st = 0 then entryPages s i e t false else []
  let vals := if st = 0 then entryPages s i e t true else []
  (tabulate (e.rows i.mode.g) (fwdRowOut k i e (st != 0) keys vals)).foldl AttnOut.add ⟨[], [], [], [], 0⟩

/-! ATTN.BWD. -/

/-- The stored score of key `p` in line `j` (R268, R271). -/
def storedScore (e : Entry) (lines : List Byte) (j p : Nat) : Val :=
  (toW (decodeVal .fp32 (ofLeBytes ((lines.drop (j * e.lineStride + 4 * (p - e.kbeg))).take 4)) none)).1

/-- The keys visible to row `j` of an entry. -/
def visibleKeys (i : Item) (e : Entry) (lines : List Byte) (keys vals : List (List (List Common))) (q : List Common) (j : Nat) : List KeyIn :=
  ((List.zip keys vals).mapIdx (fun b kv => (List.zip kv.1 kv.2).mapIdx (fun n x => (e.kbeg + 64 * b + n, x)))).flatten.filterMap (fun x =>
    if visible i.mode e (j / i.mode.g) x.1 then
      some ⟨x.1, if i.stored then (storedScore e lines j x.1, 0) else scoreOf (anchorInt i.anc) (scaleW i) q x.2.1, x.2.1, x.2.2⟩
    else none)

/-- A dQ row, converted once (R85, R269). -/
def dqOut (i : Item) (o : Area) (r : Nat) (x : DqRow) : RowOut :=
  match x with
  | .recs ps => encodePrRow o.fmt (ps.mapIdx (fun c p => (p, i.rndAt r c)))
  | .nan => encodeRow o.fmt (tabulate o.cols (fun c => (valNan, i.rndAt r c)))

/-- Row `j` of an entry in ATTN.BWD. -/
def bwdEntryRow (k : Core) (i : Item) (e : Entry) (lines : List Byte) (keys vals : List (List (List Common))) (j : Nat) : BwdRow :=
  let r := e.qrow + j
  let st := k.rowVals (i.area k.th i.statTile false) r
  let q := commonsOf (k.rowVals (i.area k.th i.qTile false) r)
  bwdRow i.mode.d (anchorInt i.anc) (scaleW i) (st.getD 0 valNan) (st.getD 1 valNan) (st.getD 2 valNan) q
    (commonsOf (k.rowVals (i.area k.th i.tdl false) r)) (visibleKeys i e lines keys vals q j)

/-- The bytes of records. -/
def recBytes (ps : List Praline) : List Byte := (ps.map (fun p => leBytes 16 (prBits p).toNat)).flatten

/-- Where the dK and dV records of a key lie in the region of its entry (R270). -/
def keyAdds (d : Nat) (base : Word) (e : Entry) (x : KeyAdd) : List (Word × List Byte) :=
  let at_ := 16 * d * (x.p - e.kbeg)
  [(gAdd base at_, recBytes x.dk), (gAdd base (16 * d * (e.kend - e.kbeg) + at_), recBytes x.dv)]

/-- The outputs of one entry of ATTN.BWD; a failed entry writes zeros and adds nothing (R273). -/
def bwdEntry (s : State) (k : Core) (i : Item) (lines : List Byte) (base : Word) (e : Entry) (t : Snap) (st : Nat) : AttnOut :=
  let d := i.mode.d
  let o := i.area k.th i.tdo true
  let keys := entryPages s i e t false
  let vals := entryPages s i e t true
  let rows := tabulate (e.rows i.mode.g) (fun j =>
    if st = 0 then bwdEntryRow k i e lines keys vals j else ⟨.recs (List.replicate d prEmpty), [], 0⟩)
  let outs := rows.mapIdx (fun j r => (e.qrow + j, dqOut i o (e.qrow + j) r.dq))
  ⟨(outs.map (fun x => rowBytesOut o x.1 x.2)).flatten, [], [],
   (((rows.map (·.adds)).flatten.foldl mergeAdd []).map (fun x => keyAdds d base e x.2)).flatten,
   foldFlags (rows.map (·.flags)) ||| foldFlags (outs.map (fun x => x.2.flags))⟩

/-! Performing. -/

/-- Key of piece `n` of the score lines of entry `e` among the arrived pieces. -/
def lineKey (e n : Nat) : Nat := e * 2 ^ 32 + n

/-- One piece of stored score lines: read here, or asked for where its page is not resident or on another chip (R271). -/
def State.askLine (s : State) (c : CoreId) (i : Item) (x : CtxId) (n : Nat) (g : Word) (len : Nat) : State :=
  match translate s x g len .read with
  | .ok (.main off) => s.modCore c (fun k => k.modItem i.serial (fun j => { j with got := mapSet j.got n (memBytes s.mem off len) }))
  | .ok (.weight w off) => (s.demand w).request (s.newReq c i.serial x off (some w) len (.crumb n))
  | .ok (.remote h off) => s.askFor c i x askCrumb n h tyRead (len / 16) off 0 []
  | .error _ => s

def numbered {α : Type} (l : List α) : List (Nat × α) := l.mapIdx (fun n x => (n, x))

/-- All pieces of the stored lines, numbered. -/
def storedPieces (i : Item) (es : List Entry) : List (Nat × Word × Nat) :=
  ((numbered es).map (fun e => (numbered (lineAccesses i.mode e.2)).map (fun p => (lineKey e.1 p.1, p.2)))).flatten

/-- The lines of entry `e` as they arrived. -/
def linesOf (i : Item) (e : Nat) : List Byte := ((i.got.filter (fun x => x.1 / 2 ^ 32 == e)).map (·.2)).flatten

/-- A local piece of the stored lines lies in a poisoned frame. -/
def linesPoison (s : State) (x : CtxId) (i : Item) (es : List Entry) : Bool :=
  (storedPieces i es).any (fun p => match translate s x p.2.1 p.2.2 .read with | .ok (.main off) => s.poisoned off p.2.2 | _ => false)

/-- Bytes written at a global address that passed its checks. -/
def State.putGlobal (s : State) (c : CoreId) (i : Item) (x : CtxId) (g : Word) (data : List Byte) : State :=
  (spanPieces 2048 g data.length).foldl (fun s p =>
    let d := (data.drop p.1).take p.2
    match translate s x (gAdd g p.1) p.2 .write with
    | .ok (.main off) => s.request (s.newReq c i.serial x off none p.2 (.write d))
    | .ok (.remote h off) => s.askFor c i x askItem 0 h tyWrite (p.2 / 16) off 0 d
    | _ => s) s

/-- Record adds at a global address, piece by piece. -/
def State.addGlobal (s : State) (c : CoreId) (i : Item) (x : CtxId) (g : Word) (data : List Byte) : State :=
  (spanPieces 32 g data.length).foldl (fun s p => s.sendPiece c (asAtomic i 4) x (gAdd g p.1) ((data.drop p.1).take p.2)) s

/-- STATUS of the entries (Table 8.5); free where the list was changed under the instruction (R258). -/
def State.putStatuses (s : State) (c : CoreId) (i : Item) (changed : Bool) (sts : List Nat) : State :=
  (numbered sts).foldl (fun s x => s.padOut c changed (i.s1.toNat + 32 * x.1 + 3, leBytes 1 x.2)) s

/-- The tiles and areas an attention instruction reads. -/
def attnReadSpans (k : Core) (i : Item) (es : List Entry) : List (Nat × Nat) :=
  let td (d : BitVec 256) := (i.area k.th d false).spans
  td i.qTile ++ (if i.fwd then [] else td i.tdl ++ td i.statTile) ++ [(i.s1.toNat, 32 * attnCount i)]
  ++ (if i.mode.tree then (es.map (fun e => tabulate e.qtok (fun t => (ancestryAt i (e.trow + t), 8)))).flatten else [])

/-- A poisoned word under the tiles read. -/
def attnPoison (k : Core) (i : Item) : Bool :=
  k.tilePoison (i.area k.th i.qTile false) || (!i.fwd && (k.tilePoison (i.area k.th i.tdl false) || k.tilePoison (i.area k.th i.statTile false)))

/-- A write to the span by context `x` waits in the memory network or among the posted stores of a core: nothing orders it
before an instruction that reads the span now (R134, R272). -/
def writePending (s : State) (x : CtxId) (off len : Nat) : Bool :=
  s.net.any (fun r => r.ctx == x && r.wrec.isNone && overlap off len r.off r.len
    && (match r.op with | .write _ | .piece _ _ _ => true | _ => false))
  || s.cores.any (fun e => e.2.runCtx == some x && e.2.posted.any (fun p => p.chip.isNone && overlap off len p.off p.width))

/-- A private frame that an entry reads has an unordered writer: the entry's outputs are undefined (R272). -/
def entryRaces (s : State) (x : CtxId) (i : Item) (e : Entry) (t : Snap) : Bool :=
  let p := s.pool (poolOfSlot s t.slot)
  (chargedPages i e t).any (fun w => !entryRo w && writePending s x (kvFrameAddr p w) (kvFrameBytes p))

/-- The sequencer's reading of the work list or the ancestry tile no longer agrees with what the head read (R258). -/
def listChanged (k : Core) (i : Item) : Bool := attnWords k i != i.chain

/-- The outputs of one entry, `o`; `on`: they are free. The output rows are free as a whole where one overlaps an input, and so
are the statistics (R180). -/
def State.applyEntry (s : State) (c : CoreId) (i : Item) (x : CtxId) (n : Nat) (on padOn statOn : Bool) (o : AttnOut) : State :=
  let s := o.pad.foldl (fun s w => s.padOut c (on || padOn) w) s
  let s := o.stat.foldl (fun s w => s.padOut c (on || statOn) w) s
  let s := o.lines.foldl (fun s w => let r := s.blur on w.2; r.2.putGlobal c i x w.1 r.1) s
  let s := o.adds.foldl (fun s w => let r := s.blur on w.2; r.2.addGlobal c i x w.1 r.1) s
  s.modCore c (fun k => k.modItem i.serial (fun j => { j with
    padOuts := j.padOuts ++ (o.pad ++ o.stat).map (fun w => (n, w.1, w.2.length)),
    globOuts := j.globOuts ++ (o.lines ++ o.adds).map (fun w => (n, w.1, w.2.length)) }))

/-- The outputs of every entry, with the flags. -/
def State.applyOut (s : State) (c : CoreId) (i : Item) (x : CtxId) (es : List Entry) (outs : List (Entry × Snap × AttnOut)) : State :=
  let k := s.core c
  let changed := listChanged k i
  let reads := attnReadSpans k i es
  let meets (ws : List (Nat × List Byte)) := spansMeet reads (ws.map (fun w => (w.1, w.2.length)))
  let padOn := meets (outs.map (fun y => y.2.2.pad)).flatten
  let statOn := meets (outs.map (fun y => y.2.2.stat)).flatten
  let races := outs.map (fun y => entryRaces s x i y.1 y.2.1)
  let s := (numbered (List.zip outs races)).foldl (fun s y => s.applyEntry c i x y.1 (changed || y.2.2) padOn statOn y.2.1.2.2) s
  s.modCore c (fun k => k.raise [.attn] (foldFlags (outs.map (fun y => y.2.2.flags))))

/-- Bytes of a span of this module's memory become free; other chips' are theirs. -/
def State.blurGlobal (s : State) (x : CtxId) (g : Word) (len : Nat) : State :=
  (spanPieces 2048 g len).foldl (fun s p =>
    match translate s x (gAdd g p.1) p.2 .write with
    | .ok (.main off) => let r := s.freeBytes p.2; r.2.write off r.1
    | _ => s) s

/-- Until its token is counted, an attention instruction's outputs turn free where its lists change (R258) or a frame it read
has an unordered writer (R272). -/
def State.attnLate (s : State) (c : CoreId) (x : CtxId) (i : Item) : State :=
  if !isBarrier i.kind || i.padOuts.isEmpty then s else
  let changed := listChanged (s.core c) i
  let races := List.zipWith (entryRaces s x i) (planOf i i.chain) i.snaps
  let late (n : Nat) := changed || races.getD n false
  let s := (i.padOuts.filter (fun w => late w.1)).foldl (fun s w => s.padOut c true (w.2.1, List.replicate w.2.2 0)) s
  let s := (i.globOuts.filter (fun w => late w.1)).foldl (fun s w => s.blurGlobal x w.2.1 w.2.2) s
  if changed then s.putStatuses c i true (List.replicate (attnCount i) 0) else s

/-- The instruction's effect: statuses, outputs, pops, STATUS bytes, flags. -/
def State.attend (s : State) (c : CoreId) (x : CtxId) (i : Item) : State :=
  let k := s.core c
  if attnPoison k i then s.itemBad c i cPoison else
  match k.popAll (popsOf [i.qTile]) with
  | none => s.itemBad c i cCircular
  | some k' =>
    let es := planOf i i.chain
    let sts := statuses s i es i.snaps
    let all := numbered (List.zip (List.zip es i.snaps) (List.zip sts (areaStarts i.mode.d i.s3 es)))
    let outs := all.map (fun y =>
      if i.fwd then fwdEntry s k i y.2.1.1 y.2.1.2 y.2.2.1
      else bwdEntry s k i (linesOf i y.1) y.2.2.2 y.2.1.1 y.2.1.2 y.2.2.1)
    let changed := listChanged k i
    let s := (s.frameErrors i es i.snaps).modTh c (fun _ => k'.th)
    ((s.applyOut c i x es (List.zip es (List.zip i.snaps outs))).putStatuses c i changed sts).performed c i

def execAttnFwd (c : CoreId) (v : Ev F3) (s : State) : Host.Outcome State Fault Refusal :=
  .next (match v with
    | .issue w => s.issueOp c .attnFwd (.f3 w)
    | .run e n b => s.runFor c e n b .attnFwd (fun s x i => s.attend c x i))

/-- STORED: the score lines are read before the rows are computed (R271). -/
def State.loadLines (s : State) (c : CoreId) (x : CtxId) (i : Item) : State :=
  let es := planOf i i.chain
  if linesPoison s x i es then s.itemBad c i cPoison else
  ((storedPieces i es).foldl (fun s p => s.askLine c i x p.1 p.2.1 p.2.2) s).modCore c
    (fun k => k.modItem i.serial (fun j => { j with phase := .held .link }))

/-- The second part of ATTN.BWD in STORED mode, once every line has arrived. -/
def State.finishStored (s : State) (c : CoreId) (e : Engine) (n : Nat) : State :=
  match ((s.core c).queue e)[n]?, (s.core c).runCtx with
  | some i, some x => if s.up && i.kind = .attnBwd && i.phase = .held .link && i.out = 0 then s.attend c x i else s
  | _, _ => s

def execAttnBwd (c : CoreId) (v : Ev F3) (s : State) : Host.Outcome State Fault Refusal :=
  .next (match v with
    | .issue w => s.issueOp c .attnBwd (.f3 w)
    | .run e n b => (s.runFor c e n b .attnBwd (fun s x i => if i.stored then s.loadLines c x i else s.attend c x i)).finishStored c e n)

/-! SORTB. -/

def State.runSort (s : State) (c : CoreId) (i : Item) : State :=
  let k := s.core c
  match headSortb k i with
  | .error b => s.itemBadWalk c i b
  | .ok _ =>
    let n := 8 * sortCount i
    (s.padOut c (overlap i.s1.toNat n i.s3.toNat (n + 64)) (i.s3.toNat, sortOut k i)).performed c i

def execSortb (c : CoreId) (v : Ev F3) (s : State) : Host.Outcome State Fault Refusal :=
  .next (match v with
    | .issue w => s.issueOp c .sortb (.f3 w)
    | .run e n b => s.runItem c e n b .sortb (fun s i => s.runSort c i))

end Sys2Proof.Machine
end

