-- ==== Sys2Proof/Machine/RollCall.lean ====
section
/-! DEFINITION. Roll call on a link: lane training, HELLO, MEASURE, READY, their repeats and limits, and SLEEP from a partner
(spec/14_quaz_links_bell.md R357 to R361, spec/17_power_startup_sleep.md R442, R446, R448). -/
namespace Sys2Proof.Machine

/-- `len` bytes from byte `at_` of a message. -/
def msgField (m : BitVec 1920) (at_ len : Nat) : Nat := bitField m.toNat (8 * (at_ + len) - 1) (8 * at_)

def msgHello : Nat := 1
def msgMeasure : Nat := 2
def msgReady : Nat := 3
def msgBell : Nat := 4
def msgSleep : Nat := 5

/-! The installation record (Table 17.5). -/

/-- PORTp of an installation record. -/
def recordPort (r : List Byte) (p : PortId) : Nat := ofLeBytes ((r.drop (16 + 8 * p.toNat)).take 8)

/-- The record's entry of a port, if the record enables it. -/
def expectOf (s : State) (p : PortId) : Option (List Byte × Nat) :=
  match s.sec.record with
  | some r => if (recordPort r p).testBit 15 then some (r, recordPort r p) else none
  | none => none

/-! Sending. -/

/-- Module serial and identity digest (Table 18.4, R459). -/
def moduleSerial (s : State) : List Byte := padTo 16 ((s.sec.identity.drop 12).take 16)
def identityDigest (s : State) : List Byte := shake256 s.sec.identity 64

/-- The module shows BELL_LOCKED to its partners (R371). -/
def bellFlags (s : State) : Nat := s.bellRoot.toNat + (s.bellState == .locked).toNat * 2

/-- The HELLO of a port (Table 14.7). -/
def helloBytes (s : State) (p : PortId) : List Byte :=
  let q := s.port p
  leBytes 2 msgHello ++ leBytes 1 1 ++ leBytes 1 p.toNat ++ leBytes 2 s.chipId.toNat ++ leBytes 1 0xA1
  ++ leBytes 1 (bellFlags s + q.resume.toNat * 4) ++ leBytes 1 q.prop.toNat ++ leBytes 1 q.lanes
  ++ leBytes 2 (if q.resume then q.rxLast.toNat else 0) ++ leBytes 2 3 ++ leBytes 2 0
  ++ moduleSerial s ++ identityDigest s

/-- A time stamp in 1/64 ns. -/
def stamp64 (t : Stamp) : Nat := 64 * t.ns.toNat + t.frac.toNat

/-- MEASURE or BELL sent at `tx` (Table 14.8). -/
def timeBytes (s : State) (p : PortId) (msg index tx : Nat) : List Byte :=
  let q := s.port p
  let stampBytes (t : Nat) : List Byte := leBytes 8 (t / 64) ++ leBytes 1 (t % 64)
  leBytes 2 msg ++ leBytes 2 index ++ stampBytes tx ++ leBytes 3 0 ++ stampBytes q.echoTx ++ leBytes 7 0 ++ stampBytes q.echoRx
  ++ leBytes 1 (bellFlags s)

/-- The credit window for a length, in units of 16 KiB (R355). -/
def windowUnits (dm : Nat) : Nat := ceilDiv (400 * (dm + 640)) 16384

/-- READY (R361). -/
def readyBytes (q : Port) : List Byte :=
  let w := leBytes 1 (windowUnits q.lengthDm)
  leBytes 2 msgReady ++ leBytes 1 q.session.toNat ++ leBytes 1 0 ++ w ++ w ++ w ++ w ++ leBytes 2 q.lengthDm ++ leBytes 2 q.rxLast.toNat

/-- KIND of a CONTROL flit. -/
def kindControl : Nat := 2

/-- A CONTROL flit leaves a port. -/
def State.sendControl (s : State) (p : PortId) (payload : List Byte) : State :=
  s.modPort p (fun q =>
    let c := takeCredit q
    { c.2.2 with lastMsg := payload,
                 sent := c.2.2.sent ++ [flitBytes kindControl 0 q.rxLast q.nak c.1 c.2.1 q.session 0 payload] })

def State.sendHello (s : State) (p : PortId) : State := s.sendControl p (helloBytes s p)
def State.sendReady (s : State) (p : PortId) : State := s.sendControl p (readyBytes (s.port p))

/-- MEASURE or BELL leaves with its send stamp: the bell's nanosecond; the fraction below it is free (log 5). -/
def State.sendTimed (s : State) (p : PortId) (msg index : Nat) : State :=
  let f := s.free
  f.2.sendControl p (timeBytes s p msg index (64 * s.bell + f.1.toNat % 64))

/-! The stages. -/

/-- The lanes lock on all 16, or on lanes 0 to 7 with HALF_OK (R344). -/
def lanesOk (q : Port) (n : Nat) : Bool := n == 16 || (n == 8 && q.halfOk)

/-- The port may train: it is TRAINING, or DOWN after its partner slept (R442). -/
def mayTrain (q : Port) : Bool := q.inService && q.en && (q.state == .training || (q.state == .down && q.sleeping.isSome))

/-- PROP of a roll call: 8 random bits after reset, then one more each time (R358). -/
def State.nextProp (s : State) (p : PortId) : State :=
  if (s.port p).firstProp then
    let f := s.free
    f.2.modPort p (fun q => { q with prop := f.1.setWidth 8, firstProp := false })
  else s.modPort p (fun q => { q with prop := q.prop + 1 })

/-- LANE_TRAINING: lanes lock and align, and HELLO begins (R357). A partner back from Doze resumes the stream, one back from
Hibernate does not (R440, R441). -/
def execLaneTraining (p : PortId) (lanes : BitVec 5) (s : State) : Host.Outcome State Fault Refusal :=
  .next (
    let q := s.port p
    if !s.linkUp || !mayTrain q then s else
    let s := if q.state == .down then s.modPort p (fun q => q.retrain (q.sleeping == some 3) s.bell) else s
    if !lanesOk q lanes.toNat then s.portFail p failLanes lanes.toNat 0
    else
      let s := s.modPort p (fun q => { q with state := .rollCall, lanes := lanes.toNat, partnerRoot := false, partnerLocked := false,
                                              echoTx := 0, echoRx := 0, good := 0 })
      (s.nextProp p).sendHello p)

/-! Received CONTROL flits: the header of Table 14.2 in `h`, the payload in `msg`. -/

/-- The session of a port is fixed, so that a flit of another is stale: from HELLO on (R347, R358, log 85). -/
def sessionFixed (q : Port) (hello : Bool) : Bool := q.state == .up || (q.state == .rollCall && q.helloSeen && !hello)

/-- A CONTROL flit with a message of a kind: discarded if its session is wrong, else an UP port takes the ACK, NAK and credits of
its header, and the message has its effect (R346, R347, R355). -/
def State.onControl (s : State) (p : PortId) (h : BitVec 64) (kind : Nat) (msg : BitVec 1920) (body : State → State) : State :=
  let q := s.port p
  if !s.linkUp || h.toNat % 4 ≠ kindControl || msgField msg 0 2 ≠ kind || !(q.state == .up || q.state == .rollCall) then s
  else if sessionFixed q (kind == msgHello) && fieldOf h 44 37 ≠ q.session.toNat then s.flitStale p
  else if q.state = .up then body (s.applyAck p h.toNat).bellCheck
  else body s

/-- The partner fails the check of PORTp (R448). -/
def rcPartnerBad (s : State) (p : PortId) (msg : BitVec 1920) : Bool :=
  match expectOf s p with
  | none => false
  | some (r, e) =>
    let want := ofLeBytes ((r.drop 8).take 2)
    decide (msgField msg 4 2 ≠ bitField e 11 0) || decide (msgField msg 3 1 ≠ bitField e 14 12)
    || decide (msgField msg 6 1 < ofLeBytes ((r.drop 7).take 1)) || decide (Nat.land want (msgField msg 12 2) ≠ want)

/-- The partner differs from EXPECT (R358). -/
def expectBad (q : Port) (msg : BitVec 1920) : Bool :=
  q.expectEn && (decide (msgField msg 4 2 ≠ q.expectChip.toNat) || decide (msgField msg 3 1 ≠ q.expectPort.toNat))

/-- The session of a pair of proposals; a kept session raises the own PROP once more (R358). -/
def agreeSession (q : Port) (partner : BitVec 8) : Port :=
  let n := q.prop + partner
  if q.kept = some n then { q with prop := q.prop + 1, session := n + 1 } else { q with session := n }

/-- HELLO (R358). A stream goes on only if both sides resume (R367). -/
def State.hello (s : State) (p : PortId) (msg : BitVec 1920) : State :=
    let q := s.port p
    if q.state != .rollCall || q.mismatch || msgField msg 2 1 ≠ 1 then s else
    let prop := BitVec.ofNat 8 (msgField msg 8 1)
    let again := q.helloSeen && q.partnerProp == prop
    let s := s.setPort p { q with
      partnerChip := BitVec.ofNat 12 (msgField msg 4 2), partnerPort := BitVec.ofNat 3 (msgField msg 3 1),
      helloRev := BitVec.ofNat 8 (msgField msg 6 1), helloCap := BitVec.ofNat 16 (msgField msg 12 2),
      partnerProp := prop, partnerRx := BitVec.ofNat 12 (msgField msg 10 2) }
    if expectBad q msg || rcPartnerBad s p msg then
      let s := s.modPort p (fun q => { q with mismatch := true, rcPort := false })
      if rcPartnerBad s p msg then
        s.notice (p.getLsbD 0).toNat 0x000D p.toNat
          (leBytes 2 (msgField msg 4 2) ++ leBytes 1 (msgField msg 3 1) ++ leBytes 1 (msgField msg 6 1) ++ leBytes 2 (msgField msg 12 2))
      else s
    else if again then s.sendHello p
    else
      let resume := q.resume && (msgField msg 7 1).testBit 2
      let s := if resume then s else s.dropReplay p
      let s := s.modPort p (fun q => { agreeSession q prop with helloSeen := true, resume := resume, rcPort := true })
      let s := if (s.port p).prop = q.prop then s else s.sendHello p
      s.sendTimed p msgMeasure 0

def execHello (p : PortId) (msg : ControlFlit) (s : State) : Host.Outcome State Fault Refusal :=
  .next (s.onControl p msg.head msgHello msg.payload (fun s => s.hello p msg.payload))

/-- The length in 0.1 m of 64 round trips: their mean less 76.0 ns, 1 ns to 0.1 m; which way a tie rounds is open (log 5). -/
def lengthOf (sum : Int) (tie : Bool) : Int :=
  let x := sum - 76 * 4096
  if x % 4096 = 2048 ∧ !tie then x / 4096 else (x + 2048) / 4096

/-- All 64 exchanges are complete: the length, its checks, and READY (R360, R361, R448). -/
def State.measured (s : State) (p : PortId) : State :=
  let f := s.free
  let s := f.2
  let l := lengthOf (s.port p).rttSum (f.1.getLsbD 0)
  if l < 3 ∨ 1000 < l then s.portFail p failLength (s.port p).lanes (l.toNat % 2 ^ 16)
  else
    let ok := match expectOf s p with
      | some (_, e) => decide ((l - (bitField e 25 16 : Nat)).natAbs ≤ 10)
      | none => true
    let s := s.modPort p (fun q => { q with lengthDm := l.toNat, readySent := true, rcLength := ok })
    let s := match expectOf s p with
      | some (_, e) => if ok then s else s.notice (p.getLsbD 0).toNat 0x000E p.toNat (leBytes 2 l.toNat ++ leBytes 2 (bitField e 25 16))
      | none => s
    s.sendReady p

/-- The stamps of MEASURE and BELL, in 1/64 ns. -/
def msgStamp (msg : BitVec 1920) (at_ : Nat) : Nat := 64 * msgField msg at_ 8 + msgField msg (at_ + 8) 1 % 64

/-- RTT of an exchange (R360). -/
def rttOf (t1 t2 t3 t4 : Nat) : Int := ((t4 : Int) - t1) - ((t3 : Int) - t2)

/-- Twice the offset of an exchange (R360). -/
def theta2Of (t1 t2 t3 t4 : Nat) : Int := ((t2 : Int) - t1) - ((t4 : Int) - t3)

/-- MEASURE: an answer completes an exchange; a port answers while either side has exchanges to go (R357, R360). -/
def State.measure (s : State) (p : PortId) (msg : BitVec 1920) (at4 : Stamp) : State :=
    let q := s.port p
    if q.state != .rollCall || !q.helloSeen then s else
    let t1 := msgStamp msg 16
    let t3 := msgStamp msg 4
    let done := decide (t1 ≠ 0) && decide (q.exchanges < 64)
    let q' : Port := { q with echoTx := t3, echoRx := stamp64 at4 }
    let q' : Port := if done then { q' with exchanges := q.exchanges + 1, rttSum := q.rttSum + rttOf t1 (msgStamp msg 32) t3 (stamp64 at4) } else q'
    let s := s.setPort p q'
    let s := if decide (q'.exchanges < 64) || decide (msgField msg 2 2 < 64) then s.sendTimed p msgMeasure q'.exchanges else s
    if done && q'.exchanges == 64 then s.measured p else s

def execMeasure (p : PortId) (msg : ControlFlit) (at4 : Stamp) (s : State) : Host.Outcome State Fault Refusal :=
  .next (s.onControl p msg.head msgMeasure msg.payload (fun s => s.measure p msg.payload at4))

/-- A port goes UP: its window, and the stream resumed after the partner's RX_LAST or started anew (R355, R361, R367). -/
def Port.goUp (q : Port) (w : Vector Nat 4) (rx : BitVec 12) : Port :=
  let q : Port := { q with state := .up, window := w, credit := w, owe := .replicate 4 0, nak := false, kept := some q.session,
                           sleeping := none, sleepSent := false, replayCount := 0, lostLock := false }
  if q.resume then ({ q with resume := false }.acked rx).resend
  else { q with nextSeq := 0, rxLast := 0xFFF, replay := [], partIn := [], partLeft := 0 }

/-- READY: with matching sessions the port goes UP; while LNK_CHIP_ID is not VALID it stays in ROLL_CALL (R357, R361, R366). -/
def State.ready (s : State) (p : PortId) (msg : BitVec 1920) : State :=
    let q := s.port p
    if q.state != .rollCall || !q.readySent || msgField msg 2 1 ≠ q.session.toNat || !s.chipValid then s
    else
      let w (i : Nat) : Nat := 1024 * msgField msg (4 + i) 1
      let s := s.sendReady p
      let s := s.modPort p (fun q => q.goUp #v[w 0, w 1, w 2, w 3] (BitVec.ofNat 12 (msgField msg 10 2)))
      (s.pump p).bellCheck

def execReady (p : PortId) (msg : ControlFlit) (s : State) : Host.Outcome State Fault Refusal :=
  .next (s.onControl p msg.head msgReady msg.payload (fun s => s.ready p msg.payload))

/-- MESSAGE_REPEAT: the message of the stage is sent again (R357). -/
def execMessageRepeat (p : PortId) (s : State) : Host.Outcome State Fault Refusal :=
  .next (
    let q := s.port p
    if !s.linkUp || q.state != .rollCall || q.mismatch then s
    else if !q.helloSeen then s.sendHello p
    else if q.exchanges < 64 then s.sendTimed p msgMeasure q.exchanges
    else s.sendReady p)

/-- ROLL_CALL_TIMEOUT: a stage misses its limit (R357). Before its first HELLO since reset a port goes on training (R447 row 8);
a port held in ROLL_CALL stays there (R358, R366). -/
def execRollCallTimeout (p : PortId) (s : State) : Host.Outcome State Fault Refusal :=
  .next (
    let q := s.port p
    if !s.linkUp then s else
    match q.state with
    | .training => if q.firstProp then s else s.portFail p failLanes q.lanes 0
    | .rollCall =>
      if q.mismatch || !s.chipValid then s
      else if !q.helloSeen then s.portFail p failHello q.lanes 0
      else if q.exchanges < 64 then s.portFail p failMeasure q.lanes 0
      else s.portFail p failReady q.lanes 0
    | _ => s)

/-- SLEEP from a partner: the port drains its acknowledgements, goes DOWN and holds its queue (R442). -/
def State.partnerSleeps (s : State) (p : PortId) (msg : BitVec 1920) : State :=
    let q := s.port p
    let st := msgField msg 2 1
    if q.state != .up || !(st == 3 || st == 4) then s
    else
      (s.setPort p { q with sleeping := some (BitVec.ofNat 8 st), state := if q.replay.isEmpty then .down else .up }).bellCheck

def execSleep (p : PortId) (msg : ControlFlit) (s : State) : Host.Outcome State Fault Refusal :=
  .next (s.onControl p msg.head msgSleep msg.payload (fun s => s.partnerSleeps p msg.payload))

end Sys2Proof.Machine
end

