-- ==== Sys2Proof/Machine/Bell.lean ====
section
/-! DEFINITION. The bell: exchanges, steering and the lock (spec/14_quaz_links_bell.md R369 to R373). -/
namespace Sys2Proof.Machine

/-- BELL_EXCHANGE_TIMER: an UP port sends a BELL message (R370). -/
def execBellExchangeTimer (p : PortId) (s : State) : Host.Outcome State Fault Refusal :=
  .next (
    if !s.linkUp || (s.port p).state != .up then s
    else (s.sendTimed p msgBell (s.port p).index.toNat).modPort p (fun q => { q with index := q.index + 1 }))

/-- 1.5 ns as twice an offset in 1/64 ns (R371). -/
def lockBound : Nat := 192

/-- Sum of twice the offsets over the ports that count. -/
def thetaSum (qs : List Port) : Int := (qs.map (·.theta)).sum

/-- The largest offset of the last exchanges, 1/64 ns (Table 14.12). -/
def thetaMax (qs : List Port) : Nat := (qs.map (fun q => q.theta.natAbs / 2)).foldl max 0

/-- The steering rate toward a mean offset, in 1/16 ppm: the offset over the time constant of 40 us, 25 ppm a nanosecond, within
1 000 ppm (R370, log 90); `sum` is twice the offsets of `n` ports in 1/64 ns. Which way a sixteenth rounds is open: `up` (log 5). -/
def steerRate (up : Bool) (sum : Int) (n : Nat) : Int :=
  let x := 400 * sum
  let d : Int := 128 * n
  let r := x / d + (if up && decide (x % d ≠ 0) then 1 else 0)
  max (-16000) (min 16000 r)

/-- The first step toward eligible partners: forward by the whole nanoseconds of a positive mean; slewing at -1 000 ppm for a
negative one (R370). -/
def State.firstStep (s : State) (qs : List Port) : State :=
  let mean := thetaSum qs / (128 * (qs.length : Int))
  let s : State := { s with bellStepped := true, bellState := .locking }
  if thetaSum qs < 0 then { s with bellRate := -16000, bellSlew := true } else { s with bell := s.bell + mean.toNat }

/-- The lock state after an exchange (R371). -/
def State.lockState (s : State) (qs : List Port) : State :=
  match s.bellState with
  | .locked => if qs.all (fun q => decide (q.theta.natAbs ≤ lockBound)) then s
               else { s with bellState := .locking, bellLost := satAdd 0xFF s.bellLost 1 }
  | .free => { s with bellState := .locking }
  | _ => if qs.all (fun q => decide (64 ≤ q.good)) then { s with bellState := .locked } else { s with bellState := .locking }

/-- The rate of an exchange: a slew toward a negative first offset goes on until the offset is no longer negative (R370). -/
def State.setRate (s : State) (qs : List Port) : State :=
  let f := s.free
  let slew := s.bellSlew && decide (thetaSum qs < 0)
  { f.2 with bellSlew := slew, bellRate := if slew then -16000 else steerRate (f.1.getLsbD 0) (thetaSum qs) qs.length }

/-- The bell is steered toward the mean offset of the eligible ports (R370). -/
def State.steer (s : State) : State :=
  let qs := eligiblePorts s
  if s.bellRoot then { s with bellMax := thetaMax ((allPorts.map s.port).filter (fun q => q.state == .up)) }
  else if qs.isEmpty then s
  else
    let s := ({ s with bellMax := thetaMax qs } : State).setRate qs
    (if s.bellStepped then s else s.firstStep qs).lockState qs

/-- BELL_MESSAGE: the offset is measured, the bell steered and the lock state updated (R360, R370, R371). -/
def State.bellHeard (s : State) (p : PortId) (msg : BitVec 1920) (at4 : Stamp) : State :=
    let q := s.port p
    if q.state != .up then s else
    let t1 := msgStamp msg 16
    let t3 := msgStamp msg 4
    let theta := if t1 = 0 then q.theta else theta2Of t1 (msgStamp msg 32) t3 (stamp64 at4)
    let fl := msgField msg 41 1
    let s := s.setPort p { q with
      echoTx := t3, echoRx := stamp64 at4, theta := theta,
      good := if t1 = 0 then q.good else if theta.natAbs ≤ lockBound then min 64 (q.good + 1) else 0,
      partnerRoot := fl.testBit 0, partnerLocked := fl.testBit 1 }
    (if t1 = 0 then s else s.steer).bellCheck

def execBellMessage (p : PortId) (msg : ControlFlit) (at4 : Stamp) (s : State) : Host.Outcome State Fault Refusal :=
  .next (s.onControl p msg.head msgBell msg.payload (fun s => s.bellHeard p msg.payload at4))

def bellSetOffset : Nat := 0x0400018

/-- BELL_SET: on the root in FREE the bell steps forward; any other write is ignored with a notice (R373). -/
def execBellSet (v : Word) (s : State) : Host.Outcome State Fault Refusal :=
  .next (
    if !s.up then s
    else if s.bellRoot && s.bellState == .free && decide (s.bell ≤ v.toNat) then { s with bell := v.toNat }
    else s.reservedWrite bellSetOffset v)

end Sys2Proof.Machine
end

