-- ==== Sys2Proof/Machine/Branch.lean ====
section
/-! DEFINITION. Branches and calls (spec/07_akaux_control_memory.md R153, R154). -/
namespace Sys2Proof.Machine

/-- The program counter of a core's thread becomes `t`. -/
def State.jump (s : State) (c : CoreId) (t : Word) : State := s.modTh c (fun k => { k with pc := t })

/-- A jump to an indirect target; a misaligned one faults at the branch (R154). -/
def State.jumpChecked (s : State) (c : CoreId) (target : Word) (f : Thread → Thread) : State :=
  if target &&& 7 != 0 then s.fault c cAlignment (s.core c).th.pc []
  else s.modTh c (fun t => { f t with pc := target })

/-- BR, minor opcode 0. -/
def execBr (c : CoreId) (f : F1) (s : State) : Host.Outcome State Fault Refusal :=
  .next (s.issue c f.guard (f.d != 0 || f.a != 0 || f.kt != 0 || minorReserved f) 1 (fun s => s.jump c (relTarget (s.core c).th.pc f.imm)))

/-- BR, minor opcode 1. -/
def execBrIndirect (c : CoreId) (f : F1) (s : State) : Host.Outcome State Fault Refusal :=
  .next (s.issue c f.guard (f.d != 0 || f.kt != 0 || minorReserved f) 1 (fun s => s.jumpChecked c (f1Addr f (s.core c).th) id))

/-- BRC: the condition code stands in the minor opcode, and D is a source. -/
def execBrc (c : CoreId) (f : F1) (s : State) : Host.Outcome State Fault Refusal :=
  .next (s.issue c f.guard (f.kt != 0 || decide (6 ≤ f.sub.toNat)) 1 (fun s =>
    let t := (s.core c).th
    if condHolds f.sub.toNat (t.s f.d) (t.s f.a) then s.jump c (relTarget t.pc f.imm) else s.modTh c (·.skip 1)))

/-- CALL, minor opcode 0. -/
def execCall (c : CoreId) (f : F1) (s : State) : Host.Outcome State Fault Refusal :=
  .next (s.issue c f.guard (f.a != 0 || f.kt != 0 || minorReserved f) 1 (fun s =>
    s.modTh c (fun t => { t.setS f.d (t.pc + 8) with pc := relTarget t.pc f.imm })))

/-- CALL, minor opcode 1: the target uses s[A] before the write. -/
def execCallIndirect (c : CoreId) (f : F1) (s : State) : Host.Outcome State Fault Refusal :=
  .next (s.issue c f.guard (f.kt != 0 || minorReserved f) 1 (fun s =>
    s.jumpChecked c (f1Addr f (s.core c).th) (fun t => t.setS f.d (t.pc + 8))))

/-- RET. -/
def execRet (c : CoreId) (f : F0) (s : State) : Host.Outcome State Fault Refusal :=
  .next (s.issue c f.guard (f.d != 0 || f.b != 0 || f.c != 0 || f.x != 0 || f.sub != 0 || f.kt != 0) 1 (fun s =>
    s.jumpChecked c ((s.core c).th.s f.a) id))

end Sys2Proof.Machine
end

