-- ==== Sys2Proof/Machine/Heads.lean ====
section
/-! DEFINITION. Engine instructions at the head of their queues: the checks, the waits, hall passes, claims and the start
(spec/05_cores_arrays_scratchpad.md R88 to R90, R101, R110 to R115, spec/06_akaux_programming_model.md R123, R136,
spec/09_fused_chains.md R228, R235, spec/12_kv_pages_prefix.md R284 to R286, R294). -/
namespace Sys2Proof.Machine

/-! The checks at the head. -/

/-- The steps of an instruction at its head, or the fault of its first failing check. -/
def headCheck (s : State) (k : Core) (x : CtxId) (i : Item) : Except Bad Nat :=
  match i.kind with
  | .aadd | .amax => headAtomic s k x i
  | .circSet => headCircSet i
  | .circAdv => .ok 1
  | .crumbGet => headCrumbGet s k x i
  | .bulkGet | .bulkPut => headBulk s k x i
  | .send => headSend s k x i
  | .rsum => headRsum s k x i
  | .bcast => headBcast s k x i
  | .kvAlloc | .kvFree => headKvReq s x i
  | .ptEdit => headPtEdit s x i
  | .pfxLookup | .pfxInsert => headPfx s k x i
  | .pfxRelease => headRelease k x i
  | .mm | .mmAcc | .pralineSpill => (headArray k i).mapError bad
  | .vop => (headVop k i).mapError bad
  | .softmax => (headSoftmax k i).mapError bad
  | .convert => (headConvert k i).mapError bad
  | .transpose => (headTranspose k i).mapError bad
  | .tallyClose => (headTallyClose k i).mapError bad
  | .norm => (headNorm k i).mapError bad
  | .attnFwd | .attnBwd => if i.chain.isEmpty then headAttn s k x i else .ok i.steps
  | .sortb => headSortb k i

/-- The descriptors an instruction reads through, and those it writes through. -/
def insOf (i : Item) : List (BitVec 256) :=
  match i.kind with
  | .mm | .mmAcc | .pralineSpill => arrayIns i
  | .vop => vopIns i
  | .softmax | .convert | .transpose | .bulkPut | .send | .rsum | .bcast => [i.tdl]
  | .norm => normIns i
  | .attnFwd | .attnBwd => [i.qTile]
  | _ => []

def outsOf (i : Item) : List (BitVec 256) :=
  match i.kind with
  | .bulkGet | .mm | .mmAcc | .pralineSpill | .vop | .softmax | .convert | .transpose | .tallyClose | .norm | .attnFwd | .attnBwd => [i.tdo]
  | _ => []

/-- The regions of descriptors that name one. -/
def regionsOf (ds : List (BitVec 256)) : List (BitVec 4) := (ds.filter (fun d => (tileOf d).circEn)).map (fun d => (tileOf d).circ)

/-! What a head waits for. -/

/-- An empty input region, an output region with no slot for it, or a region that CIRC.SET must see filled (R110, R111, R113). -/
def regionWait (k : Core) (i : Item) : Option Why :=
  match (regionsOf (insOf i)).find? (fun r => (k.th.circ r).empty) with
  | some r => some (.circEmpty r)
  | none =>
    match (regionsOf (outsOf i)).find? (fun r => k.noSlot r (some i.serial)) with
    | some r => some (.circFull r)
    | none => if i.kind = .circSet && (k.th.circ (circRegion i)).filling then some (.circEmpty (circRegion i)) else none

/-- Records not yet closed that the instruction waits on (R193, R195, R228). -/
def tallyWait (k : Core) (i : Item) : Bool :=
  match i.kind with
  | .mm => !pnormReady k i (tileOf i.tdl).rows
  | .tallyClose => !tallyReady k i (tileOf i.tdo).rows
  | .norm => !tallyReady k i (tileOf i.tdl).rows
  | _ => false

/-- A commit under way holds the instruction (R294). -/
def commitWait (s : State) (k : Core) (x : CtxId) (i : Item) : Bool :=
  match i.kind with
  | .ptEdit => match slotFor s x i.s1 with | some n => commitTouches s n | none => false
  | .pfxLookup | .pfxInsert => pfxWaits s x (some (BitVec.ofNat 14 (pfxAt k i.s1.toNat).slot))
  | .pfxRelease => pfxWaits s x none
  | _ => false

def headWait (s : State) (k : Core) (x : CtxId) (i : Item) : Option Why :=
  if commitWait s k x i then some .commit
  else match regionWait k i with
    | some w => some w
    | none => if tallyWait k i then some .tally else none

/-! The start. -/

/-- Slots claimed and slots read (R111, R113). -/
def claimsOf (k : Core) (i : Item) : List (BitVec 4 × BitVec 16) := (regionsOf (outsOf i)).map (fun r => (r, (k.th.circ r).claim))
def readsOf (k : Core) (i : Item) : List (BitVec 4 × BitVec 16) := (regionsOf (insOf i)).map (fun r => (r, (k.th.circ r).head))

/-- The schedule check of an array instruction on the slots it will use: the bank in conflict (R101). -/
def scheduleBad (k : Core) (i : Item) : Option Nat :=
  if isArrayKind i.kind then bankConflict (streamsOf (i.area k.th i.tdl false) (i.area k.th i.tdr false) (isPair i)) (isPair i) else none

/-- The schedule check of fixed operands at the head, and of operands in regions once their slots are readable, whatever else
the instruction waits for (R101, R240). -/
def scheduleEarly (k : Core) (i : Item) : Option Nat :=
  if (regionsOf (insOf i)).any (fun r => (k.th.circ r).empty) then none else scheduleBad k { i with reads := readsOf k i }

/-- The instruction waits at its head; for a slot it stands in line (R42, R43). -/
def State.park (s : State) (c : CoreId) (i : Item) (w : Why) : State :=
  s.modCore c (fun k =>
    let k := k.modItem i.serial (fun j => { j with phase := .waiting w })
    match w with
    | .circFull r => k.lineUp r (some i.serial)
    | _ => k.leaveLine (some i.serial))

/-- The instruction starts: it claims its slots and begins its steps. -/
def State.begin (s : State) (c : CoreId) (i : Item) : State :=
  let k := s.core c
  let j : Item := { i with claims := claimsOf k i, reads := readsOf k i }
  match scheduleBad k j with
  | some b => s.itemFaults c i cBank [0, 0, BitVec.ofNat 8 b]
  | none =>
  let s := (regionsOf (outsOf i)).foldl (fun s r => s.modCirc c r Circ.take) s
  s.modCore c (fun k => (k.leaveLine (some i.serial)).modItem i.serial (fun t => { t with phase := .started, claims := j.claims, reads := j.reads }))

/-- The start once every other wait is over; a region may have changed meanwhile. -/
def State.beginOrPark (s : State) (c : CoreId) (n : Nat) : State :=
  match (s.core c).item n with
  | none => s
  | some i => match regionWait (s.core c) i with | some w => s.park c i w | none => s.begin c i

/-! Hall passes (R284, R285). -/

/-- The format of Q. -/
def qFmt (i : Item) : Fmt := (fmtOfCode (tileOf i.qTile).fmt).getD .fp32

/-- A reader with the pass of its next entry reads that entry and goes on; it waits where the next pass is not open. `granted`:
the pass of the next entry has just been given to it. -/
def State.readPasses (c : CoreId) (x : CtxId) (n : Nat) : (fuel : Nat) → (given : Bool) → State → State
  | 0, _, s => s
  | f + 1, given, s =>
    match (s.core c).item n with
    | none => s
    | some i =>
      match (planOf i i.chain)[i.stage]? with
      | none => s.beginOrPark c n
      | some e =>
        match slotFor s x (BitVec.ofNat 64 e.slot) with
        | none => s.itemBad c i cTranslation
        | some sl =>
          if given || passNow (s.slot sl) false then
            match s.snapshot x i (qFmt i) e with
            | .error cause => s.itemBad c i cause
            | .ok (s, t) => State.readPasses c x n f false (s.keepSnap c i t)
          else (s.modSlot sl (·.queue ⟨some (c, n), false⟩)).park c i (.hall sl)

/-- The slot whose pass an editing instruction takes; none where it takes none (R285, R286, R301). -/
def editSlot (s : State) (k : Core) (x : CtxId) (i : Item) : Option SlotId :=
  match i.kind with
  | .ptEdit =>
    match slotFor s x i.s1 with
    | some n => if editFree s (editOf n i) then none else some n
    | none => none
  | .pfxInsert => some (BitVec.ofNat 14 (pfxAt k i.s1.toNat).slot)
  | _ => none

/-- Pass of an editor, readers' passes, or neither; then the start. -/
def State.passesThenBegin (s : State) (c : CoreId) (x : CtxId) (i : Item) : State :=
  if isBarrier i.kind then State.readPasses c x i.serial (attnCount i + 1) false s
  else
    match editSlot s (s.core c) x i with
    | none => s.begin c i
    | some n =>
      let p : Passer := ⟨some (c, i.serial), true⟩
      if passNow (s.slot n) true then (s.modSlot n (·.hold p)).begin c i
      else (s.modSlot n (·.queue p)).park c i (.hall n)

/-- What the head fixes: the step count, and for attention the words it read (R179, R258). -/
def fixHead (k : Core) (steps : Nat) (i : Item) : Item :=
  { i with steps := steps, chain := if isBarrier i.kind && i.chain.isEmpty then attnWords k i else i.chain }

/-- An instruction at its head is checked, waits, or starts (R123, R136). -/
def State.tryStart (s : State) (c : CoreId) (x : CtxId) (i : Item) : State :=
  let k := s.core c
  match headCheck s k x i with
  | .error b => s.itemBadWalk c i b
  | .ok steps =>
    if 2 ^ 20 < steps then s.itemBad c i cStepLimit else
    let i' := fixHead k steps i
    let s := s.modCore c (fun k => k.modItem i.serial (fixHead (s.core c) steps))
    match scheduleEarly k i' with
    | some b => s.itemFaults c i' cBank [0, 0, BitVec.ofNat 8 b]
    | none =>
    match headWait s k x i' with
    | some w => s.park c i' w
    | none => s.passesThenBegin c x i'

/-! Which instruction is at the head of an engine. -/

/-- An earlier instruction no longer occupies its engine. -/
def engineDone (i : Item) : Bool :=
  match i.phase with
  | .performed | .finished | .held .link => true
  | _ => false

/-- The first instruction of a queue that has not started, if nothing before it occupies the engine. -/
def frontOf : List Item → Option Item
  | [] => none
  | i :: t =>
    match i.phase with
    | .queued | .waiting _ => some i
    | _ => if engineDone i then frontOf t else none

/-- Instructions of the arrays and the SFU. -/
def arrayAndSfu (k : Core) : List Item := k.queue .arrayA ++ k.queue .arrayB ++ k.queue .sfu

/-- R90: attention owns the arrays and the SFU until it completes: it runs beside none of their instructions, nor beside another
attention instruction. -/
def barrierClear (k : Core) (i : Item) : Bool :=
  if isBarrier i.kind then (arrayAndSfu k ++ (k.queue .attn).filter (fun j => isBarrier j.kind)).all (fun j => decide (i.serial ≤ j.serial) || j.phase == .finished)
  else match engineOf i.kind with
    | .arrayA | .sfu => (k.queue .attn).all (fun j => !isBarrier j.kind || decide (i.serial < j.serial) || j.phase == .finished)
    | _ => true

/-- The instruction at the head of engine `e` that may start (R89, R90, R96). -/
def headOf (k : Core) (e : Engine) : Option Item :=
  match frontOf (k.queue e) with
  | none => none
  | some i =>
    let both := !isPair i || (frontOf (k.queue (otherArray e))).any (fun j => j.serial == i.serial)
    if both && barrierClear k i then some i else none

/-- The engines of a core act for a running thread that is not being stopped (R135). -/
def engineActs (s : State) (c : CoreId) : Bool :=
  let k := s.core c
  s.up && k.inService && k.stop.isNone && k.runCtx.isSome

/-- The head of an engine that meets `p` is tried. -/
def State.tryHead (s : State) (c : CoreId) (e : Engine) (p : Item → Bool) : State :=
  match headOf (s.core c) e, (s.core c).runCtx with
  | some i, some x => if engineActs s c && p i then s.tryStart c x i else s
  | _, _ => s

/-- ENGINE_START; `bad` is what the code finds at a scratchpad word read for the checks (R105, R136). -/
def execEngineStart (c : CoreId) (e : Engine) (bad : Option (Nat × Ecc)) (s : State) : Host.Outcome State Fault Refusal :=
  .next (
    if !engineActs s c || (headOf (s.core c) e).isNone then s else
    (s.spadFound c bad).tryHead c e (fun i => i.phase == .queued || i.phase == .waiting .commit))

/-- A record an instruction waits on has become poisoned: the next read of it faults (R106, R226, R235). -/
def tallyPoison (k : Core) (i : Item) : Bool :=
  match i.kind with
  | .mm => pnormPoison k i (tileOf i.tdl).rows
  | .tallyClose => k.padPoison i.s1.toNat (64 * (tileOf i.tdo).rows)
  | .norm => k.padPoison i.s1.toNat (64 * (tileOf i.tdl).rows)
  | _ => false

/-- TALLY_WAIT_END (R235). -/
def execTallyWaitEnd (c : CoreId) (e : Engine) (s : State) : Host.Outcome State Fault Refusal :=
  .next (s.tryHead c e (fun i => i.phase == .waiting .tally && (!tallyWait (s.core c) i || tallyPoison (s.core c) i)))

/-- CIRC_EMPTY_WAIT_END: a consumer's slot is filled, or CIRC.SET sees every claimed transfer filled (R110, R113).
DESIGN CHOICE: a consumer that already waits when an arrival sets BROKEN waits on; R114 speaks of the next instruction (log 91). -/
def execCircEmptyWaitEnd (c : CoreId) (r : BitVec 4) (s : State) : Host.Outcome State Fault Refusal :=
  .next (
    match allEngines.find? (fun e => (headOf (s.core c) e).any (fun i =>
        i.phase == .waiting (.circEmpty r) && regionWait (s.core c) i != some (.circEmpty r))) with
    | some e => s.tryHead c e (fun _ => true)
    | none => s)

/-- The engine whose head is the instruction with a serial number. -/
def engineOfHead (k : Core) (n : Nat) : Option Engine := allEngines.find? (fun e => (headOf k e).any (fun i => i.serial == n))

/-- CIRC_FULL_WAIT_END: a slot is free; the producer that has waited longest claims it (R42 to R44, R111, R115). -/
def execCircFullWaitEnd (c : CoreId) (r : BitVec 4) (s : State) : Host.Outcome State Fault Refusal :=
  .next (
    match (s.core c).runCtx with
    | none => s
    | some x =>
      if !engineActs s c || ((s.core c).th.circ r).full then s else
      match (s.core c).firstInLine r with
      | none => s
      | some (some n) =>
        match engineOfHead (s.core c) n with
        | some e => s.tryHead c e (fun _ => true)
        | none => s.modCore c (fun k => k.leaveLine (some n))
      | some none => s.drainArrivals ((s.ctx x).arrivals (coreDie c)).length c x)

/-- HALL_PASS_GRANT: the first that waits on a slot's pass is served if the pass is open to it (R285). -/
def execHallPassGrant (slot : SlotId) (s : State) : Host.Outcome State Fault Refusal :=
  .next (
    match (s.slot slot).waiting with
    | [] => s
    | p :: t =>
      if !s.up || !passOpen (s.slot slot) p.editor then s else
      let s' := s.modSlot slot (fun y => { y with waiting := t })
      match p.who with
      | none => match s.kvEdit with | some e => s'.finishEdit e.1 e.2 | none => s'
      | some (c, n) =>
        match (s.core c).item n, (s.core c).runCtx with
        | some i, some x =>
          if p.editor then (s'.modSlot slot (·.hold p)).begin c i
          else State.readPasses c x n (attnCount i + 1) true s'
        | _, _ => s')

/-- SLOT_FILLED: the fill of slot `k` of a region is complete: an instruction's output, or an arrival's last byte (R112, R352). -/
def execSlotFilled (c : CoreId) (r : BitVec 4) (k : BitVec 16) (s : State) : Host.Outcome State Fault Refusal :=
  .next (
    if !s.up || !(s.core c).inService then s else
    match ((allEngines.map (s.core c).queue).flatten).find? (fun i => i.phase == .performed && i.out == 0 && i.claims.contains (r, k)) with
    | some i =>
      (s.fillSlot c r k).modCore c (fun q => q.modItem i.serial (fun j => { j with claims := j.claims.erase (r, k) }))
    | none =>
      match s.incoming.find? (fun i => i.core == c && i.region == r && i.slot == some k && i.last.isSome && i.here s) with
      | none => s
      | some i =>
        let s : State := { s.fillSlot c r k with incoming := s.incoming.erase i }
        match i.last with
        | some a => s.answerSend a 0
        | none => s)

/-- A reserved opcode faults at issue, whatever its guard (R124, R125, R144, R176); a word whose opcode an entry lists is the event of
that entry's row. -/
def execReservedOpcode (c : CoreId) (w : Word) (s : State) : Host.Outcome State Fault Refusal :=
  .next (if reservedOp w then s.issue c 0 true 1 (fun s => s) else s)

end Sys2Proof.Machine
end

