-- ==== Sys2Proof/Machine/Complete.lean ====
section
/-! DEFINITION. Completion: tokens counted in queue order, with what an instruction holds until then
(spec/06_akaux_programming_model.md R128, R129, R131, spec/12_kv_pages_prefix.md R284, spec/11_attention_engine.md R258). -/
namespace Sys2Proof.Machine

/-- One queue's head is counted, if it is finished: its reader marks fall with its token (R284). -/
def State.countHead (c : CoreId) (s : State) (e : Engine) : State :=
  match (s.core c).countable e with
  | none => s
  | some i =>
    let s := i.marks.foldl (fun s n => s.modSlot n (fun t => { t with marks := t.marks - 1 })) s
    let s := match (s.core c).runCtx with | some x => s.attnLate c x i | none => s
    s.modCore c (fun k => k.countHead e i)

/-- Completions are counted in each queue's order; at most `n` rounds. -/
def State.settle (c : CoreId) : (n : Nat) → State → State
  | 0, s => s
  | n + 1, s => State.settle c n (allEngines.foldl (State.countHead c) s)

/-- The item at a place of a queue completes and its token is counted in order (R129). -/
def State.completeItem (s : State) (c : CoreId) (i : Item) : State :=
  State.settle c 64 (((s.countSteps c i)).modCore c (fun k => k.modItem i.serial (fun j => { j with phase := .finished })))

/-- INSTRUCTION_COMPLETE (R128, R129, R131). -/
def execInstructionComplete (c : CoreId) (e : Engine) (n : Nat) (s : State) : Host.Outcome State Fault Refusal :=
  .next (
    match ((s.core c).queue e)[n]? with
    | some i => if s.up && (s.core c).inService && itemDone i then (s.landCrumbs c i).completeItem c i else s
    | none => s)

end Sys2Proof.Machine
end

