-- ==== Sys2Proof/Machine/Security.lean ====
section
/-! DEFINITION. Signed images, measurements and the security commands (spec/18_security_identity.md R452 to R454, R458 to R461,
R466). -/
namespace Sys2Proof.Machine

/-! Images (R452). -/

/-- The header bytes and the body of an image. -/
def imgLength (h : List Byte) : Nat := ofLeBytes ((h.drop 8).take 8)
def imgKind (h : List Byte) : Nat := ofLeBytes ((h.drop 4).take 1)
def imgSvn (h : List Byte) : Nat := ofLeBytes ((h.drop 6).take 2)
def imgDigest (h : List Byte) : List Byte := (h.drop 32).take 64

/-- Keys that may sign a master image or a program (R453). -/
def permittedKeys (s : State) : List (List Byte) := Config.rootKey :: s.sec.ownerKey.toList

/-- Signed by `key`: KEY_ID names it and the signature over bytes 0 to 141 is valid. -/
def signedBy (key block : List Byte) (idAt : Nat) : Bool :=
  (block.drop idAt).take 16 == keyId key && Config.ed448Verify key (block.take 142) ((block.drop 142).take 114)

/-- MAGIC and KIND are those of an image of kind `k`. -/
def imgHeader (k : Nat) (h : List Byte) : Bool := ofLeBytes (h.take 4) == 0x49425645 && imgKind h == k
def programHeader (h : List Byte) : Bool := imgHeader 4 h

/-- An image of kind 1, 2 or 3 verifies: header, key (kinds 1 and 2 under the root key alone), signature, digest, and an SVN at or
above its floor (R452 to R454). -/
def imageOk (s : State) (k : Fin 3) (i : FwImage) : Bool :=
  i.header.length == 256 && imgHeader (k.val + 1) i.header
  && (match i.signer with | some true => true | some false => k == 2 && s.sec.ownerKey.isSome | none => false)
  && i.body.length == imgLength i.header && imgDigest i.header == shake256 i.body 64
  && decide (s.sec.floors[k].toNat ≤ imgSvn i.header)

/-! The system area (R451). -/

/-- The tag of an item. -/
def sysTag (item : List Byte) : List Byte := shake256 (Config.tagKey ++ item) 32

/-- The items that State holds by value, as numbered here; 0 is the wrapped key, 6 and 7 the image slots, 8 the library states. -/
def itIdentity : Nat := 1
def itOwner : Nat := 2
def itFloors : Nat := 3
def itLevels : Nat := 4
def itInstall : Nat := 5

/-- What the copy of an item on stack `c` reads as, where not as last written. -/
def copyOf (s : State) (n c : Nat) : Option (List Byte) := mapGet s.sec.copies (4 * n + c)

/-- The tag of a copy is correct. -/
def copyGood (s : State) (n c : Nat) : Bool :=
  match copyOf s n c with
  | none => true
  | some b => decide (32 ≤ b.length) && b.drop (b.length - 32) == sysTag (b.take (b.length - 32))

/-- The first copy of an item whose tag is correct. -/
def firstCopy (s : State) (n : Nat) : Option Nat := (List.range 4).find? (copyGood s n)

/-- Every item has a copy whose tag is correct. -/
def areaGood (s : State) : Bool := (List.range 9).all (fun n => (firstCopy s n).isSome)

/-- An item is written: all four copies hold it. -/
def State.freshCopies (s : State) (n : Nat) : State :=
  { s with sec := { s.sec with copies := s.sec.copies.filter (fun e => e.1 / 4 != n) } }

/-- The value of an item as a copy gives it. -/
def State.takeItem (s : State) (n : Nat) (b : List Byte) : State :=
  let at2 (i : Nat) : Nat := ofLeBytes ((b.drop (2 * i)).take 2)
  let level (i : Fin 9) : Nat := let v := (b.getD i.val 0).toNat; if 1 ≤ v ∧ v ≤ 3 then v else s.sec.levels[i]
  { s with sec :=
      if n = itIdentity then { s.sec with identity := b }
      else if n = itOwner then { s.sec with ownerKey := if b.isEmpty then none else some b }
      else if n = itFloors then { s.sec with floors := Vector.ofFn (fun i => BitVec.ofNat 16 (at2 i.val)) }
      else if n = itLevels then { s.sec with levels := Vector.ofFn level }
      else if n = itInstall then { s.sec with install := if b.isEmpty then none else some b }
      else s.sec }

/-- An item is read from its first good copy, and every copy whose tag fails is rewritten. -/
def State.readItem (s : State) (n : Nat) : State :=
  match firstCopy s n with
  | none => s
  | some c =>
    let t := match copyOf s n c with | some b => s.takeItem n (b.take (b.length - 32)) | none => s
    { t with sec := { t.sec with copies := t.sec.copies.filter (fun e => e.1 / 4 != n || copyGood s n (e.1 % 4)) } }

/-- The system area as the flash now reads. -/
def State.decayed (s : State) (d : List (Nat × List Byte)) : State :=
  { s with sec := { s.sec with copies := d.foldl (fun m e => mapSet m e.1 e.2) s.sec.copies } }

/-- Every item is read. -/
def State.readArea (s : State) : State := (List.range 9).foldl State.readItem s

/-! Measurements. -/

/-- M becomes SHAKE256 of M, k and D. -/
def extendWith (m : BitVec 512) (k : Nat) (d : List Byte) : BitVec 512 :=
  BitVec.ofNat 512 (ofLeBytes (shake256 (leBytes 64 m.toNat ++ leBytes 1 k ++ d) 64))

def State.extendMeas (s : State) (m : Fin 8) (k : Nat) (d : List Byte) : State :=
  { s with sec := { s.sec with meas := s.sec.meas.set m (extendWith s.sec.meas[m] k d) } }

/-! Commands (R466). -/

def secCmdOffset : Nat := 0x0300008

def secCmdWord (op : Nat) (arg : BitVec 33) (m : BitVec 4) : Word := BitVec.ofNat 64 (op + arg.toNat * 2 ^ 6 + m.toNat * 2 ^ 44)

def resDone : Nat := 0
def resRefused : Nat := 1
def resBadSignature : Nat := 2

/-- A command is accepted: BUSY until SEC_COMMAND_DONE reports the result. -/
def State.secAccept (s : State) (op result : Nat) : State :=
  { s with sec := { s.sec with busy := true, op := op, result := 0, pendingResult := result } }

/-- A refused command: the result at once, and a notice. -/
def State.secRefuse (s : State) (op : Nat) (v : Word) : State :=
  ({ s with sec := { s.sec with op := op, result := resRefused } } : State).cmdRefused secCmdOffset v

/-- A write of SEC_CMD: a notice and nothing else while BUSY; `ok` says that what the command reads may be read. -/
def State.secCmd (s : State) (op : Nat) (v : Word) (ok : Bool) (body : State → State) : State :=
  if !s.up then s
  else if s.sec.busy then s.cmdRefused secCmdOffset v
  else if !ok then s.secRefuse op v
  else body s

/-- A carve-out range the monitor may read. -/
def readable (s : State) (off len : Nat) : Bool := inCarveOut off len && !s.poisoned off len

def argOffset (arg : BitVec 33) : Nat := 64 * arg.toNat

/-- Bytes 0 to 685 of an attestation report (Table 18.5). -/
def reportBody (s : State) (nonce : List Byte) : List Byte :=
  leBytes 2 1 ++ leBytes 1 s.sec.alarm ++ leBytes 1 0 ++ leBytes 2 s.sec.svn1.toNat ++ leBytes 2 s.sec.svn2.toNat ++ leBytes 8 s.bell
  ++ moduleSerial s ++ identityDigest s ++ nonce ++ (s.sec.meas.toList.map (fun m => leBytes 64 m.toNat)).flatten
  ++ dieRev ++ dieRev ++ dieRev ++ List.replicate 11 0

/-- ATTEST (R460); `v` is the word written to SEC_CMD. -/
def State.attest (s : State) (arg : BitVec 33) (v : Word) : State :=
  let a := argOffset arg
  s.secCmd 1 v (readable s a 64 && inCarveOut a 864) (fun s =>
    let r := reportBody s (memBytes s.mem a 64)
    (s.write (a + 64) (r ++ padTo 114 (Config.identitySign r))).secAccept 1 resDone)

def execAttest (arg : BitVec 33) (s : State) : Host.Outcome State Fault Refusal := .next (s.attest arg (secCmdWord 1 arg 0))

/-- EXTEND: registers 4 to 7, with k = 0; M below 4 is refused and M above 7 is a reserved encoding (R13, R466). -/
def State.extend (s : State) (arg : BitVec 33) (m : BitVec 4) (v : Word) : State :=
  let a := argOffset arg
  if 8 ≤ m.toNat then s.secCmd 2 v true (fun s => s.reservedWrite secCmdOffset v)
  else s.secCmd 2 v (decide (4 ≤ m.toNat) && readable s a 64) (fun s =>
    (s.extendMeas (Fin.ofNat 8 m.toNat) 0 (memBytes s.mem a 64)).secAccept 2 resDone)

def execExtend (arg : BitVec 33) (m : BitVec 4) (s : State) : Host.Outcome State Fault Refusal := .next (s.extend arg m (secCmdWord 2 arg m))

/-- LOAD: a verified program image extends M4 with its digest (R452, R458). -/
def State.loadImage (s : State) (arg : BitVec 33) (v : Word) : State :=
  let a := argOffset arg
  let h := memBytes s.mem a 256
  s.secCmd 3 v (readable s a 256 && programHeader h && readable s a (256 + imgLength h)) (fun s =>
    let good := (permittedKeys s).any (fun k => signedBy k h 16) && imgDigest h == shake256 (memBytes s.mem (a + 256) (imgLength h)) 64
    if good then (s.extendMeas 4 4 (imgDigest h)).secAccept 3 resDone else s.secAccept 3 resBadSignature)

def execLoad (arg : BitVec 33) (s : State) : Host.Outcome State Fault Refusal := .next (s.loadImage arg (secCmdWord 3 arg 0))

/-- The block that replaces an owner key is zero outside the key, the KEY_ID and the signature (R453). -/
def ownerBlockOk (b : List Byte) : Bool := ((b.drop 57).take 7).all (· == 0) && ((b.drop 80).take 62).all (· == 0)

/-- OWNER_SET (R453). -/
def State.ownerSet (s : State) (arg : BitVec 33) (v : Word) : State :=
  let a := argOffset arg
  let b := memBytes s.mem a 256
  let set (s : State) : State := ({ s with sec := { s.sec with ownerKey := some (b.take 57) } } : State).freshCopies itOwner
  match s.sec.ownerKey with
  | none => s.secCmd 4 v (readable s a 57) (fun s => (set s).secAccept 4 resDone)
  | some k =>
    s.secCmd 4 v (readable s a 256 && ownerBlockOk b) (fun s =>
      if signedBy k b 64 then (set s).secAccept 4 resDone else s.secAccept 4 resBadSignature)

def execOwnerSet (arg : BitVec 33) (s : State) : Host.Outcome State Fault Refusal := .next (s.ownerSet arg (secCmdWord 4 arg 0))

/-- SEC_COMMAND_DONE; an abandoned command never ends (R465, R466). -/
def execSecCommandDone (s : State) : Host.Outcome State Fault Refusal :=
  .next (if s.up && s.sec.busy && !s.sec.abandoned then
    { s with sec := { s.sec with busy := false, result := s.sec.pendingResult } } else s)

def secAlarmOffset : Nat := 0x0300018

/-- The level a write asks for sensor `n`. -/
def askedLevel (v : Word) (n : Nat) : Nat := fieldOf v (2 * n + 1) (2 * n)

/-- SEC_ALARM_CFG: levels rise and never fall; a lowering leaves its level and records a notice (R461); the code 0 names no
level and is a reserved encoding (R13). -/
def execSecAlarmCfg (v : Word) (s : State) : Host.Outcome State Fault Refusal :=
  .next (
    if !s.up then s else
    let old := s.sec.levels
    let s := ({ s with sec := { s.sec with levels := Vector.ofFn (fun n => max old[n] (askedLevel v n.val)) } } : State).freshCopies itLevels
    let s := if (List.range 9).any (fun n => askedLevel v n == 0) then s.reservedWrite secAlarmOffset v else s
    if (List.range 9).any (fun n => askedLevel v n != 0 && decide (askedLevel v n < old.toList.getD n 0)) then s.cmdRefused secAlarmOffset v
    else s)

end Sys2Proof.Machine
end

