-- ==== Sys2Proof/Machine/Power.lean ====
section
/-! DEFINITION. Tempo meters, power controllers, rails and heat (spec/02_self_timed_fabric.md R31, R33, R34,
spec/13_memory_tiers.md R340 to R342, spec/17_power_startup_sleep.md R426 to R437, R450). -/
namespace Sys2Proof.Machine

/-! The rails of Table 17.1. -/

/-- The core rail at a step of 5 mV above 0.62 V, in mV (R431). -/
def coreMv (steps : Nat) : Nat := 620 + 5 * steps

/-- 0.85 V, the top of the core rails. -/
def topStep : Nat := 46

/-- The set point of rail `r` in mV. -/
def railSet (p : Power) (r : Nat) : Nat :=
  match r with
  | 0 => coreMv p.rail0 | 1 => coreMv p.rail1 | 2 => 750 | 3 => 1050 | 4 => 1050 | 5 => 900 | 6 => 3300 | _ => 1200

/-- The window of a rail: 2 %, or 3 % for rails 6 and 7. -/
def railOk (set r mv : Nat) : Bool :=
  let tol := if 6 ≤ r then 3 else 2
  decide (set * (100 - tol) ≤ 100 * mv) && decide (100 * mv ≤ set * (100 + tol))

/-- The quiescent limit of rail `r` at start-up, in 0.1 A. -/
def railLimit (r : Nat) : Nat := [1200, 1200, 300, 400, 400, 250, 100, 80].getD r 0

/-! Tempo meters (Tables 2.1 and 2.2). -/

/-- The guaranteed minimum tempo in array steps per microsecond; the value at the next lower listed voltage (R31). DESIGN CHOICE: below
0.62 V, and outside 0 to 110 degrees, Table 2.1 gives none, and the model takes 0, so that no sample there counts (R34, log 87). -/
def tempoMin (mv : Nat) (temp : Int) : Nat :=
  let at_ (cool hot : Nat) : Nat := if 850 < temp then hot else cool
  if temp < 0 ∨ 1100 < temp ∨ mv < 620 then 0
  else if mv < 700 then at_ 920 860
  else if mv < 750 then at_ 1160 1090
  else if mv < 800 then at_ 1330 1250
  else if mv < 850 then at_ 1470 1380
  else at_ 1600 1500

/-- The measured supply of compute die `d`: the last sample, else the set point. -/
def supplyOf (s : State) (d : Nat) : Nat :=
  match s.power.samples with
  | r :: _ => r.railMv.getD d 0
  | [] => railSet s.power d

/-- STEPS_US of a meter. -/
def stepsUs (p : Power) (n : Nat) : Nat := (p.meters.headD []).getD n 0

/-- STEPS_AVG of a meter: the mean of its samples in 1/16 step, truncated (Table 2.2). -/
def stepsAvg (p : Power) (n : Nat) : Nat :=
  if p.meters.isEmpty then 0 else 16 * (p.meters.map (fun m => m.getD n 0)).sum / p.meters.length

/-- One meter is checked against its guaranteed minimum (R33, R34). -/
def State.checkMeter (s : State) (n : Fin 8) : State :=
  let d := n.val / 4
  let mv := supplyOf s d
  let t := s.power.dies.getD d 0
  if stepsUs s.power n.val < tempoMin mv t then
    let s : State := { s with power := { s.power with below := s.power.below.set n (satAdd 0xFF s.power.below[n] 1) } }
    s.notice d 0x0003 n.val (leBytes 2 mv ++ leBytes 2 (t % 65536).toNat)
  else s

/-- One sample of the eight meters (R33). -/
def State.meterSample (s : State) (steps : List Nat) : State :=
  let m := tabulate 8 (fun n => min 0xFFFF (steps.getD n 0))
  let s : State := { s with power := { s.power with meters := (m :: s.power.meters).take 1024 } }
  (List.finRange 8).foldl State.checkMeter s

/-- TEMPO_METER_SAMPLE: the samplers keep their clocks in sleep (R39). -/
def execTempoMeterSample (steps : List Nat) (s : State) : Host.Outcome State Fault Refusal :=
  .next (if s.life = .running then s.meterSample steps else s)

/-! The power controllers (R428 to R433). -/

/-- The band of an input voltage (R428). -/
def vinBandOf (mv : Nat) : Nat := if mv < 40000 then 1 else if 48000 < mv then 2 else 0

/-- The effective cap: held at 1 600 W or less in a warning band (R428). -/
def effectiveCap (p : Power) : Nat := if p.vinBand = 0 then p.cap else min p.cap 1600

def railOf (p : Power) (d : Bool) : Nat := if d then p.rail1 else p.rail0
def targetOf (p : Power) (d : Bool) : Nat := if d then p.target1 else p.target0
def capCeilOf (p : Power) (d : Bool) : Nat := if d then p.capCeil1 else p.capCeil0
def thermCeilOf (p : Power) (d : Bool) : Nat := if d then p.thermCeil1 else p.thermCeil0

/-- Sum of the STEPS_AVG of the four meters of a die. -/
def tempoSum (p : Power) (d : Bool) : Nat := ((List.range 4).map (fun i => stepsAvg p (4 * d.toNat + i))).sum

/-- The mean STEPS_AVG of a die lies more than 1 % below, or above, its target (R431). -/
def tempoLow (p : Power) (d : Bool) : Bool := decide (100 * tempoSum p d < 99 * (64 * targetOf p d))
def tempoHigh (p : Power) (d : Bool) : Bool := decide (101 * (64 * targetOf p d) < 100 * tempoSum p d)

/-- What the mode of a die asks for: one step of 5 mV at most (R431). -/
def modeAsk (p : Power) (d : Bool) (pinW : Nat) : Nat :=
  let rail := railOf p d
  let up := if p.mode then tempoLow p d else decide (pinW < effectiveCap p)
  let down := if p.mode then tempoHigh p d else decide (effectiveCap p < pinW)
  if up then min topStep (rail + 1) else if down then rail - 1 else rail

/-- The cap ceiling after a sample: one step below the rail when the cap is exceeded; when it is not, whether the ceiling rises
by a step is open (R432, log 5). -/
def capCeilNext (p : Power) (d : Bool) (pinW : Nat) (rise : Bool) : Nat :=
  if effectiveCap p < pinW then railOf p d - 1 else min topStep (capCeilOf p d + rise.toNat)

/-- The rail after a sample: the lowest of its three ceilings, at most one step down or up (R431, R433). -/
def railNext (p : Power) (d : Bool) (pinW ceil : Nat) : Nat :=
  max (railOf p d - 1) (min (modeAsk p d pinW) (min ceil (thermCeilOf p d)))

/-- A die runs below its target because one of its ceilings, what the mode asks for among them, or 0.85 V holds its rail (R433). -/
def missNext (p : Power) (d : Bool) (pinW ceil : Nat) : Bool :=
  tempoLow p d && decide (min (modeAsk p d pinW) (min ceil (min (thermCeilOf p d) topStep)) ≤ railOf p d)

/-- TARGET_MISS of a die rises: its notice (R433). -/
def State.missNotice (s : State) (d : Bool) (old new : Bool) : State :=
  if new && !old then s.notice d.toNat 0x000A d.toNat (leBytes 2 (targetOf s.power d) ++ leBytes 2 (tempoSum s.power d / 64)) else s

/-- Both rails move after a sample (R431 to R433). -/
def State.stepRails (s : State) (pinW : Nat) : State :=
  let f := s.free
  let p := s.power
  let c0 := capCeilNext p false pinW (f.1.getLsbD 0)
  let c1 := capCeilNext p true pinW (f.1.getLsbD 1)
  let above := decide (effectiveCap p < pinW)
  let held (d : Bool) (c : Nat) : Bool := decide (c < min (modeAsk p d pinW) (thermCeilOf p d))
  let m0 := missNext p false pinW c0
  let m1 := missNext p true pinW c1
  let s := (f.2.missNotice false p.miss0 m0).missNotice true p.miss1 m1
  { s with power := { s.power with
      rail0 := railNext p false pinW c0, rail1 := railNext p true pinW c1, capCeil0 := c0, capCeil1 := c1,
      capActive := above || held false c0 || held true c1,
      capFloor := above && p.rail0 == 0 && p.rail1 == 0, miss0 := m0, miss1 := m1 } }

/-- The input enters or leaves a band (R428). -/
def State.vinCheck (s : State) (mv : Nat) : State :=
  let b := vinBandOf mv
  let s' : State := { s with power := { s.power with vinBand := b } }
  if b ≠ 0 && b ≠ s.power.vinBand then s'.notice 2 0x0008 0 (leBytes 2 mv) else s'

/-- A rail outside its window for 10 us trips RAIL (Table 18.6). -/
def State.railCheck (s : State) (r : PowerReading) (i : Fin 8) : State :=
  let n := if railOk (railSet s.power i.val) i.val (r.railMv.getD i.val 0) then 0 else s.power.railOut[i] + 1
  let s : State := { s with power := { s.power with railOut := s.power.railOut.set i n } }
  if n = 10 then s.trip senRail i.val else s

/-- POWER_SAMPLE: one 1 us sample (R428, R430 to R433). -/
def execPowerSample (r : PowerReading) (s : State) : Host.Outcome State Fault Refusal :=
  .next (
    if !s.armed then s else
    let s : State := { s with power := { s.power with
      samples := (r :: s.power.samples).take 1000, peak := max s.power.peak (min 0xFFFF r.pinW) } }
    if s.life ≠ .running then s else
    let s := s.vinCheck r.vinMv
    if !s.up then s else
    let s := (List.finRange 8).foldl (fun s i => s.railCheck r i) s
    if s.up then s.stepRails r.pinW else s)

/-! Heat (R340 to R342, R435 to R437). -/

/-- The throttle level of a stack after it reports a temperature (Table 13.13). -/
def stackLevel (old : Nat) (t : Int) : Nat :=
  let enter : Nat := if 990 ≤ t then 3 else if 970 ≤ t then 2 else if 950 ≤ t then 1 else 0
  let keep : Nat := if 3 ≤ old ∧ 960 ≤ t then 3 else if 2 ≤ old ∧ 940 ≤ t then 2 else if 1 ≤ old ∧ 920 ≤ t then 1 else 0
  max enter keep

/-- The level of a library stack: half rate, or nothing (R436). -/
def libLevel (old : Nat) (t : Int) : Nat :=
  let enter : Nat := if 950 ≤ t then 2 else if 850 ≤ t then 1 else 0
  let keep : Nat := if 2 ≤ old ∧ 900 ≤ t then 2 else if 1 ≤ old ∧ 820 ≤ t then 1 else 0
  max enter keep

/-- Die tempo throttling begins, is released, or goes on (R341, R435). -/
def throttleNext (p : Power) (r : ThermalReading) : Power :=
  let hot := r.stackTemps.any (fun t => decide (1000 ≤ t)) || r.dies.any (fun t => decide (1050 ≤ t))
  let cool := r.stackTemps.all (fun t => decide (t < 970)) && r.dies.all (fun t => decide (t < 1020))
  if hot then
    (if p.throttle then { p with releasing := false }
     else { p with throttle := true, releasing := false, thermCeil0 := p.rail0, thermCeil1 := p.rail1 })
  else if p.throttle && cool then { p with releasing := true } else p

/-- The die at the emergency point or below -20 degrees, if any: a stack's own die, or a hotspot's (R342, Table 18.6). -/
def tempDie (r : ThermalReading) : Option Nat :=
  match (List.range 8).find? (fun i => decide (1100 ≤ r.stackTemps.getD i 0)) with
  | some i => some (i / 4)
  | none => (List.range 3).find? (fun i => let t := r.dies.getD i 0; decide (1100 ≤ t) || decide (t < -200))

/-- An inlet above 40.0 degrees: its notice at most once per minute (R437). -/
def State.inletCheck (s : State) (t : Int) : State :=
  let due := match s.power.inletAt with | none => true | some a => decide (a + 60000000000 ≤ s.bell)
  if decide (400 < t) && due then
    ({ s with power := { s.power with inletAt := some s.bell } } : State).notice 2 0x000B 0 (leBytes 2 (t % 65536).toNat)
  else s

/-- A reading at the emergency point (R342). -/
def emergencyAt (r : ThermalReading) : Bool := r.stackTemps.any (fun t => decide (1100 ≤ t)) || r.dies.any (fun t => decide (1100 ≤ t))

/-- THERMAL_SAMPLE. -/
def execThermalSample (r : ThermalReading) (s : State) : Host.Outcome State Fault Refusal :=
  .next (
    if !s.armed then s else
    let p := throttleNext s.power r
    let s : State := { s with power := { p with
      stackTemps := tabulate 8 (fun i => r.stackTemps.getD i 0), libs := tabulate 4 (fun i => r.libs.getD i 0),
      dies := tabulate 3 (fun i => r.dies.getD i 0), inlet := r.inlet,
      levels := Vector.ofFn (fun i => stackLevel p.levels[i] (r.stackTemps.getD i.val 0)),
      libLevels := Vector.ofFn (fun i => libLevel p.libLevels[i] (r.libs.getD i.val 0)),
      emergency := p.emergency || emergencyAt r } }
    let s := if emergencyAt r && !p.emergency then s.lastWrites else s
    let s := if s.life = .running then s.inletCheck r.inlet else s
    match tempDie r with
    | some d => if s.sec.sensors.getLsbD 5 then s else s.trip senTemp d
    | none => s)

/-- THERMAL_CEILING_STEP: 25 mV down, or up once released; throttling ends at 0.85 V (R435). -/
def execThermalCeilingStep (s : State) : Host.Outcome State Fault Refusal :=
  .next (
    let p := s.power
    if !s.up || !p.throttle then s
    else if !p.releasing then { s with power := { p with thermCeil0 := p.thermCeil0 - 5, thermCeil1 := p.thermCeil1 - 5 } }
    else
      let c0 := min topStep (p.thermCeil0 + 5)
      let c1 := min topStep (p.thermCeil1 + 5)
      let done := c0 == topStep && c1 == topStep
      { s with power := { p with thermCeil0 := c0, thermCeil1 := c1, throttle := !done, releasing := !done } })

end Sys2Proof.Machine
end

