-- ==== Sys2Proof/Machine/Startup.lean ====
section
/-! DEFINITION. The input, RESET_N, start-up and roll call, the installation record (spec/17_power_startup_sleep.md R427, R429,
R446 to R450, spec/18_security_identity.md R451 to R457, spec/20_module_physical.md R484, R485). Rows 1 to 13 of Table 17.6 run at
the start; STARTUP_DONE is row 14. -/
namespace Sys2Proof.Machine

/-! The installation record (Table 17.5, R446). -/

/-- One byte holds D - 1 of even sizes 2 to 16 in each nibble. -/
def dimsOk (n : Nat) : Bool := (List.range 3).all (fun d => bitField n (4 * d) (4 * d) == 1) && n / 4096 == 0

/-- The fields of a record are in range, and what Table 17.5 says is zero is zero. -/
def recordFields (b : List Byte) : Bool :=
  let n (at_ len : Nat) : Nat := ofLeBytes ((b.drop at_).take len)
  n 0 2 == 1 && n 2 2 / 4096 == 0 && dimsOk (n 4 2) && n 6 1 / 2 == 0
  && decide (400 ≤ n 10 2) && decide (n 10 2 ≤ 2400) && decide (4000 ≤ n 12 2) && decide (n 12 2 ≤ 4800) && n 14 2 == 0
  && (List.range 6).all (fun p => n (16 + 8 * p) 8 / 2 ^ 27 == 0) && n 64 128 == 0

/-- A record passes both checks: its digest and its fields. -/
def recordOk (b : List Byte) : Bool := b.length == 256 && b.drop 192 == shake256 (b.take 192) 64 && recordFields b

def installOffset : Nat := 0x0100060

/-- PWR_INSTALL: BASE is stored; WRITE = 1 checks the record there and starts its copy (R446). -/
def execPwrInstall (v : Word) (s : State) : Host.Outcome State Fault Refusal :=
  .next (
    if !s.up then s else
    let a := 64 * fieldOf v 38 6
    let s : State := { s with power := { s.power with installBase := a } }
    if !v.getLsbD 0 then s
    else if s.power.installBusy then s.cmdRefused installOffset v
    else
      let b := memBytes s.mem a 256
      if readable s a 256 && recordOk b then
        { s with power := { s.power with installBusy := true, installCopy := b, installRefused := false } }
      else ({ s with power := { s.power with installRefused := true } } : State).cmdRefused installOffset v)

/-- INSTALL_COPY_DONE (R446). -/
def execInstallCopyDone (s : State) : Host.Outcome State Fault Refusal :=
  .next (if s.up && s.power.installBusy then
    ({ s with sec := { s.sec with install := some s.power.installCopy }, power := { s.power with installBusy := false, installCopy := [] } } : State).freshCopies itInstall
    else s)

/-! Losing power and reset. -/

/-- Everything volatile returns to its reset value. The library tier, the system area, the lock log and the test port stay. -/
def State.wipe (s : State) (life : Life) : State :=
  { State.reset with
    pending := s.pending, fresh := s.fresh, rdata := s.rdata, life := life, straps := s.straps, resetN := s.resetN,
    powerGood := s.powerGood, lib := s.lib, libPages := s.libPages, parity := s.parity, tap := s.tap,
    power := { Power.reset with lastOff := s.power.lastOff },
    sec := { Sec.reset with
      helper := s.sec.helper, wrappedKey := s.sec.wrappedKey, ownerKey := s.sec.ownerKey, floors := s.sec.floors,
      levels := s.sec.levels, install := s.sec.install, identity := s.sec.identity, copies := s.sec.copies, lockLog := s.sec.lockLog, erasing := s.sec.erasing } }

/-- The module is Off; an erase under way has completed its first two steps (R429, R464). -/
def State.powerOff (s : State) (cause : Nat) : State :=
  let t := ({ s with powerGood := false } : State).wipe .off
  { t with power := { t.power with lastOff := cause }, sec := { t.sec with erasing := false }, tap := { Tap.reset with evbin := s.tap.evbin } }

/-- UNDER_VOLTAGE: the lock alarm and its cause; below 30.0 V the switch opens (R429). -/
def execUnderVoltage (vinMv : Nat) (s : State) : Host.Outcome State Fault Refusal :=
  .next (
    if s.life = .off || 38000 < vinMv then s else
    let t := ({ s with power := { s.power with lastOff := 1 } } : State).trip senUnderV 0
    if vinMv < 30000 then t.powerOff 1 else t)

/-- OVER_VOLTAGE: the switch opens; no alarm (R429, R461). -/
def execOverVoltage (s : State) : Host.Outcome State Fault Refusal := .next (if s.life = .off then s else s.powerOff 2)

/-- POWER_LOSS: the input is removed; the kept cause and Evbin test mode are lost (R429, R487). -/
def execPowerLoss (s : State) : Host.Outcome State Fault Refusal :=
  .next ({ s.powerOff 0 with tap := Tap.reset })

/-- RESET_ASSERT: SYS-RESET_N low (R484). It is the cause 0, but for a module that an under-voltage excursion has locked, which keeps
that cause (R429, log 88). -/
def execResetAssert (s : State) : Host.Outcome State Fault Refusal :=
  .next (
    let t : State := { s with resetN := false }
    match s.life with
    | .off | .inReset => t
    | .locked => ({ t with power := { t.power with lastOff := if s.sec.sensors.getLsbD senUnderV.val then s.power.lastOff else 0 } } : State).wipe .inReset
    | _ => ({ t with power := { t.power with lastOff := 0 } } : State).wipe .inReset)

/-! Start-up (Tables 17.6 and 17.7). -/

/-- Start-up goes on: nothing has locked or stopped it, and no erase runs (R448, R456, R464). -/
def startsOn (s : State) : Bool := s.life == .starting && !s.sec.erasing

/-- One row of start-up, if start-up goes on. -/
def State.row (s : State) (f : State → State) : State := if startsOn s then f s else s

/-- A check of PWR_RC_RESULT. -/
def State.rcBit (s : State) (i : Nat) (ok : Bool) : State :=
  if ok then { s with power := { s.power with rcResult := s.power.rcResult ||| (1#18 <<< i) } } else s

/-- Boot stops (Table 18.3). -/
def State.bootStop (s : State) (code : Nat) : State := { s with life := .bootStopped, boot := code }

/-- A failed identity check: IDENTITY trips and BOOT shows 0xD (Table 18.3). -/
def State.identityFail (s : State) (die : Nat) : State := ({ s with boot := 0xD } : State).trip senIdentity die

/-- Row 1: the mesh and the lid (R461). -/
def rowSensors (r : StartReading) (s : State) : State :=
  let s := if r.meshOk then s else s.trip senMesh 0
  if r.lidOk then s else s.trip senLid 0

/-- Row 2: the reference (R38). -/
def rowReference (r : StartReading) (s : State) : State := if r.refOk then s else s.trip senClock 0

/-- Row 3: each rail in the order of its ramp, then the loads (R448). -/
def rowRails (r : StartReading) (s : State) : State :=
  match [5, 2, 7, 3, 4, 0, 1, 6].find? (fun i => !railOk (railSet s.power i) i (r.railMv.getD i 0)) with
  | some i => s.trip senRail i
  | none =>
    let s := s.rcBit 0 true
    match (List.range 8).find? (fun i => decide (railLimit i < r.railDa.getD i 0)) with
    | some i => s.trip senRail i
    | none => s.rcBit 1 true

/-- A floor rises to the SVN of an image that verifies and starts (R454). -/
def State.raiseFloor (s : State) (k : Fin 3) (svn : BitVec 16) : State :=
  if s.sec.floors[k].toNat < svn.toNat then ({ s with sec := { s.sec with floors := s.sec.floors.set k svn } } : State).freshCopies itFloors
  else s

/-- An image that verifies starts: it is measured, and its floor rises (R454, R455). -/
def State.startImage (s : State) (k : Fin 3) (i : FwImage) : State :=
  (s.extendMeas (Fin.ofNat 8 k.val) (k.val + 1) (imgDigest i.header)).raiseFloor k (BitVec.ofNat 16 (imgSvn i.header))

/-- Row 4, first part: the boot ROM (Tables 18.2 and 18.3). -/
def rowBootRom (r : StartReading) (s : State) : State :=
  if !s.sec.helper then s.bootStop 0xE
  else if !imageOk s 0 r.bootFw then s.bootStop 0xD
  else
    let s := s.startImage 0 r.bootFw
    { s with sec := { s.sec with svn1 := BitVec.ofNat 16 (imgSvn r.bootFw.header) } }

/-- The items of the system area are read with the control die's PUF key (R451). -/
def rowSysArea (r : StartReading) (s : State) : State :=
  let s := s.decayed r.decay
  if areaGood s then s.readArea else s.readArea.trip senSysArea 0

/-- Row 4, second part: the boot firmware checks the identity record and the runtime firmware. No die is named for a record
whose signature fails: the byte is free (log 5). -/
def rowBootFw (r : StartReading) (s : State) : State :=
  if !r.identityOk then let f := s.free; f.2.identityFail (f.1.toNat % 256)
  else if !imageOk s 1 r.runFw then s.bootStop 0xD
  else
    let s := s.startImage 1 r.runFw
    { s with sec := { s.sec with svn2 := BitVec.ofNat 16 (imgSvn r.runFw.header) } }

/-- The stored record, if it is present and passes its checks. -/
def goodRecord (s : State) : Option (List Byte) := s.sec.install.filter recordOk

/-- VIN passes: within 40.0 to 48.0 V and 1.0 V of the record's VIN_CV. -/
def vinOk (rec : Option (List Byte)) (mv : Nat) : Bool :=
  decide (40000 ≤ mv) && decide (mv ≤ 48000)
  && (match rec with
      | some b => let e := 10 * ofLeBytes ((b.drop 12).take 2); decide (mv ≤ e + 1000) && decide (e ≤ mv + 1000)
      | none => true)

/-- Row 5: the installation record, the input, the cap. M2 is extended with the record's DIGEST; the kind byte of that
extension is open (log 5). -/
def rowRecord (r : StartReading) (s : State) : State :=
  let s := s.rcBit 2 (vinOk (goodRecord s) r.vinMv)
  let s : State := { s with sec := { s.sec with record := goodRecord s } }
  match s.sec.record with
  | none => s
  | some b =>
    let f := s.free
    let s := (f.2.rcBit 3 true).extendMeas 2 (f.1.toNat % 256) (b.drop 192)
    { s with power := { s.power with cap := ofLeBytes ((b.drop 10).take 2) } }

/-- PUF_BIND of a die in the identity record, and of the value its PUF derives (R457, Table 18.4). -/
def recordBind (s : State) (i : Nat) : List Byte := (s.sec.identity.drop (28 + 32 * i + 16)).take 16
def bindOk (s : State) (r : StartReading) (i : Nat) : Bool := shake256 (r.puf.getD i []) 16 == recordBind s i

/-- Row 6: the dies leave reset at epoch 0 with their scratchpads poisoned; each die's binding is checked (R457). STEPCNT starts
at an unspecified value (log 5). -/
def rowDies (r : StartReading) (s : State) : State :=
  match (List.range 3).find? (fun i => !bindOk s r i) with
  | some i => s.identityFail i
  | none =>
    let w (n : Nat) : Word := Config.freeWord (s.fresh + n)
    let s : State := { s with cores := tabulate 64 (fun n => (n, { Core.reset with inService := true, stepcnt := w n })), fresh := s.fresh + 64 }
    { s with sec := { s.sec with identityOk := true } }

/-- LNK_PORT_CTRLp as row 7 writes it from the record, or DISABLED. -/
def recordCtrl (b : List Byte) (p : PortId) : Word :=
  let e := recordPort b p
  if e.testBit 15 then
    BitVec.ofNat 64 (1 + bitField e 26 26 * 4 + bitField e 11 0 * 8 + bitField e 14 12 * 2 ^ 15 + 2 ^ 18)
  else 0

/-- Row 7: the link and bell registers from the record; without one every port is DISABLED (R449). -/
def rowLinks (s : State) : State :=
  match s.sec.record with
  | none => allPorts.foldl (fun s p => s.writePortCtrl p 0) s
  | some b =>
    let n (at_ len : Nat) : Nat := ofLeBytes ((b.drop at_).take len)
    let s : State := { s with chipId := BitVec.ofNat 12 (n 2 2), chipValid := true, dims := BitVec.ofNat 12 (n 4 2), bellRoot := (n 6 1).testBit 0 }
    allPorts.foldl (fun s p => s.writePortCtrl p (recordCtrl b p)) s

/-- Start-up from row 1 to row 13 (R447). -/
def State.startUp (s : State) (r : StartReading) : State :=
  let s := if s.life = .inReset then s else s.wipe .inReset
  let s : State := { s with life := .starting, boot := 0, straps := r.straps, reading := some r, bell := 0 }
  let s := ((s.row (rowSensors r)).row (rowReference r)).row (rowRails r)
  let s := (((s.row (rowBootRom r)).row (rowSysArea r)).row (rowBootFw r)).row (rowRecord r)
  ((s.row (rowDies r)).row rowLinks).row State.fillRoutes

/-- POWER_GOOD: start-up begins if RESET_N is released (R427). -/
def execPowerGood (r : StartReading) (s : State) : Host.Outcome State Fault Refusal :=
  .next (
    if s.life ≠ .off then s else
    let t : State := { s with powerGood := true, life := .inReset }
    if s.resetN then t.startUp r else t)

/-- RESET_RELEASE: start-up begins if power is good (R427). It also ends a reset that the control die made (R473). -/
def execResetRelease (r : StartReading) (s : State) : Host.Outcome State Fault Refusal :=
  .next (
    if s.resetN && s.life ≠ .inReset then s else
    let t : State := { s with resetN := true }
    if s.life = .off then t else t.startUp r)

/-! Row 14. -/

/-- The record of context 0 that firmware writes: its values are firmware's own, within the checks of START (R378, log 5). -/
def firmwareRecord (w : Nat → Word) : List Byte :=
  let pick (i top : Nat) : Nat := (w i).toNat % top
  leBytes 8 (w 1).toNat ++ leBytes 4 (50000 + pick 2 9950001) ++ leBytes 1 (pick 3 2) ++ leBytes 3 0
  ++ leBytes 8 (64 * pick 4 (2 ^ 27)) ++ leBytes 1 (pick 5 13) ++ leBytes 1 (1 + pick 6 12) ++ leBytes 2 0 ++ leBytes 4 0
  ++ leBytes 8 (256 * pick 7 (2 ^ 25)) ++ leBytes 8 0 ++ leBytes 8 (65536 * pick 8 (2 ^ 16)) ++ leBytes 4 0
  ++ leBytes 1 (1 + pick 9 255) ++ leBytes 3 0 ++ leBytes 8 (2048 * pick 10 (2 ^ 22)) ++ leBytes 4 (64 + 2 * pick 11 32737) ++ leBytes 52 0

/-- Firmware writes TT_CTX_BASE and record 0 and starts context 0 (R378). -/
def State.startContext0 (s : State) : State :=
  let w (i : Nat) : Word := Config.freeWord (s.fresh + i)
  let s : State := { s with fresh := s.fresh + 12, ttCtxBase := 8192 * ((w 0).toNat % 2 ^ 20) }
  (s.write s.ttCtxBase (firmwareRecord w)).activate 0

/-- The master image that starts: of the slots that verify, in order of SVN, higher first (R455). -/
def masterSlot (s : State) (r : StartReading) : Option FwImage :=
  match r.images.filter (imageOk s 2) with
  | [] => none
  | i :: is => some (is.foldl (fun a b => if imgSvn a.header < imgSvn b.header then b else a) i)

/-- The notices of roll call (R448, R449, R450). -/
def State.rollCallNotices (s : State) (r : StartReading) : State :=
  let b := s.sec.record
  let expected := match b with | some b => 10 * ofLeBytes ((b.drop 12).take 2) | none => 0
  let s := if vinOk b r.vinMv then s else s.notice 2 0x0009 0 (leBytes 2 r.vinMv ++ leBytes 2 expected)
  let s := if b.isSome then s else s.notice 2 0x000C 0 []
  if r.idleW ≤ 357 then s else s.notice 2 0x000F 0 (leBytes 2 r.idleW)

/-- STARTUP_DONE: row 14 (R447, R455). -/
def execStartupDone (s : State) : Host.Outcome State Fault Refusal :=
  .next (
    match s.reading with
    | none => s
    | some r =>
      if !startsOn s then s else
      match masterSlot s r with
      | none => s.bootStop 0xD
      | some i =>
        let s := (s.extendMeas 3 3 (imgDigest i.header)).raiseFloor 2 (BitVec.ofNat 16 (imgSvn i.header))
        let s := s.sec.lockLog.foldl State.logEvent { s with sec := { s.sec with lockLog := [] } }
        let s := (s.meterSample r.tempoSteps).rollCallNotices r
        let s := ((s.rcBit 16 (decide (r.idleW ≤ 357))).rcBit 17 true).startContext0
        { s with life := .running, boot := 1, pstate := .idle, reading := none })

end Sys2Proof.Machine
end

