-- ==== Sys2Proof/Machine/ControlDie.lean ====
section
/-! DEFINITION. The control die: watchdogs, uncorrectable errors at a hart, UCIe modules (spec/16_master_interface.md R401, R405,
R406, spec/19_errors_reliability.md R473, R474). -/
namespace Sys2Proof.Machine

/-- WDT_KICK: 1 restarts the count and returns STAGE to 0 (R473). -/
def execWdtKick (cl : BitVec 2) (v : Word) (s : State) : Host.Outcome State Fault Refusal :=
  .next (if s.up && v.getLsbD 0 then s.setWdt cl { s.wdt cl with stage := 0, counted := 0 } else s)

/-- The harts of a cluster. -/
def hartsOf (cl : BitVec 2) : List Nat := tabulate 4 (fun i => 4 * cl.toNat + i)

/-- The WATCHDOG record (Table 19.4). -/
def State.watchdogRecord (s : State) (cl : BitVec 2) (stage : Nat) : State := s.error 2 0x010A cl.toNat (leBytes 1 stage)

/-- The control die resets the module with the effect of RESET_N (R473); the start-up that follows begins with RESET_RELEASE. -/
def State.moduleReset (s : State) : State := ({ s with power := { s.power with lastOff := 0 } } : State).wipe .inReset

/-- All four clusters stand at stage 2 (R473). -/
def allStuck (s : State) : Bool := (List.range 4).all (fun c => (s.wdt (BitVec.ofNat 2 c)).stage == 2)

/-- WATCHDOG_EXPIRY: the timeout has run without a kick (R473). -/
def execWatchdogExpiry (cl : BitVec 2) (s : State) : Host.Outcome State Fault Refusal :=
  .next (
    let w := s.wdt cl
    if !s.up || !w.en || w.counted < w.timeoutMs * 1000000 then s else
    let s : State := { s with log := { s.log with cdWatchdog := satAdd 0xFF s.log.cdWatchdog 1 } }
    match w.stage with
    | 0 =>
      let s := s.setWdt cl { w with stage := 1, counted := 0 }
      ({ s with hartErr := (hartsOf cl).foldl setAdd s.hartErr } : State).watchdogRecord cl 1
    | 1 =>
      let s := s.setWdt cl { w with stage := 2, counted := 0 }
      let s := ({ s with hartErr := (hartsOf cl).foldl setDel s.hartErr } : State).watchdogRecord cl 2
      if allStuck s then s.moduleReset else s
    | _ => s.moduleReset)

/-- The chip offset of a control-die physical address, if it names main memory (R401, Table 13.1). -/
def mainOffset (addr : Word) : Option Nat :=
  if 2 ^ 48 ≤ addr.toNat ∧ addr.toNat < 2 ^ 48 + 2 ^ 39 then some (addr.toNat - 2 ^ 48) else none

/-- A hart consumes a poisoned line, or loads a unit of main memory that is or becomes poisoned; it takes the hardware-error
exception, and a record names the address (R470, R474). `code` says that the error lies in the boot ROM, in firmware code or in the
security monitor: then SYSAREA trips. -/
def State.hartError (s : State) (hart : BitVec 4) (addr : Word) (code : Bool) : State :=
  let t : State := { s with hartErr := setAdd s.hartErr hart.toNat }
  let t := match mainOffset addr with
    | some off =>
      let t := if t.poisoned off 1 then t else t.uncorrectable (off / 32)
      if inCarveOut off 1 then t.error 2 0x0107 off [0] else t.error 2 0x010B addr.toNat []
    | none => t.error 2 0x010B addr.toNat []
  if code then t.trip senSysArea 0 else t

/-- CD_UNCORR. -/
def execCdUncorr (hart : BitVec 4) (addr : Word) (code : Bool) (s : State) : Host.Outcome State Fault Refusal :=
  .next (if s.up then s.hartError hart addr code else s)

/-! Main memory and SRAM (R19, R401 to R404). -/

/-- An access to main memory reaches its channel: over the UCIe modules of its half, to a controller that accepts it (R406). -/
def masterReach (s : State) (off : Nat) : Bool := dieReached s (bitField off 38 38 == 1) && channelIn s (channelOf off)

/-- A store of the master, performed once at its channel controller; a store off its size's alignment is none (R402, log 45). -/
def State.masterStore (s : State) (off size : Nat) (v : Word) : State :=
  if off % size ≠ 0 || !masterReach s off then s
  else (s.store off size v.toNat).count (0x208 + 16 * ((channelOf off).toNat / 32)) size

/-- A load of a hart: a poisoned unit delivers no data and raises the hardware-error exception (R402, R470, R474). -/
def State.masterLoad (s : State) (off size : Nat) (hart : BitVec 4) : State :=
  if off % size ≠ 0 || !masterReach s off then s
  else if s.poisoned off size then s.hartError hart (BitVec.ofNat 64 (2 ^ 48 + off)) false
  else ({ s with rdata := BitVec.ofNat 64 (s.fetch off size) } : State).count (0x200 + 16 * ((channelOf off).toNat / 32)) size

def State.sramStore (s : State) (off size : Nat) (v : Word) : State :=
  if off % size ≠ 0 || 2 ^ 24 ≤ off then s else { s with sram := memStore s.sram off size v.toNat }

def State.sramLoad (s : State) (off size : Nat) : State :=
  if off % size ≠ 0 || 2 ^ 24 ≤ off then s else { s with rdata := BitVec.ofNat 64 (memLoad s.sram off size) }

/-- The session store: 1 MiB that an erase destroys first (R464). -/
def State.sessionPut (s : State) (off size : Nat) (v : Word) : State :=
  if off % size ≠ 0 || 2 ^ 20 ≤ off then s
  else { s with sec := { s.sec with sessionStore := memStore s.sec.sessionStore off size v.toNat } }

def State.sessionGet (s : State) (off size : Nat) : State :=
  if off % size ≠ 0 || 2 ^ 20 ≤ off then s else { s with rdata := BitVec.ofNat 64 (memLoad s.sec.sessionStore off size) }

/-! The device registers of Ethernet and PCIe, which the spec names and gives no place (R408 to R410, log 45). -/

/-- The ones' complement sum of the big-endian 16-bit words of a byte string; an odd last byte is padded with zero. -/
def onesSum : List Byte → Nat
  | [] => 0
  | [a] => 256 * a.toNat
  | a :: b :: t => let n := 256 * a.toNat + b.toNat + onesSum t; n % 2 ^ 16 + n / 2 ^ 16

/-- A big-endian field of a frame. -/
def frameField (f : List Byte) (at_ len : Nat) : Nat := ofLeBytes ((f.drop at_).take len).reverse

/-- Where an untagged frame's transport segment lies: its pseudo-header, start and length, and the place of its checksum; none for
a frame without a whole TCP or UDP segment. -/
def segmentOf (f : List Byte) : Option (List Byte × Nat × Nat × Nat) :=
  let sumAt (proto : Nat) : Option Nat := if proto = 6 then some 16 else if proto = 17 then some 6 else none
  if frameField f 12 2 = 0x0800 && frameField f 20 2 % 2 ^ 14 = 0 then
    let h := 4 * (frameField f 14 1 % 16)
    let n := frameField f 16 2 - h
    (sumAt (frameField f 23 1)).map (fun a => ((f.drop 26).take 8 ++ [0] ++ (f.drop 23).take 1 ++ (leBytes 2 n).reverse, 14 + h, n, a))
  else if frameField f 12 2 = 0x86DD then
    let n := frameField f 18 2
    (sumAt (frameField f 20 1)).map (fun a => ((f.drop 22).take 32 ++ (leBytes 4 n).reverse ++ [0, 0, 0] ++ (f.drop 20).take 1, 54, n, a))
  else none

/-- The bytes of an IPv4 header. -/
def ipHeader (f : List Byte) : List Byte := (f.drop 14).take (4 * (frameField f 14 1 % 16))

/-- The checksums of an untagged frame are right; a UDP checksum of zero over IPv4 is none (R408). -/
def sumsOk (f : List Byte) : Bool :=
  (frameField f 12 2 != 0x0800 || onesSum (ipHeader f) == 0xFFFF)
  && (match segmentOf f with
      | none => true
      | some (p, a, n, c) => (frameField f 12 2 == 0x0800 && c == 6 && frameField f (a + c) 2 == 0) || onesSum (p ++ (f.drop a).take n) == 0xFFFF)

/-- A 16-bit field written into a frame, high byte first. -/
def putNet (f : List Byte) (at_ v : Nat) : List Byte := f.take at_ ++ (leBytes 2 v).reverse ++ f.drop (at_ + 2)

/-- The checksums inserted into an untagged frame (R408). -/
def fillSums (f : List Byte) : List Byte :=
  let f := if frameField f 12 2 = 0x0800 then let g := putNet f 24 0; putNet g 24 (0xFFFF - onesSum (ipHeader g)) else f
  match segmentOf f with
  | none => f
  | some (p, a, n, c) =>
    let g := putNet f (a + c) 0
    let v := 0xFFFF - onesSum (p ++ (g.drop a).take n)
    putNet g (a + c) (if v = 0 && c = 6 then 0xFFFF else v)

/-- One 802.1Q tag inserted. -/
def addTag (f : List Byte) : Option (BitVec 16) → List Byte
  | none => f
  | some t => f.take 12 ++ [0x81, 0x00] ++ (leBytes 2 t.toNat).reverse ++ f.drop 12

/-- The sizes of a frame. -/
def frameOk (f : List Byte) : Bool := decide (64 ≤ f.length) && decide (f.length ≤ 9216)

def State.setMac (s : State) (n : Bool) (v : Word) : State := s.setEth n { s.eth n with mac := some (v.setWidth 48) }

/-- A port is enabled once it has an address. -/
def State.enableEth (s : State) (n : Bool) (v : Word) : State :=
  let e := s.eth n
  s.setEth n { e with en := v.getLsbD 0 && e.mac.isSome }

def State.postFrame (s : State) (n : Bool) (ring : Nat) (f : List Byte) (tag : Option (BitVec 16)) (sums : Bool) : State :=
  let e := s.eth n
  let f := addTag (if sums then fillSums f else f) tag
  if !frameOk f then s else s.setEth n { e with tx := mapSet e.tx ring ((mapGet e.tx ring).getD [] ++ [f]) }

def State.takeFrame (s : State) (n : Bool) (ring : Nat) : State :=
  let e := s.eth n
  match (mapGet e.rx ring).getD [] with
  | [] => s
  | f :: fs => { s.setEth n { e with rx := mapSet e.rx ring fs } with rdata := f.stamp }

/-- BAR2 opens onto one aligned carve-out range of up to 16 GiB, or closes; another range is not taken. -/
def State.openBar2 (s : State) (len : Nat) (v : Word) : State :=
  let a := v.toNat
  if len = 0 then { s with pcie := { s.pcie with bar2 := none } }
  else if a % 2 ^ 21 = 0 && len % 2 ^ 21 = 0 && decide (len ≤ 2 ^ 34) && inCarveOut a len then
    { s with pcie := { s.pcie with bar2 := some (a, len) } }
  else s

/-- An MSI-X vector goes to the host while the link is up. -/
def State.raiseMsix (s : State) (n : BitVec 6) : State :=
  if s.pcie.width = 0 then s else { s with pcie := { s.pcie with raised := s.pcie.raised ++ [n] } }

def State.setWindowOut (s : State) (i len : Nat) (v : Word) : State :=
  { s with pcie := { s.pcie with windows := mapSet s.pcie.windows i (v.toNat, len) } }

/-- The host address of an access through an outbound window; none outside it or while the link is down. -/
def hostAddr (s : State) (i off size : Nat) : Option Nat :=
  match mapGet s.pcie.windows i with
  | some (base, len) => if s.pcie.width ≠ 0 && decide (off + size ≤ len) then some (base + off) else none
  | none => none

def State.storeHost (s : State) (i off size : Nat) (v : Word) : State :=
  match hostAddr s i off size with
  | some a => { s with pcie := { s.pcie with toHost := s.pcie.toHost ++ [(a, leBytes size v.toNat)] } }
  | none => s

/-- What host memory holds is the host's: the answer is free (log 5). -/
def State.loadHost (s : State) (i off size : Nat) : State :=
  match hostAddr s i off size with
  | some _ => let f := s.free; { f.2 with rdata := BitVec.ofNat 64 (f.1.toNat % 2 ^ (8 * size)) }
  | none => s

/-! UCIe. -/

/-- UCIE_MODULE_OUT: a module in service leaves it (R406). Its group runs on what remains. -/
def execUcieModuleOut (u : BitVec 4) (s : State) : Host.Outcome State Fault Refusal :=
  .next (if s.up && !s.log.ucieOut.getLsbD u.toNat then
    ({ s with log := { s.log with ucieOut := s.log.ucieOut ||| (1#16 <<< u.toNat) } } : State).error 2 0x0108 u.toNat []
    else s)

/-- UCIE_RETRY: a module in service resends a flit (R405, Table 16.7). -/
def execUcieRetry (u : BitVec 4) (s : State) : Host.Outcome State Fault Refusal :=
  .next (if s.up && !s.log.ucieOut.getLsbD u.toNat then
    { s with log := { s.log with ucieRetries := satAdd (2 ^ 32 - 1) s.log.ucieRetries 1 } } else s)

end Sys2Proof.Machine
end

