-- ==== Sys2Proof/Machine/Library.lean ====
section
/-! DEFINITION. The library tier and the weight records (spec/13_memory_tiers.md R328 to R337), and the import ranges (R315,
R316). -/
namespace Sys2Proof.Machine

/-- Heat stops a library stack (R436). -/
def libStopped (s : State) (stack : Nat) : Bool := s.power.libLevels.toList.getD stack 0 == 2

/-- Records that name a library page and are in one of some states. -/
def recordsOf (s : State) (page : Nat) (ok : WState → Bool) : List Nat :=
  (List.range s.wrecCount).filter (fun k => let r := s.wrec k; r.lpage == page && ok r.state)

/-- The migration of record `k` is the one its library stack has started (R335). -/
def migFirst (s : State) (k : Nat) : Bool :=
  match s.migs.find? (fun e => migStack s e.1 == migStack s k) with
  | some e => e.1 == k
  | none => true

/-- A migration under way can end now: its page is SEALED and not being read again, heat does not stop its stack, and it has
started (R331, R335, R436). -/
def migReady (s : State) (k : Nat) : Bool :=
  let r := s.wrec k
  let p := (migPages s k).1
  (r.state == .migrating || r.state == .refetch) && (s.libPage p).state == .sealed && !setHas s.libRetry p
  && !libStopped s (libStackOf p) && migFirst s k

/-- MIGRATION_COMPLETE: all 2 MiB of a MIGRATING or REFETCH record reach HPAGE (R334 to R336). -/
def execMigrationComplete (k : BitVec 20) (s : State) : Host.Outcome State Fault Refusal :=
  .next (
    if !s.up || s.wrecCount ≤ k.toNat || !migReady s k.toNat then s else
    let e := migPages s k.toNat
    let s := s.zero (e.2 * pageBytes) pageBytes
    let s : State := { s with mem := memCopy s.mem s.lib (e.1 * pageBytes) (e.2 * pageBytes) pageBytes,
                              migs := s.migs.filter (fun m => m.1 != k.toNat), wlatch := mapSet s.wlatch k.toNat e }
    let s := s.putWrec k.toNat .resident (s.wrec k.toNat).refetches
    ((s.count 0x500 pageBytes).count 0x508 1).countPage (e.2 * pageBytes))

/-- The other three pages of the stripe can be read (R331 step 2). -/
def canRebuild (s : State) (p : Nat) : Bool :=
  setHas s.parity (stripeOf p) && (List.range 3).all (fun i => let q := 3 * stripeOf p + i; q == p || (s.libPage q).state == .sealed)

/-- A page becomes LOST; the records that wait on its migration move to LIB_LOST (R331, R334: Table 13.10 moves no other). -/
def State.losePage (s : State) (p : Nat) : State :=
  let s := s.setLibPage p { s.libPage p with state := .lost }
  let ks := recordsOf s p (fun t => t == .migrating || t == .refetch)
  let s : State := { s with parity := setDel s.parity (stripeOf p), libRetry := setDel s.libRetry p, migs := s.migs.filter (fun e => !ks.contains e.1) }
  ks.foldl (fun s k => s.putWrec k .libLost (s.wrec k).refetches) s

/-- LIB_READ_ERROR (R331). -/
def execLibReadError (page : BitVec 20) (how : LibErr) (s : State) : Host.Outcome State Fault Refusal :=
  .next (
    let p := page.toNat
    if !s.up || (s.libPage p).state ≠ .sealed then s else
    match how with
    | .begins => { s with libRetry := setAdd s.libRetry p }
    | .retryOk => { s with libRetryOk := satAdd 0xFFFF s.libRetryOk 1, libRetry := setDel s.libRetry p }
    | .rebuilt => if canRebuild s p then { s with libRebuilt := satAdd 0xFFFF s.libRebuilt 1, libRetry := setDel s.libRetry p } else s
    | .lost second =>
      let hit := fun t : WState => t == .migrating || t == .refetch
      let two := match second with
        | some q => if q ≠ page && stripeOf q.toNat = stripeOf p && (s.libPage q.toNat).state = .sealed then some q.toNat else none
        | none => none
      let recs := recordsOf s p hit ++ (match two with | some q => recordsOf s q hit | none => [])
      let s := s.losePage p
      let s := match two with | some q => s.losePage q | none => s
      let s : State := { s with libLost := satAdd 0xFFFF s.libLost 1 }
      s.error 2 0x0104 0 (leBytes 4 p ++ leBytes 4 (match two with | some q => q | none => 0xFFFFFFFF) ++ leBytes 4 recs.length
        ++ ((recs.take 5).map (leBytes 4)).flatten))

/-- A library command is accepted: BUSY until LIB_COMMAND_DONE. -/
def State.libStart (s : State) (op result : Nat) (page count : BitVec 20) : State :=
  { s with libBusy := true, libOp := op, libPendingResult := result, libPage0 := page.toNat, libCount := count.toNat }

/-- A library command is refused and changes nothing (R330). -/
def State.libRefuse (s : State) (op : Nat) : State := { s with libOp := op, libResult := 1, intr := s.intr ||| 8 }

/-- A library command: refused while another is BUSY, or where a rule of R330 breaks. -/
def State.libCmd (s : State) (op : Nat) (ok : Bool) (body : State → State) : State :=
  if !s.up then s
  else if s.libBusy then { s with libResult := 1 }
  else if !ok then s.libRefuse op
  else body s

def rangeOk (page count : BitVec 20) (top : Nat) : Bool := decide (1 ≤ count.toNat) && decide (page.toNat + count.toNat ≤ top)
def pagesOf (page count : BitVec 20) : List Nat := tabulate count.toNat (fun i => page.toNat + i)

/-- OPEN: whole stripes of ERASED, SEALED or LOST pages become OPEN and empty (R330). -/
def execLibOpen (page count : BitVec 20) (s : State) : Host.Outcome State Fault Refusal :=
  .next (
    let ps := pagesOf page count
    let ok := rangeOk page count libPageCount && page.toNat % 3 == 0 && count.toNat % 3 == 0
      && ps.all (fun p => (s.libPage p).state != .opened && (recordsOf s p (fun t => t == .migrating || t == .resident || t == .refetch)).isEmpty)
    s.libCmd 1 ok (fun s =>
      let s := ps.foldl (fun s p => s.setLibPage p ⟨.opened, false, []⟩) s
      let s : State := { s with lib := memDrop s.lib (page.toNat * pageBytes) ((page.toNat + count.toNat) * pageBytes),
                                parity := s.parity.filter (fun t => !(decide (stripeOf page.toNat ≤ t) && decide (t < stripeOf (page.toNat + count.toNat)))) }
      s.libStart 1 0 page count))

/-- The source page of WRITE and REPAIR lies in the carve-out. -/
def libSrcOk (s : State) : Bool := inCarveOut (s.libSrc * pageBytes) pageBytes

/-- The page of the library takes the bytes of the source page. -/
def State.libTake (s : State) (p : Nat) : State := { s with lib := memCopy s.lib s.mem (s.libSrc * pageBytes) (p * pageBytes) pageBytes }

/-- A poisoned source gives WRITE_FAIL (R330, log 18). -/
def sourceResult (s : State) : Nat := if s.poisoned (s.libSrc * pageBytes) pageBytes then 3 else 0

/-- WRITE: one OPEN page from LIB_SRC, taken when the command completes (R330, R436). -/
def execLibWrite (page count : BitVec 20) (s : State) : Host.Outcome State Fault Refusal :=
  .next (s.libCmd 2 (rangeOk page count libPageCount && count == 1 && (s.libPage page.toNat).state == .opened && libSrcOk s) (fun s =>
    s.libStart 2 (sourceResult s) page count))

/-- The digest of a library page (R330). -/
def pageDigest (m : Mem) (p : Nat) : List Byte := shake256 (memBytes m (p * pageBytes) pageBytes) 64

/-- SEAL: every page written since OPEN; parity and digests are written by the time the command completes (R330). -/
def execLibSeal (page count : BitVec 20) (s : State) : Host.Outcome State Fault Refusal :=
  .next (
    let ps := pagesOf page count
    let ok := rangeOk page count libPageCount && page.toNat % 3 == 0 && count.toNat % 3 == 0
      && ps.all (fun p => let q := s.libPage p; q.state == .opened && q.written)
    s.libCmd 3 ok (fun s => s.libStart 3 0 page count))

/-- PREFETCH: starts the migration of ABSENT records (R330, R334). -/
def execLibPrefetch (first count : BitVec 20) (s : State) : Host.Outcome State Fault Refusal :=
  .next (s.libCmd 4 (rangeOk first count s.wrecCount) (fun s => ((pagesOf first count).foldl (fun s k => s.wantPage k false) s).libStart 4 0 first count))

/-- A read served from the page of record `k` is not yet performed. -/
def readsPending (s : State) (k : Nat) : Bool :=
  s.net.any (fun r => r.wrec == some k) || s.cores.any (fun e => match e.2.hold with | some (.load l) => l.wrec == some k | _ => false)

/-- A LIB_LOST record becomes ABSENT; a read that waits on it starts its migration again (R334). -/
def State.dropLost (s : State) (k : Nat) : State :=
  let s := s.putWrec k .absent (s.wrec k).refetches
  if readsPending s k then s.demand k else s

/-- DROP of one record: at once, or once its migration or its reads are done (R337). -/
def State.dropRecord (s : State) (k : Nat) : State :=
  let r := s.wrec k
  match r.state with
  | .absent => s
  | .libLost => s.dropLost k
  | .resident => if readsPending s k then { s with dropWait := setAdd s.dropWait k } else s.putWrec k .absent r.refetches
  | _ => { s with dropWait := setAdd s.dropWait k }

def execLibDrop (first count : BitVec 20) (s : State) : Host.Outcome State Fault Refusal :=
  .next (s.libCmd 5 (rangeOk first count s.wrecCount) (fun s => ((pagesOf first count).foldl State.dropRecord s).libStart 5 0 first count))

/-- DROP_COMPLETE (R337). -/
def execDropComplete (k : BitVec 20) (s : State) : Host.Outcome State Fault Refusal :=
  .next (
    let r := s.wrec k.toNat
    if !s.up || !setHas s.dropWait k.toNat then s else
    let t : State := { s with dropWait := setDel s.dropWait k.toNat }
    match r.state with
    | .libLost => t.dropLost k.toNat
    | .resident => if readsPending s k.toNat then s else t.putWrec k.toNat .absent r.refetches
    | _ => s)

/-- REPAIR: one LOST page from LIB_SRC, taken when the command completes if its digest matches (R332, R436). -/
def execLibRepair (page count : BitVec 20) (s : State) : Host.Outcome State Fault Refusal :=
  .next (
    let p := page.toNat
    s.libCmd 6 (rangeOk page count libPageCount && count == 1 && (s.libPage p).state == .lost && libSrcOk s) (fun s => s.libStart 6 (sourceResult s) page count))

/-- The pages of the command that is BUSY. -/
def busyPages (s : State) : List Nat := tabulate s.libCount (fun i => s.libPage0 + i)

/-- WRITE and REPAIR wait while heat stops the stack of their page, and SEAL while it stops one it reads or writes (R436). -/
def libHeatWait (s : State) : Bool :=
  match s.libOp with
  | 2 | 6 => libStopped s (libStackOf s.libPage0)
  | 3 => (busyPages s).any (fun p => libStopped s (libStackOf p) || libStopped s (stripeOf p % 4))
  | _ => false

/-- The page repaired from LIB_SRC: its records migrate again, and its stripe has parity once it is whole (R332). -/
def State.repaired (s : State) (p : Nat) : State :=
  let s := (s.libTake p).setLibPage p { s.libPage p with state := .sealed }
  let whole := (List.range 3).all (fun i => (s.libPage (3 * stripeOf p + i)).state == .sealed)
  let s : State := { s with parity := if whole then setAdd s.parity (stripeOf p) else s.parity }
  (recordsOf s p (fun t => t == .libLost)).foldl (fun s k => s.startMig k .migrating (s.wrec k).refetches (readsPending s k)) s

/-- One page sealed with its digest and its stripe's parity. -/
def State.seal (s : State) (p : Nat) : State :=
  { s.setLibPage p ⟨.sealed, true, pageDigest s.lib p⟩ with parity := setAdd s.parity (stripeOf p) }

/-- What the command that is BUSY does when it completes, and its result (R330, R332). -/
def State.libEffect (s : State) : State × Nat :=
  let p := s.libPage0
  if s.libPendingResult ≠ 0 then (s, s.libPendingResult) else
  match s.libOp with
  | 2 => if sourceResult s ≠ 0 then (s, 3) else ((s.libTake p).setLibPage p ⟨.opened, true, []⟩, 0)
  | 3 => ((busyPages s).foldl State.seal s, 0)
  | 6 => if sourceResult s ≠ 0 then (s, 3) else if pageDigest s.mem s.libSrc ≠ (s.libPage p).digest then (s, 2) else (s.repaired p, 0)
  | _ => (s, 0)

/-- LIB_COMMAND_DONE. -/
def execLibCommandDone (s : State) : Host.Outcome State Fault Refusal :=
  .next (if s.up && s.libBusy && !libHeatWait s then
    let r := s.libEffect
    { r.1 with libBusy := false, libResult := r.2, intr := s.intr ||| 8 } else s)

/-! Import ranges. -/

/-- Register A of a window or range keeps [59:0], register B [62:0] (Table 13.3). -/
def rangeField (second : Bool) (v : Word) : Word := if second then v &&& 0x7FFFFFFFFFFFFFFF else v &&& 0x0FFFFFFFFFFFFFFF

/-- MEM_IMPORT: a write of an import range; EN is cleared with a notice where it would admit a protected area (R315, R316). -/
def execMemImport (i : BitVec 4) (second : Bool) (v : Word) (s : State) : Host.Outcome State Fault Refusal :=
  .next (
    if !s.up then s
    else if fieldOf v 20 0 ≠ 0 then s.reservedWrite (importOffset i second) v
    else
      let s : State := if second then { s with impB := mapSet s.impB i.toNat (rangeField true v) } else { s with impA := mapSet s.impA i.toNat (rangeField false v) }
      s.clearImport i (importOffset i second))

end Sys2Proof.Machine
end

