-- ==== Sys2Proof/Machine/Units.lean ====
section
/-! DEFINITION. A unit that is lost to an internal error, and the return sequence (spec/06_akaux_programming_model.md R139 to R142,
spec/14_quaz_links_bell.md R368). -/
namespace Sys2Proof.Machine

/-- A core is emptied: its queues, hold, flags, counters, chains, regions and scratchpad (R141); what its instructions held is
given up. -/
def State.clearCoreState (s : State) (c : CoreId) : State :=
  let seat := (s.core c).seat
  let s := (s.giveUp c (fun _ => true)).modCore c Core.cleared
  match seat with | some i => s.endTransfers c i | none => s

/-- A core found with an internal error: its thread faults with UNIT_LOST, and the core leaves service (R139, R142). -/
def State.loseCore (s : State) (c : CoreId) : State :=
  let s := s.fault c cUnitLost (s.core c).th.pc []
  ((s.clearCoreState c).modCore c (fun k => { k with leave := .returning })).leaveService (.core c)

/-- UNIT_INTERNAL_ERROR. -/
def execUnitInternalError (u : UnitId) (s : State) : Host.Outcome State Fault Refusal :=
  .next (
    if !s.up || !s.unitIn u then s else
    match u with
    | .core c => s.loseCore c
    | .port p => s.portOut p
    | u => s.leaveService u)

/-- RETURN_SEQUENCE: a quarantined unit is cleared, takes the die epoch and opens its port; a link port repeats roll call with
RESUME = 0, and a core that the master took offline stays out (R141, R368, R414). -/
def execReturnSequence (u : UnitId) (s : State) : Host.Outcome State Fault Refusal :=
  .next (
    if !s.up || s.unitIn u then s else
    match u with
    | .core c =>
      if (s.core c).offline then s
      else ((s.clearCoreState c).modCore c (fun k => { k with leave := .stay })).rejoin u
    | .port p =>
      let s := s.rejoin u
      if (s.port p).en && (s.port p).state != .failed then (s.dropReplay p).modPort p (fun q => q.train false) else s
    | u => s.rejoin u)

end Sys2Proof.Machine
end

