-- ==== Sys2Proof/Machine/Sleep.lean ====
section
/-! DEFINITION. Doze and Hibernate: entry, wake and exit (spec/17_power_startup_sleep.md R438 to R445). -/
namespace Sys2Proof.Machine

/-- Codes of the two sleep states, as OP, PSTATE and SLEEP name them. -/
def opDoze : Nat := 3
def opHibernate : Nat := 4

def pwrStateOffset : Nat := 0x0100000

/-- A source that can wake the module is enabled (R440). -/
def wakeable (p : Power) : Bool := p.wakeEn.getLsbD 1 || p.wakeEn.getLsbD 2 || (p.wakeEn.getLsbD 0 && p.wakeAt != 0)

/-- A sleep command is refused (R440). -/
def State.sleepRefuse (s : State) (op : Nat) (v : Word) : State :=
  let s : State := if s.power.stateBusy then s else { s with power := { s.power with stateOp := op, stateResult := true } }
  s.cmdRefused pwrStateOffset v

/-- The slice of a core ends for sleep: no debt, no save (R440 step 1). A stop under way for another reason than a switch, or on a
core that leaves service, stays. -/
def State.sleepCore (s : State) (c : CoreId) : State :=
  let k := s.core c
  if k.leave = .leaving then s else
  match k.seat, k.stop with
  | none, _ => s
  | some _, some .slice => s.modCore c (fun k => { k with stop := some .sleep })
  | some _, some .preempt => s.modCore c (fun k => { k with stop := some .sleep })
  | some _, some .yield => s.modCore c (fun k => { k with stop := some .sleep })
  | some _, some _ => s
  | some _, none => s.stopCore c .sleep

/-- DOZE or HIBERNATE is written, in the word `v` (R440, R441). -/
def State.sleepCmd (s : State) (op : Nat) (v : Word) : State :=
  if !s.up then s else
  if s.power.entering.isSome || s.ttBusy || s.kvBusy || s.libBusy || !wakeable s.power then s.sleepRefuse op v
  else
    allCores.foldl State.sleepCore
      { s with power := { s.power with entering := some op, stateBusy := true, stateResult := false, stateOp := op } }

def execDoze (s : State) : Host.Outcome State Fault Refusal := .next (s.sleepCmd opDoze 3)
def execHibernate (s : State) : Host.Outcome State Fault Refusal := .next (s.sleepCmd opHibernate 4)

/-- Every started instruction has completed, nothing is in flight, and a core the master takes offline has left (R414, R440
step 1). -/
def sleepQuiet (s : State) : Bool := s.net.isEmpty && allCores.all (fun c => (s.core c).drained && (s.core c).leave != .leaving)

/-- The SLEEP message of a port (R442). -/
def sleepBytes (s : State) (op : Nat) : List Byte := leBytes 2 msgSleep ++ leBytes 1 op ++ leBytes 5 0 ++ leBytes 8 s.power.wakeAt.toNat

/-- An UP port sends SLEEP once and then no DATA flit (R440 step 2). -/
def State.sendSleep (s : State) (op : Nat) (p : PortId) : State :=
  let q := s.port p
  if q.state = .up && !q.sleepSent then (s.sendControl p (sleepBytes s op)).modPort p (fun q => { q with sleepSent := true }) else s

/-- A port goes dark; Doze keeps its stream, Hibernate does not (R440, R441). -/
def Port.dark (q : Port) (op : Nat) : Port :=
  { q with state := if q.state = .disabled then .disabled else .down, lanes := 0, sleepSent := false,
           lostLock := false,
           resume := decide (op = opDoze) && (q.state == .up || q.resume),
           sleeping := if op = opHibernate && q.sleeping == some 3 then some 4 else q.sleeping }

/-- Hibernate removes power from a core: its running thread is saved first (R441). -/
def State.hibernateCore (s : State) (c : CoreId) : State :=
  let s := if (s.core c).stop = some .sleep then s.saveSeat c else s
  (s.giveUp c (fun _ => true)).modCore c Core.vacate

/-- Rails and clocks stop (R440 steps 3 and 4, R441). The die epochs advance for Hibernate (R139). -/
def State.asleep (s : State) (op : Nat) : State :=
  let s := if op = opHibernate then
      let s := (allPorts.foldl State.dropReplay s)
      let s := allCores.foldl State.hibernateCore s
      { s with epoch0 := s.epoch0 + 1, epoch1 := s.epoch1 + 1 }
    else s
  let s := allPorts.foldl (fun s p => s.modPort p (fun q => q.dark op)) s
  { s with
    pstate := if op = opDoze then .doze else .hibernate,
    pcie := { s.pcie with width := 0, rate := 0 },
    bellState := if s.bellState = .free then .free else .holdover,
    bellLost := if s.bellState = .locked then satAdd 0xFF s.bellLost 1 else s.bellLost,
    power := { s.power with entering := none, stateBusy := false, idleSince := none,
                            wakeCause := match s.power.wakeKept with | some w => w | none => s.power.wakeCause } }

/-- A port has DATA flits on their way that can still be acknowledged (R440 step 2). -/
def draining (q : Port) : Bool :=
  !q.replay.isEmpty && q.inService && (q.state == .up || q.state == .training || q.state == .rollCall)

/-- SLEEP_ENTRY_COMPLETE: once started instructions complete, the ports send SLEEP; once every DATA flit is acknowledged,
sleep begins (R440). -/
def execSleepEntryComplete (s : State) : Host.Outcome State Fault Refusal :=
  .next (
    match s.power.entering with
    | none => s
    | some op =>
      if !s.up || !sleepQuiet s then s else
      let s := allPorts.foldl (fun s p => s.sendSleep op p) s
      if allPorts.any (fun p => draining (s.port p)) then s else s.asleep op)

/-- A wake source fires: kept during entry, and exit begins (R443, R445). -/
def State.wake (s : State) (source : Nat) : State :=
  let w : BitVec 3 := 1#3 <<< source
  if s.life ≠ .running || s.power.wakeKept.isSome || !s.power.wakeEn.getLsbD source then s
  else if s.power.entering.isSome then { s with power := { s.power with wakeKept := some w } }
  else if s.pstate = .doze || s.pstate = .hibernate then { s with power := { s.power with wakeKept := some w, wakeCause := w } }
  else s

/-- WAKE_TIMER: the bell reaches PWR_WAKE_AT; 0 disables the timer (R443). -/
def execWakeTimer (s : State) : Host.Outcome State Fault Refusal :=
  .next (if s.power.wakeAt != 0 && decide (s.power.wakeAt.toNat ≤ s.bell) then s.wake 0 else s)

/-- WAKE_ETHERNET: signal energy on a port (R443). -/
def execWakeEthernet (n : Bool) (s : State) : Host.Outcome State Fault Refusal := .next (s.wake (1 + n.toNat))

/-- A seated thread resumes after Doze: its core begins a new slice of it (R444). -/
def State.resumeCore (s : State) (c : CoreId) : State :=
  let k := s.core c
  match k.seat, k.stop with
  | some i, some .sleep => (s.beginSlice c i).preempt c
  | _, _ => s

/-- After Hibernate a core in service runs the return sequence (R141, R441); STEPCNT starts again at an unspecified value
(log 5). -/
def State.reviveCore (s : State) (c : CoreId) : State :=
  let f := s.free
  let s := f.2.modCore c (fun k => { k with stepcnt := f.1 })
  if (s.core c).inService then (s.clearCoreState c).rejoin (.core c) else s

/-- A port trains again (R444), unless its partner still sleeps (R442). -/
def State.revivePort (s : State) (hib : Bool) (p : PortId) : State :=
  let q := s.port p
  let s := if hib && q.inService then s.rejoin (.port p) else s
  if q.en && q.inService && q.state == .down && q.sleeping.isNone then s.modPort p (fun q => q.retrain q.resume s.bell) else s

/-- SLEEP_EXIT_COMPLETE (R444). -/
def execSleepExitComplete (s : State) : Host.Outcome State Fault Refusal :=
  .next (
    if s.life ≠ .running || s.power.wakeKept.isNone || !(s.pstate == .doze || s.pstate == .hibernate) then s else
    let hib := s.pstate == .hibernate
    let s : State := { s with pstate := .active, power := { s.power with wakeKept := none } }
    let s := if hib then allCores.foldl State.reviveCore s else allCores.foldl State.resumeCore s
    allPorts.foldl (fun s p => s.revivePort hib p) s)

end Sys2Proof.Machine
end

