-- ==== Sys2Proof/Machine/Registers.lean ====
section
/-! DEFINITION. The register window: what every register reads as, the reads that clear, and the writes
(spec/00_scope.md R10 to R13, spec/16_master_interface.md R404, R412 to R421, and the register tables of the chapters). -/
namespace Sys2Proof.Machine

/-! Blocks of Table 16.3: an offset is a block of 1 MiB and a register within it, or a core's window. -/

def coreBase : Nat := 0x1000000
def coreOffset (c : CoreId) : Nat := coreBase + 0x10000 * c.toNat

/-- `off` lies in an array of `n` registers `step` apart from `base`: its index. -/
def regIndex (off base step n : Nat) : Option Nat :=
  if base ≤ off ∧ off < base + step * n ∧ (off - base) % step = 0 then some ((off - base) / step) else none

/-! Values. -/

def pstateCode : PState → Nat
  | .none => 0 | .active => 1 | .idle => 2 | .doze => 3 | .hibernate => 4

/-- DEV_STATE (Table 16.4). -/
def devState (s : State) : Nat := pstateCode s.pstate + (s.life == .locked).toNat * 8 + s.boot * 16

/-- DEV_ID: part and vendor. -/
def devId : Nat := 0xD016 + 0x0EB1 * 2 ^ 16

/-- DEV_REV: the revision codes of the identity record (Table 18.4). -/
def devRev : Nat := ofLeBytes (dieRev ++ dieRev ++ dieRev)

/-- A bit per index of a list. -/
def bitsOf (l : List Bool) : Nat := ((List.range l.length).filter (fun i => l.getD i false)).foldl (fun a i => a + 2 ^ i) 0

/-- DEV_CORES. -/
def devCores (s : State) : Nat := bitsOf (allCores.map (fun c => (s.core c).inService))

/-- The mean over the samples of the last 1 ms, truncated (R430). -/
def meanOf (rs : List PowerReading) (f : PowerReading → Nat) : Nat := (rs.map f).sum / max 1 rs.length

/-- PWR_INPUT. -/
def pwrInput (s : State) : Nat :=
  let m := meanOf s.power.samples
  m (·.vinMv) % 2 ^ 16 + (m (·.iin10mA) % 2 ^ 16) * 2 ^ 16 + (m (·.pinW) % 2 ^ 16) * 2 ^ 32

/-- PWR_RAILr: mV, 0.1 A, W. -/
def pwrRail (s : State) (r : Nat) : Nat :=
  let m := meanOf s.power.samples
  m (·.railMv.getD r 0) % 2 ^ 16 + (m (·.railDa.getD r 0) % 2 ^ 16) * 2 ^ 16
  + (m (fun x => x.railMv.getD r 0 * x.railDa.getD r 0 / 10000) % 2 ^ 16) * 2 ^ 32

/-- PWR_STATUS. -/
def pwrStatus (p : Power) : Nat :=
  bitsOf [p.capActive, p.capFloor, p.miss0, p.miss1, p.throttle, p.vinBand != 0]

/-- PWR_RC_RESULT: the port bits follow the ports; one the record does not enable passes (R448). -/
def pwrRcResult (s : State) : Nat :=
  let on (p : PortId) : Bool := (expectOf s p).isSome
  if !s.power.rcResult.getLsbD 17 then 0
  else s.power.rcResult.toNat + bitsOf (allPorts.map (fun p => !on p || (s.port p).rcPort)) * 2 ^ 4
    + bitsOf (allPorts.map (fun p => !on p || (s.port p).rcLength)) * 2 ^ 10

/-- A temperature in 0.1 degree as 12 bits. -/
def temp12 (t : Int) : Nat := (t % 4096).toNat

/-- THM_STATUS; CEIL is the lower of the two thermal ceilings from start-up on, and zero at reset (Table 17.2). -/
def thmStatus (s : State) : Nat :=
  let p := s.power
  bitsOf [p.throttle, p.emergency, p.libLevels.toList.any (· != 0)] + (if s.armed then min p.thermCeil0 p.thermCeil1 * 2 ^ 8 else 0)

/-- THM_TEMPO_METERn (Table 2.2). -/
def tempoMeter (p : Power) (n : Nat) : Nat := stepsUs p n + (stepsAvg p n % 2 ^ 16) * 2 ^ 16 + p.below.toList.getD n 0 * 2 ^ 32

def secStatus (s : State) : Nat := s.sec.ownerKey.isSome.toNat + s.sec.identityOk.toNat * 2 + s.sec.sensors.toNat * 4

def bellCode : BellState → Nat
  | .free => 0 | .locking => 1 | .locked => 2 | .holdover => 3

/-- BELL_STATUS (Table 14.12). -/
def bellStatusValue (s : State) : Nat :=
  bellCode s.bellState + (s.bellRate % 65536).toNat * 2 ^ 8 + (min s.bellMax 0xFFFF) * 2 ^ 32 + s.bellLost * 2 ^ 48

def portCode : PortState → Nat
  | .down => 0 | .training => 1 | .rollCall => 2 | .up => 3 | .failed => 4 | .disabled => 5

/-- LNK_PORT_STATUSp (Table 14.11). -/
def portStatus (q : Port) : Nat :=
  portCode q.state + q.lanes * 2 ^ 3 + q.partnerChip.toNat * 2 ^ 8 + q.partnerPort.toNat * 2 ^ 20 + q.mismatch.toNat * 2 ^ 23
  + q.lengthDm * 2 ^ 24 + q.session.toNat * 2 ^ 40

/-- LNK_PORT_CTRLp; RETRAIN reads zero. -/
def portCtrl (q : Port) : Nat :=
  q.en.toNat + q.halfOk.toNat * 4 + q.expectChip.toNat * 8 + q.expectPort.toNat * 2 ^ 15 + q.expectEn.toNat * 2 ^ 18

def portErr (q : Port) : Nat :=
  q.fecCorr + q.fecUncorr * 2 ^ 16 + q.replays * 2 ^ 32 + q.retrains * 2 ^ 48 + q.sessionDiscards * 2 ^ 56

/-- LNK_ROUTEn: eight entries. -/
def routeWord (s : State) (n : Nat) : Nat :=
  ofLeBytes (tabulate 8 (fun k => routeOf s (BitVec.ofNat 12 (8 * n + k))))

/-- CORE_STATUS. -/
def coreStatus (s : State) (c : CoreId) : Nat :=
  let k := s.core c
  k.inService.toNat + (k.epoch != dieEpoch s (coreDie c)).toNat * 2 + k.seat.isSome.toNat * 4
  + (match k.runCtx with | some x => x.toNat * 8 | none => 0) + (match k.seat with | some i => i.toNat * 2 ^ 9 | none => 0)

def coreErrValue (k : Core) : Nat := k.spadCorr + k.spadUncorr * 2 ^ 16 + k.discards * 2 ^ 32

/-- TT_COREn. -/
def ttCore (k : Core) : Nat :=
  ((List.range 4).map (fun i => match k.seats.toList.getD i none with
    | some x => (x.ctx.toNat + 64) * 2 ^ (8 * i) | none => 0)).sum
  + (match k.seat with | some i => i.toNat * 2 ^ 32 + 2 ^ 34 | none => 0)

def slotCode : SlotState → Nat
  | .unassigned => 0 | .idle => 1 | .live => 2 | .paused => 3 | .failed => 4 | .prefixLost => 5

/-- KV_SLOTs. -/
def kvSlotWord (t : Slot) : Nat :=
  slotCode t.state + t.evictable.toNat * 8 + t.ctx.toNat * 2 ^ 4 + t.length * 2 ^ 10 + t.cap * 2 ^ 32

/-- KV_POOLp_CTL. -/
def poolCtl (s : State) (n : BitVec 4) : Nat :=
  let p := s.pool n
  if !p.en then 0 else p.en.toNat + p.ready.toNat * 2 + freeCount s n * 2 ^ 8 + (setsIn s n .cached).length * 2 ^ 32

/-- Register `j` of pool `n`. -/
def poolReg (s : State) (n : BitVec 4) (j : Nat) : Nat :=
  let p := s.pool n
  match j with
  | 0 => p.base | 1 => p.frame | 2 => p.ns | 3 => p.sets | 4 => p.srec | 5 => p.hdr | 6 => p.defHdr | _ => poolCtl s n

/-- The offsets of the counters of Table 16.8 within the PERF block. -/
def perfDefined (r : Nat) : Bool :=
  (regIndex r 0x100 8 2).isSome || (regIndex r 0x110 8 2).isSome || (regIndex r 0x120 8 2).isSome || (regIndex r 0x200 8 16).isSome
  || (regIndex r 0x300 8 2).isSome || (regIndex r 0x310 8 2).isSome || (regIndex r 0x320 8 2).isSome || (regIndex r 0x400 8 12).isSome
  || (regIndex r 0x500 8 4).isSome

/-! What each block's registers read as; none for an offset that is no register (R412). -/

def devReg (s : State) : Nat → Option Nat
  | 0x00 => some devId
  | 0x08 => some devRev
  | 0x10 => some s.straps.toNat
  | 0x18 => some (devState s)
  | 0x20 => some (s.epoch0.toNat + s.epoch1.toNat * 2 ^ 16)
  | 0x28 => some (devCores s)
  | 0x30 => some s.devScratch.toNat
  | 0x38 => some s.intr.toNat
  | 0x40 => some s.intrEn.toNat
  | _ => none

def pwrReg (s : State) (r : Nat) : Option Nat :=
  let p := s.power
  match r with
  | 0x00 => some 0
  | 0x08 => some (p.stateBusy.toNat + p.stateResult.toNat * 2 + p.stateOp * 4)
  | 0x10 => some p.mode.toNat
  | 0x18 => some (p.target0 + p.target1 * 2 ^ 16)
  | 0x20 => some p.cap
  | 0x28 => some (pwrInput s)
  | 0x30 => some p.peak
  | 0x38 => some (pwrStatus p)
  | 0x40 => some p.lastOff
  | 0x48 => some p.wakeAt.toNat
  | 0x50 => some p.wakeEn.toNat
  | 0x58 => some p.wakeCause.toNat
  | 0x60 => some (p.installBusy.toNat * 2 + p.installRefused.toNat * 4 + p.installBase)
  | 0x68 => some (pwrRcResult s)
  | r => (regIndex r 0x100 8 8).map (pwrRail s)

def thmReg (s : State) (r : Nat) : Option Nat :=
  let p := s.power
  match regIndex r 0 8 8, regIndex r 0x40 8 4, regIndex r 0x60 8 3, regIndex r 0x100 8 8 with
  | some i, _, _, _ => some (temp12 (p.stackTemps.getD i 0))
  | _, some i, _, _ => some (temp12 (p.libs.getD i 0))
  | _, _, some i, _ => some (temp12 (p.dies.getD i 0))
  | _, _, _, some i => some (tempoMeter p i)
  | _, _, _, _ => match r with
    | 0x78 => some (temp12 p.inlet)
    | 0x80 => some (thmStatus s)
    | _ => none

def secReg (s : State) (r : Nat) : Option Nat :=
  match r with
  | 0x00 => some (secStatus s)
  | 0x08 => some 0
  | 0x10 => some (s.sec.busy.toNat + s.sec.result * 2 + s.sec.op * 2 ^ 4)
  | 0x18 => some (((List.range 9).map (fun n => s.sec.levels.toList.getD n 0 * 4 ^ n)).sum)
  | 0x20 => some (((List.range 3).map (fun n => (s.sec.floors.toList.getD n 0).toNat * 2 ^ (16 * n))).sum)
  | r => (regIndex r 0x100 8 64).map (fun i => bitField (s.sec.meas.toList.getD (i / 8) 0).toNat (64 * (i % 8) + 63) (64 * (i % 8)))

def bellReg (s : State) : Nat → Option Nat
  | 0x00 => some s.bell
  | 0x08 => some s.bellRoot.toNat
  | 0x10 => some (bellStatusValue s)
  | 0x18 => some 0
  | _ => none

def lnkReg (s : State) (r : Nat) : Option Nat :=
  match r with
  | 0x00 => some (s.chipId.toNat + s.chipValid.toNat * 2 ^ 12)
  | 0x08 => some s.dims.toNat
  | 0x10 => some 0
  | r =>
    match regIndex r 0x40 8 6, regIndex r 0x80 8 6, regIndex r 0xC0 8 6 with
    | some p, _, _ => some (portStatus (s.port (BitVec.ofNat 3 p)))
    | _, some p, _ => some (portCtrl (s.port (BitVec.ofNat 3 p)))
    | _, _, some p => some (portErr (s.port (BitVec.ofNat 3 p)))
    | _, _, _ => (regIndex r 0x1000 8 512).map (routeWord s)

def memReg (s : State) (r : Nat) : Option Nat :=
  match r with
  | 0x00 => some s.wrecBase
  | 0x08 => some s.wrecCount
  | 0x10 => some (s.flushBusy.toNat * 2 ^ 7)
  | 0x18 => some (((List.range 8).map (fun i => s.power.levels.toList.getD i 0 * 8 ^ i)).sum)
  | r =>
    match regIndex r 0x800 8 64, regIndex r 0x1000 8 2048, regIndex r 0x5000 8 32 with
    | some c, _, _ => some (regOf s.ttbase c).toNat
    | _, some i, _ => some (regOf (if i % 2 = 0 then s.winA else s.winB) (i / 2)).toNat
    | _, _, some i => some (regOf (if i % 2 = 0 then s.impA else s.impB) (i / 2)).toNat
    | _, _, _ => none

def libReg (s : State) : Nat → Option Nat
  | 0x00 => some 0
  | 0x08 => some (s.libSrc * 2 ^ 21)
  | 0x10 => some (s.libBusy.toNat + s.libOp * 2 + s.libResult * 2 ^ 5)
  | 0x18 => some (s.libRetryOk + s.libRebuilt * 2 ^ 16 + s.libLost * 2 ^ 32)
  | _ => none

def ttReg (s : State) (r : Nat) : Option Nat :=
  match r with
  | 0x00 => some s.ttCtxBase
  | 0x08 => some 0
  | 0x10 => some (s.ttBusy.toNat + s.ttResult.toNat * 2 + s.ttOp * 4 + s.ttCtx.toNat * 2 ^ 5)
  | 0x18 => some (bitsOf (allCtxs.map (fun x => (s.ctx x).state != .off)))
  | 0x20 => some ((scanner s == some true).toNat + (!s.unitIn (.timetable false)).toNat * 2)
  | r => (regIndex r 0x100 8 64).map (fun n => ttCore (s.core (BitVec.ofNat 6 n)))

def kvReg (s : State) (r : Nat) : Option Nat :=
  match r with
  | 0x00 => some 0
  | 0x08 => some s.kvArg0
  | 0x10 => some s.kvArg1.toNat
  | 0x18 => some s.kvArg2.toNat
  | 0x20 => some (s.kvBusy.toNat + s.kvResult.toNat * 2 + s.kvOp * 4 + s.kvSlot.toNat * 2 ^ 6)
  | 0x28 => some s.kvStep.toNat
  | r =>
    match regIndex r 0x1000 8 128, regIndex r 0x2000 8 128, regIndex r 0x40000 8 16384 with
    | some i, _, _ => some (poolReg s (BitVec.ofNat 4 (i / 8)) (i % 8))
    | _, some i, _ =>
      let k := s.kvCtx (BitVec.ofNat 6 (i / 2))
      some (if i % 2 = 0 then k.pool.toNat + k.domain.toNat * 2 ^ 16 else k.idxB.toNat + k.idx)
    | _, _, some n => some (kvSlotWord (s.slot (BitVec.ofNat 14 n)))
    | _, _, _ => none

def errReg (s : State) (r : Nat) : Option Nat :=
  let l := s.log
  match r with
  | 0x00 => some l.base
  | 0x08 => some (l.log2 + l.en.toNat * 2 ^ 8 + l.mask.toNat * 2 ^ 16)
  | 0x10 => some l.prod.toNat
  | 0x18 => some l.cons.toNat
  | 0x20 => some (l.lostNotices + l.lostOther * 2 ^ 16)
  | 0x28 => some l.alert.toNat
  | 0x30 => some (l.hbmCorr + l.hbmUncorr * 2 ^ 32)
  | 0x38 => some (l.spadCorr + l.spadUncorr * 2 ^ 32)
  | 0x40 => some (l.discardEpoch + l.discardArrival * 2 ^ 32)
  | 0x48 => some (l.ucieRetries + l.ucieOut.toNat * 2 ^ 32)
  | 0x50 => some (l.cdCorr + l.cdWatchdog * 2 ^ 32)
  | _ => none

def perfReg (s : State) (r : Nat) : Option Nat :=
  if r = 0 then some (s.snapValid.toNat * 2)
  else if perfDefined r then some ((mapGet s.perf r).getD 0)
  else if perfDefined (r - 0x8000) && decide (0x8000 ≤ r) then some ((mapGet s.perfCopy (r - 0x8000)).getD 0)
  else none

def coreReg (s : State) (c : CoreId) : Nat → Option Nat
  | 0x00 => some (coreStatus s c)
  | 0x08 => some (s.core c).epoch.toNat
  | 0x10 => some (s.core c).stepcnt.toNat
  | 0x18 => some (s.core c).offline.toNat
  | 0x20 => some (coreErrValue (s.core c))
  | _ => none

/-- A register of the window. -/
def windowReg (s : State) (off : Nat) : Option Nat :=
  let r := off % 2 ^ 20
  match off / 2 ^ 20 with
  | 0 => devReg s r | 1 => pwrReg s r | 2 => thmReg s r | 3 => secReg s r | 4 => bellReg s r | 5 => lnkReg s r
  | 6 => memReg s r | 7 => libReg s r | 8 => ttReg s r | 9 => kvReg s r | 10 => errReg s r | 11 => perfReg s r
  | _ => if coreBase ≤ off ∧ off < coreBase + 0x400000 then coreReg s (BitVec.ofNat 6 ((off - coreBase) / 0x10000)) (off % 0x10000) else none

/-! The fields that a read clears (R10). -/

def Port.clearErr (q : Port) : Port := { q with fecCorr := 0, fecUncorr := 0, replays := 0, retrains := 0, sessionDiscards := 0 }
def Core.clearErr (k : Core) : Core := { k with spadCorr := 0, spadUncorr := 0, discards := 0 }

def State.readClears (s : State) (off : Nat) : State :=
  match off with
  | 0x0100030 => { s with power := { s.power with peak := 0 } }
  | 0x0100058 => { s with power := { s.power with wakeCause := 0 } }
  | 0x0400010 => { s with bellLost := 0 }
  | 0x0700018 => { s with libRetryOk := 0, libRebuilt := 0, libLost := 0 }
  | 0x0A00020 => { s with log := { s.log with lostNotices := 0, lostOther := 0 } }
  | 0x0A00030 => { s with log := { s.log with hbmCorr := 0, hbmUncorr := 0 } }
  | 0x0A00038 => { s with log := { s.log with spadCorr := 0, spadUncorr := 0 } }
  | 0x0A00040 => { s with log := { s.log with discardEpoch := 0, discardArrival := 0 } }
  | 0x0A00048 => { s with log := { s.log with ucieRetries := 0 } }
  | 0x0A00050 => { s with log := { s.log with cdCorr := 0, cdWatchdog := 0 } }
  | off =>
    match regIndex off 0x0200100 8 8, regIndex off 0x05000C0 8 6, regIndex off (coreBase + 0x20) 0x10000 64 with
    | some n, _, _ => { s with power := { s.power with below := s.power.below.set! n 0 } }
    | _, some p, _ => s.modPort (BitVec.ofNat 3 p) Port.clearErr
    | _, _, some c => s.modCore (BitVec.ofNat 6 c) Core.clearErr
    | _, _, _ => s

/-- A read of the window: the value, then what it clears; an offset that is no register reads zero (R10, R412). -/
def State.readReg (s : State) (off : Nat) : State :=
  { s.readClears off with rdata := BitVec.ofNat 64 ((windowReg s off).getD 0) }

/-- A read that clears, while the window is up. -/
def State.readRow (s : State) (off : Nat) : State := if s.up then s.readReg off else s

def execThmTempoMeter (n : BitVec 3) (s : State) : Host.Outcome State Fault Refusal := .next (s.readRow (0x0200100 + 8 * n.toNat))
def execLibEvents (s : State) : Host.Outcome State Fault Refusal := .next (s.readRow 0x0700018)
def execLnkPortErr (p : PortId) (s : State) : Host.Outcome State Fault Refusal := .next (s.readRow (0x05000C0 + 8 * p.toNat))
def execBellStatus (s : State) : Host.Outcome State Fault Refusal := .next (s.readRow 0x0400010)
def execPwrPeak (s : State) : Host.Outcome State Fault Refusal := .next (s.readRow 0x0100030)
def execPwrWakeCause (s : State) : Host.Outcome State Fault Refusal := .next (s.readRow 0x0100058)
def execCoreErr (c : CoreId) (s : State) : Host.Outcome State Fault Refusal := .next (s.readRow (coreOffset c + 0x20))
def execErrLogLost (s : State) : Host.Outcome State Fault Refusal := .next (s.readRow 0x0A00020)
def execErrHbm (s : State) : Host.Outcome State Fault Refusal := .next (s.readRow 0x0A00030)
def execErrSpad (s : State) : Host.Outcome State Fault Refusal := .next (s.readRow 0x0A00038)
def execErrDiscard (s : State) : Host.Outcome State Fault Refusal := .next (s.readRow 0x0A00040)
def execErrUcie (s : State) : Host.Outcome State Fault Refusal := .next (s.readRow 0x0A00048)
def execErrCd (s : State) : Host.Outcome State Fault Refusal := .next (s.readRow 0x0A00050)

/-! Writes with a row of their own. -/

/-- ERR_LOG_CONS: room for buffered records (R422). -/
def execErrLogCons (v : Word) (s : State) : Host.Outcome State Fault Refusal :=
  .next (if s.up then State.logDrain 1024 { s with log := { s.log with cons := v.setWidth 32 } } else s)

/-- ERR_ALERT: a 1 clears PENDING (R10, R420). -/
def execErrAlert (v : Word) (s : State) : Host.Outcome State Fault Refusal :=
  .next (if s.up && v.getLsbD 0 then { s with log := { s.log with alert := false } } else s)

/-- PERF_SNAP: every counter is latched at once (R421). -/
def execPerfSnap (v : Word) (s : State) : Host.Outcome State Fault Refusal :=
  .next (if s.up && v.getLsbD 0 then { s with perfCopy := s.perf, snapValid := false, snapPending := true } else s)

/-- SNAP_VALID (R421). -/
def execSnapValid (s : State) : Host.Outcome State Fault Refusal :=
  .next (if s.up && s.snapPending then { s with snapValid := true, snapPending := false } else s)

/-- The ACCESS_SIZE notice (R404). -/
def State.accessSize (s : State) (off : Nat) : State := s.notice 2 0x0007 off []

/-- ACCESS_SIZE: an access that is not 8 bytes, or not aligned, is not performed; a read returns zero (R404). -/
def execAccessSize (off : BitVec 26) (size : Nat) (isWrite : Bool) (s : State) : Host.Outcome State Fault Refusal :=
  .next (
    if !s.up || (size == 8 && off.toNat % 8 == 0) then s
    else ({ s with rdata := if isWrite then s.rdata else 0 } : State).accessSize off.toNat)

/-! Every other write. -/

/-- What a meaning's next state is. -/
def after (s : State) (o : Host.Outcome State Fault Refusal) : State :=
  match o with
  | .next t => t
  | _ => s

/-- A write of a field that is a reserved encoding: the value stays and a notice is recorded (R13). -/
def State.checked (s : State) (off : Nat) (v : Word) (ok : Bool) (put : State → State) : State :=
  if ok then put s else s.reservedWrite off v

def tempoTargetOk (n : Nat) : Bool := decide (860 ≤ n) && decide (n ≤ 1740)

/-- PWR_TEMPO_TARGET: each field by itself (R13, Table 17.2). -/
def State.putTargets (s : State) (off : Nat) (v : Word) : State :=
  let a := fieldOf v 10 0
  let b := fieldOf v 26 16
  let s : State := { s with power := { s.power with
    target0 := if tempoTargetOk a then a else s.power.target0, target1 := if tempoTargetOk b then b else s.power.target1 } }
  if tempoTargetOk a && tempoTargetOk b then s else s.reservedWrite off v

def writeDev (s : State) (r : Nat) (v : Word) : State :=
  match r with
  | 0x30 => { s with devScratch := v }
  | 0x38 => { s with intr := s.intr &&& ~~~(v.setWidth 4) }
  | 0x40 => { s with intrEn := v.setWidth 4 }
  | _ => s

def writePwr (s : State) (off r : Nat) (v : Word) : State :=
  match r with
  | 0x00 =>
    match fieldOf v 2 0 with
    | 3 => s.sleepCmd opDoze v
    | 4 => s.sleepCmd opHibernate v
    | _ => s.reservedWrite off v
  | 0x10 => { s with power := { s.power with mode := v.getLsbD 0 } }
  | 0x18 => s.putTargets off v
  | 0x20 => s.checked off v (decide (400 ≤ fieldOf v 11 0) && decide (fieldOf v 11 0 ≤ 2400))
      (fun s => { s with power := { s.power with cap := fieldOf v 11 0 } })
  | 0x48 => { s with power := { s.power with wakeAt := v } }
  | 0x50 => { s with power := { s.power with wakeEn := v.setWidth 3 } }
  | 0x60 => after s (execPwrInstall v s)
  | _ => s

def writeSec (s : State) (off r : Nat) (v : Word) : State :=
  let arg : BitVec 33 := BitVec.ofNat 33 (fieldOf v 38 6)
  match r with
  | 0x08 =>
    match fieldOf v 3 0 with
    | 1 => s.attest arg v
    | 2 => s.extend arg (BitVec.ofNat 4 (fieldOf v 47 44)) v
    | 3 => s.loadImage arg v
    | 4 => s.ownerSet arg v
    | _ => s.secCmd 0 v true (fun s => s.reservedWrite off v)
  | 0x18 => after s (execSecAlarmCfg v s)
  | _ => s

def writeBell (s : State) (r : Nat) (v : Word) : State :=
  match r with
  | 0x08 => ({ s with bellRoot := v.getLsbD 0 } : State).bellCheck
  | 0x18 => after s (execBellSet v s)
  | _ => s

/-- LNK_DIMS: each D even, 2 to 16, so D - 1 is odd; a field that breaks it keeps its value (Table 14.10, R13). -/
def State.putDims (s : State) (off : Nat) (v : Word) : State :=
  let ok (d : Nat) : Bool := bitField v.toNat (4 * d) (4 * d) == 1
  let pick (d : Nat) : Nat := if ok d then bitField v.toNat (4 * d + 3) (4 * d) else bitField s.dims.toNat (4 * d + 3) (4 * d)
  let s : State := { s with dims := BitVec.ofNat 12 (pick 0 + pick 1 * 16 + pick 2 * 256) }
  if ok 0 && ok 1 && ok 2 then s else s.reservedWrite off v

/-- LNK_ROUTEn: eight entries in one step (R365); their reserved bits have no effect (R11). Held answers meet the new table. -/
def State.putRoutes (s : State) (n : Nat) (v : Word) : State :=
  let rs := (List.range 8).foldl (fun m k => mapSet m (8 * n + k) (BitVec.ofNat 8 (bitField v.toNat (8 * k + 5) (8 * k)))) s.routes
  ({ s with routes := rs } : State).unstick

def writeLnk (s : State) (off r : Nat) (v : Word) : State :=
  match r with
  | 0x00 => { s with chipId := v.setWidth 12, chipValid := v.getLsbD 12 }
  | 0x08 => s.putDims off v
  | 0x10 =>
    match fieldOf v 2 0 with
    | 1 => after s (execFillDefault s)
    | 2 => after s (execReroute s)
    | _ => s.reservedWrite off v
  | r =>
    match regIndex r 0x80 8 6, regIndex r 0x1000 8 512 with
    | some p, _ => s.writePortCtrl (BitVec.ofNat 3 p) v
    | _, some n => s.putRoutes n v
    | _, _ => s

/-- A window register; BASE and LIMIT are 2 MiB aligned (Table 13.3), and an enabled window that covers a byte of the carve-out is a
reserved encoding (R310). -/
def State.putWindow (s : State) (off i : Nat) (v : Word) : State :=
  let w := i / 2
  let a : Word := if i % 2 = 0 then rangeField false v else regOf s.winA w
  let b : Word := if i % 2 = 0 then regOf s.winB w else rangeField true v
  let hidden : Bool := b.getLsbD 62 && touchesCarveOut (fieldOf a 47 0) (fieldOf b 47 0 - fieldOf a 47 0)
  s.checked off v (fieldOf v 20 0 == 0 && !hidden) (fun s =>
    if i % 2 = 0 then { s with winA := mapSet s.winA w a } else { s with winB := mapSet s.winB w b })

def writeMem (s : State) (off r : Nat) (v : Word) : State :=
  match r with
  | 0x00 => s.checked off v (inCarveOut (64 * fieldOf v 38 6) 64) (fun s => { s with wrecBase := 64 * fieldOf v 38 6 })
  | 0x08 => s.checked off v (decide (fieldOf v 19 0 ≤ 983040)) (fun s => { s with wrecCount := fieldOf v 19 0 })
  | 0x10 => after s (execMemTlbFlush v s)
  | r =>
    match regIndex r 0x800 8 64, regIndex r 0x1000 8 2048, regIndex r 0x5000 8 32 with
    | some c, _, _ => { s with ttbase := mapSet s.ttbase c (v &&& 0x7FFFFE0001) }
    | _, some i, _ => s.putWindow off i v
    | _, _, some i => after s (execMemImport (BitVec.ofNat 4 (i / 2)) (i % 2 == 1) v s)
    | _, _, _ => s

def writeLib (s : State) (off r : Nat) (v : Word) : State :=
  let page : BitVec 20 := BitVec.ofNat 20 (fieldOf v 23 4)
  let count : BitVec 20 := BitVec.ofNat 20 (fieldOf v 43 24)
  match r with
  | 0x00 =>
    match fieldOf v 3 0 with
    | 1 => after s (execLibOpen page count s)
    | 2 => after s (execLibWrite page count s)
    | 3 => after s (execLibSeal page count s)
    | 4 => after s (execLibPrefetch page count s)
    | 5 => after s (execLibDrop page count s)
    | 6 => after s (execLibRepair page count s)
    | _ => s.libCmd 0 true (fun s => s.reservedWrite off v)
  | 0x08 => s.checked off v (inCarveOut (2 ^ 21 * fieldOf v 38 21) (2 ^ 21)) (fun s => { s with libSrc := fieldOf v 38 21 })
  | _ => s

def writeTt (s : State) (off r : Nat) (v : Word) : State :=
  let x : CtxId := BitVec.ofNat 6 (fieldOf v 8 3)
  match r with
  | 0x00 => s.checked off v (allCtxs.all (fun x => x == 0 || (s.ctx x).state == .off) && inCarveOut (8192 * fieldOf v 38 13) 8192)
      (fun s => { s with ttCtxBase := 8192 * fieldOf v 38 13 })
  | 0x08 =>
    match fieldOf v 2 0 with
    | 1 => s.ctxStart x v
    | 2 => s.ctxRefresh x v
    | 3 => s.ctxStop x v
    | 4 => s.ctxKill x v
    | _ => s.ttGate v (fun s => s.reservedWrite off v)
  | _ => s

/-- A pool register, within its own range of Table 12.1; what the parameters give together is checked when EN is set. None may
change while EN = 1 (R13, R418). -/
def State.putPool (s : State) (off : Nat) (n : BitVec 4) (j : Nat) (v : Word) : State :=
  let p := s.pool n
  match j with
  | 7 => after s (execKvPoolEnable n v s)
  | j =>
    s.checked off v (!p.en) (fun s =>
      match j with
      | 0 => s.checked off v (!touchesCarveOut (2 ^ 21 * fieldOf v 38 21) 1) (fun s => s.setPool n { p with base := 2 ^ 21 * fieldOf v 38 21 })
      | 1 => s.checked off v (decide (1 ≤ fieldOf v 6 0) && decide (fieldOf v 6 0 ≤ 64)) (fun s => s.setPool n { p with frame := fieldOf v 6 0 })
      | 2 => s.checked off v (decide (1 ≤ fieldOf v 12 0) && decide (fieldOf v 12 0 ≤ 4096)) (fun s => s.setPool n { p with ns := fieldOf v 12 0 })
      | 3 => s.checked off v (decide (fieldOf v 22 0 ≤ 2 ^ 22)) (fun s => s.setPool n { p with sets := fieldOf v 22 0 })
      | 4 => s.checked off v (inCarveOut (64 * fieldOf v 38 6) 64) (fun s => s.setPool n { p with srec := 64 * fieldOf v 38 6 })
      | 5 => s.checked off v (inCarveOut (64 * fieldOf v 38 6) 64) (fun s => s.setPool n { p with hdr := 64 * fieldOf v 38 6 })
      | _ => s.checked off v (defHdrOk (fieldOf v 19 0)) (fun s => s.setPool n { p with defHdr := fieldOf v 19 0 }))

/-- KV_CTXc_B as a write leaves it: a bucket count out of range keeps its value, and so does a region outside the carve-out; and
whether a field kept its value (R13, R310, Table 12.1). -/
def putIndex (k : KvCtx) (v : Word) : KvCtx × Bool :=
  let b := fieldOf v 4 0
  let bOk := decide (8 ≤ b) && decide (b ≤ 24)
  let k' : KvCtx := { k with idx := 64 * fieldOf v 38 6, idxB := if bOk then BitVec.ofNat 5 b else k.idxB }
  if indexOk k' then (k', !bOk) else (k, true)

/-- KV_CTXc_A and KV_CTXc_B: they change only while the context is OFF and holds no assigned slot (R380). -/
def State.putKvCtx (s : State) (off : Nat) (x : CtxId) (second : Bool) (v : Word) : State :=
  let k := s.kvCtx x
  let r := if second then putIndex k v
    else ({ k with pool := BitVec.ofNat 4 (fieldOf v 3 0), domain := BitVec.ofNat 16 (fieldOf v 31 16) }, false)
  if r.1 != k && namesPool s x then s.reservedWrite off v
  else
    let s' := s.setKvCtx x r.1
    if r.2 then s'.reservedWrite off v else s'

/-- KV_CMD by its OP (Table 16.6). -/
def State.writeKvCmd (s : State) (off : Nat) (v : Word) : State :=
  let n : SlotId := BitVec.ofNat 14 (fieldOf v 17 4)
  match fieldOf v 3 0 with
  | 1 => s.kvAssign n (BitVec.ofNat 6 (fieldOf v 23 18)) v
  | 2 => s.kvUnassign n v
  | 3 => s.kvLeave n v
  | 4 => s.kvEvictable n (v.getLsbD 24) v
  | 5 => s.kvCommit v
  | 6 => s.kvEditCmd n v
  | 7 => s.kvFlush n v
  | _ => s.kvCmd v (fun s => s.reservedWrite off v)

/-- KV_ARG1: STREAM, and CAP, which keeps its value for one above 16 384; a BLOCK lies in the same bits (R13, Table 12.1). -/
def State.putCap (s : State) (off : Nat) (v : Word) : State :=
  if fieldOf v 14 0 ≤ 16384 then { s with kvArg1 := v &&& 0xFFF00007FFF }
  else ({ s with kvArg1 := (v &&& 0xFFF00000000) ||| (s.kvArg1 &&& 0x7FFF) } : State).reservedWrite off v

def writeKv (s : State) (off r : Nat) (v : Word) : State :=
  match r with
  | 0x00 => s.writeKvCmd off v
  | 0x08 => { s with kvArg0 := 64 * fieldOf v 38 6 }
  | 0x10 => s.putCap off v
  | 0x18 => { s with kvArg2 := v }
  | r =>
    match regIndex r 0x1000 8 128, regIndex r 0x2000 8 128 with
    | some i, _ => s.putPool off (BitVec.ofNat 4 (i / 8)) (i % 8) v
    | _, some i => s.putKvCtx off (BitVec.ofNat 6 (i / 2)) (i % 2 == 1) v
    | _, _ => s

/-- ERR_LOG_BASE names a whole ring in the carve-out, aligned to its size (Table 16.7). -/
def logBaseOk (l : Log) (a : Nat) : Bool := a % (64 * logSize l) == 0 && inCarveOut a (64 * logSize l)

def writeErr (s : State) (off r : Nat) (v : Word) : State :=
  match r with
  | 0x00 => s.checked off v (logBaseOk s.log (64 * fieldOf v 38 6)) (fun s => { s with log := { s.log with base := 64 * fieldOf v 38 6 } })
  | 0x08 => State.logDrain 1024
      { s with log := { s.log with log2 := fieldOf v 3 0, en := v.getLsbD 8, mask := BitVec.ofNat 5 (fieldOf v 20 16) } }
  | 0x18 => after s (execErrLogCons v s)
  | 0x28 => after s (execErrAlert v s)
  | _ => s

def writeCore (s : State) (c : CoreId) (r : Nat) (v : Word) : State :=
  match r with
  | 0x18 => if v.getLsbD 0 then after s (execCoreCtrlOffline c s) else after s (execCoreCtrlReturn c s)
  | _ => s

/-- A write of a register of the window under its access code (R10). -/
def State.writeWindow (s : State) (off : Nat) (v : Word) : State :=
  let r := off % 2 ^ 20
  match off / 2 ^ 20 with
  | 0 => writeDev s r v
  | 1 => writePwr s off r v
  | 2 => s
  | 3 => writeSec s off r v
  | 4 => writeBell s r v
  | 5 => writeLnk s off r v
  | 6 => writeMem s off r v
  | 7 => writeLib s off r v
  | 8 => writeTt s off r v
  | 9 => writeKv s off r v
  | 10 => writeErr s off r v
  | 11 => if r = 0 then after s (execPerfSnap v s) else s
  | _ => writeCore s (BitVec.ofNat 6 ((off - coreBase) / 0x10000)) (off % 0x10000) v

/-- A write of 8 bytes: a misaligned one is not performed (R404), one that meets no register records a notice (R412). -/
def State.writeReg (s : State) (off : Nat) (v : Word) : State :=
  if off % 8 ≠ 0 then s.accessSize off
  else if (windowReg s off).isNone then s.reservedWrite off v
  else s.writeWindow off v

/-- A write in the watchdogs' own space (Table 19.3). -/
def State.writeWatchdog (s : State) (off : Nat) (v : Word) : State :=
  match regIndex off 0x100000 0x100 4, regIndex off 0x100008 0x100 4 with
  | some c, _ =>
    let cl : BitVec 2 := BitVec.ofNat 2 c
    let t := fieldOf v 15 0
    let s' := s.setWdt cl { s.wdt cl with en := v.getLsbD 16, timeoutMs := if 10 ≤ t then t else (s.wdt cl).timeoutMs }
    if 10 ≤ t then s' else s'.reservedWrite off v
  | _, some c => after s (execWdtKick (BitVec.ofNat 2 c) v s)
  | _, _ => s

/-- The chip offset of an access to main memory. -/
def mainAt (page : BitVec 13) (off : BitVec 26) : Nat := 2 ^ 26 * page.toNat + off.toNat

/-- An access of the master to what it names (R19, R401, R408 to R410). -/
def State.masterAccess (s : State) (sp : RegSpace) (off : BitVec 26) (v : Word) : State :=
  match sp with
  | .window => s.writeReg off.toNat v
  | .windowRead => if off.toNat % 8 ≠ 0 then ({ s with rdata := 0 } : State).accessSize off.toNat else s.readReg off.toNat
  | .watchdog => s.writeWatchdog off.toNat v
  | .main page size => s.masterStore (mainAt page off) (2 ^ size.toNat) v
  | .mainLoad page size hart => s.masterLoad (mainAt page off) (2 ^ size.toNat) hart
  | .sram size => s.sramStore off.toNat (2 ^ size.toNat) v
  | .sramLoad size => s.sramLoad off.toNat (2 ^ size.toNat)
  | .session size => s.sessionPut off.toNat (2 ^ size.toNat) v
  | .sessionLoad size => s.sessionGet off.toNat (2 ^ size.toNat)
  | .ethMac n => s.setMac n v
  | .ethEnable n => s.enableEth n v
  | .ethPost n ring f tag sums => s.postFrame n ring.toNat f tag sums
  | .ethTake n ring => s.takeFrame n ring.toNat
  | .pcieBar2 len => s.openBar2 len v
  | .pcieBar4 => { s with pcie := { s.pcie with bar4 := v.getLsbD 0 } }
  | .msix n => s.raiseMsix n
  | .outWindow i len => s.setWindowOut i.toNat len v
  | .hostStore i size => s.storeHost i.toNat off.toNat (2 ^ size.toNat) v
  | .hostLoad i size => s.loadHost i.toNat off.toNat (2 ^ size.toNat)

/-- REGISTER_WRITE. -/
def execRegisterWrite (sp : RegSpace) (off : BitVec 26) (v : Word) (s : State) : Host.Outcome State Fault Refusal :=
  .next (if s.up then s.masterAccess sp off v else s)

end Sys2Proof.Machine
end

