-- ==== Sys2Proof/Machine/Devices.lean ====
section
/-! DEFINITION. The devices of the control die: management port, test port, Ethernet, PCIe (spec/16_master_interface.md R408 to
R411, spec/20_module_physical.md R484 to R487, spec/18_security_identity.md R463). -/
namespace Sys2Proof.Machine

/-! Pins. -/

/-- SYS-ALERT_N is driven low: an alert, a lock, or a failed boot, also one whose erase still runs (R420, R456, R463). -/
def alertAsserted (s : State) : Bool :=
  s.log.alert || s.life == .locked || s.life == .bootStopped || (s.life == .starting && s.boot == 0xD)

/-- The in-band interrupt of the management port, which an address on the bus lets it raise (R411). -/
def inBandInterrupt (s : State) : Bool := s.mgtAddr.isSome && alertAsserted s

/-- The interrupt to the control die (Table 16.4). -/
def interruptAsserted (s : State) : Bool := s.intr &&& s.intrEn != 0

/-- The lasers of a port emit (R490): it is enabled, in start-up from row 7 on, or Active or Idle. -/
def lasersOn (s : State) (p : PortId) : Bool :=
  (s.port p).en && (s.life == .starting || (s.life == .running && (s.pstate == .active || s.pstate == .idle)))

/-! The management port (R411). -/

/-- The static address: 0x48 + X + 2 Y + 4 Z. -/
def staticAddress (s : State) : BitVec 7 := 0x48 + s.straps.setWidth 7

/-- SETDASA: a target without a dynamic address that answers to its static address takes one. -/
def execSetdasa (addr : BitVec 7) (dyn : BitVec 7) (s : State) : Host.Outcome State Fault Refusal :=
  .next (if s.armed && s.mgtAddr.isNone && addr == staticAddress s then { s with mgtAddr := some dyn } else s)

/-- ENTDAA: a target without a dynamic address that wins the arbitration takes one. -/
def execEntdaa (dyn : BitVec 7) (won : Bool) (s : State) : Host.Outcome State Fault Refusal :=
  .next (if s.armed && s.mgtAddr.isNone && won then { s with mgtAddr := some dyn } else s)

/-- The bytes of the lock log (R463). -/
def lockLogBytes (s : State) : List Byte := (s.sec.lockLog.map (fun e => eventBytes e 0)).flatten

/-- What the management port can read (R411, R463). -/
def mgtValue (s : State) : MgtItem → Nat
  | .devId => devId
  | .devRev => devRev
  | .devState => devState s
  | .thmStack i => temp12 (s.power.stackTemps.getD i.toNat 0)
  | .thmLib i => temp12 (s.power.libs.getD i.toNat 0)
  | .thmDie i => temp12 (s.power.dies.getD i.toNat 0)
  | .thmInlet => temp12 s.power.inlet
  | .pwrInput => pwrInput s
  | .errLogProd => s.log.prod.toNat
  | .errAlert => s.log.alert.toNat
  | .identityDigest q => ofLeBytes (((identityDigest s).drop (8 * q.toNat)).take 8)
  | .lockLog i => ofLeBytes (((lockLogBytes s).drop (8 * i)).take 8)

/-- MGT_READ: the port answers from row 1 of start-up on, also under lock and in sleep (R39, R456, R463). -/
def execMgtRead (what : MgtItem) (s : State) : Host.Outcome State Fault Refusal :=
  .next (if s.armed then { s with rdata := BitVec.ofNat 64 (mgtValue s what) } else s)

/-! The test port (R487). -/

/-- Activity on the test port outside board test and Evbin test mode trips PROBE (R486). -/
def State.probe (s : State) : State := if s.resetN && !s.tap.evbin then s.alarm senProbe 0 else s

/-- A public instruction: nothing while the module is Off. -/
def State.tapRow (s : State) (f : State → State) : State := if s.life = .off then s else f s.probe

/-- BYPASS: one bit between TDI and TDO. -/
def execTapBypass (tdi : Bool) (s : State) : Host.Outcome State Fault Refusal :=
  .next (s.tapRow (fun s => { s with
    tap := { s.tap with instr := 0, drive := false, shiftOut := s.tap.bypass, bypass := tdi },
    rdata := BitVec.ofNat 64 s.tap.bypass.toNat }))

/-- IDCODE. -/
def execTapIdcode (s : State) : Host.Outcome State Fault Refusal :=
  .next (s.tapRow (fun s => { s with tap := { s.tap with instr := 1, drive := false }, rdata := Config.idcode.setWidth 64 }))

/-- SAMPLE/PRELOAD: the nine signal contacts are captured and the boundary-scan register is loaded. -/
def execTapSamplePreload (pins : BitVec 9) (preload : BitVec 9) (s : State) : Host.Outcome State Fault Refusal :=
  .next (s.tapRow (fun s => { s with
    tap := { s.tap with instr := 2, drive := false, bsr := preload }, rdata := pins.setWidth 64 }))

/-- EXTEST: the boundary-scan register drives the contacts. -/
def execTapExtest (s : State) : Host.Outcome State Fault Refusal :=
  .next (s.tapRow (fun s => { s with tap := { s.tap with instr := 3, drive := true } }))

/-- An unlock block: 256 bytes signed under the Evbin root key that hold the identity digest where an image holds DIGEST. -/
def unlockOk (s : State) (block : List Byte) : Bool :=
  block.length == 256 && signedBy Config.rootKey block 16 && (block.drop 32).take 64 == identityDigest s

/-- EVBIN_TEST_UNLOCK: only while SYS-RESET_N is low. -/
def execEvbinTestUnlock (block : List Byte) (s : State) : Host.Outcome State Fault Refusal :=
  .next (if s.life ≠ .off && !s.resetN && unlockOk s block then { s with tap := { s.tap with evbin := true } } else s)

/-- PRIVATE_INSTRUCTION: outside Evbin test mode an instruction that is not public trips PROBE whatever SYS-RESET_N is, and
leaving Test-Logic-Reset trips it while SYS-RESET_N is high. In Evbin test mode the port accepts a private instruction, and the
spec does not say what it does. -/
def execPrivateInstruction (ev : TapEvent) (s : State) : Host.Outcome State Fault Refusal :=
  match s.life, s.tap.evbin, ev with
  | .off, _, _ => .next s
  | _, true, .load _ => .refused .privateTest
  | _, true, .leaveReset => .next s
  | _, false, .load _ => .next (s.alarm senProbe 0)
  | _, false, .leaveReset => .next s.probe

/-! Ethernet (R408). -/

/-- One 802.1Q tag is stripped; a second passes untouched. -/
def untag (f : List Byte) : List Byte := if frameField f 12 2 == 0x8100 then f.take 12 ++ f.drop 16 else f

/-- The bytes the hash covers: IPv4 or IPv6 addresses, and TCP or UDP ports; none for another frame. -/
def hashInput (f : List Byte) : Option (List Byte) :=
  let ports (proto at_ : Nat) : List Byte := if proto = 6 ∨ proto = 17 then (f.drop at_).take 4 else []
  if frameField f 12 2 = 0x0800 then
    let whole := frameField f 20 2 % 2 ^ 14 = 0
    some ((f.drop 26).take 8 ++ (if whole then ports (frameField f 23 1) (14 + 4 * (frameField f 14 1 % 16)) else []))
  else if frameField f 12 2 = 0x86DD then some ((f.drop 22).take 32 ++ ports (frameField f 20 1) 54)
  else none

/-- The Toeplitz hash of a byte string under a 40-byte key. -/
def toeplitz (key input : List Byte) : Nat :=
  let k := ofLeBytes (padTo 40 key).reverse
  let x := ofLeBytes input.reverse
  let n := 8 * input.length
  (List.range n).foldl (fun h i => if x.testBit (n - 1 - i) then h ^^^ (bitField k (319 - i) (288 - i)) else h) 0

/-- The receive ring of a frame: by its hash, else open (log 5). -/
def State.ringOf (s : State) (f : List Byte) : Nat × State :=
  match hashInput f with
  | some x => (toeplitz Config.toeplitzKey x % 64, s)
  | none => let r := s.free; (r.1.toNat % 64, r.2)

/-- When a pause of `quanta` ends: a quantum is 512 bit times of 800 Gb/s, 0.64 ns. -/
def pauseEnd (s : State) (quanta : Nat) : Nat := s.bell + ceilDiv (64 * quanta) 100

/-- What a MAC control frame pauses: PAUSE every priority, priority flow control those it enables (R408, log 46). -/
def pauses (f : List Byte) : List (Nat × Nat) :=
  if frameField f 14 2 = 1 then tabulate 8 (fun p => (p, frameField f 16 2))
  else if frameField f 14 2 = 0x101 then
    (tabulate 8 (fun p => (p, frameField f (18 + 2 * p) 2))).filter (fun e => (frameField f 16 2).testBit e.1)
  else []

def isMacControl (f : List Byte) : Bool := frameField f 12 2 == 0x8808

/-- The priority of a frame: that of its tag; 0 without one. -/
def framePriority (f : List Byte) : Nat := if frameField f 12 2 = 0x8100 then frameField f 14 1 / 32 else 0

/-- ETH_FRAME_RX: a frame of an enabled port goes to a receive ring with its time stamp; a MAC control frame pauses priorities. -/
def execEthFrameRx (n : Bool) (frame : List Byte) (stamp : Word) (s : State) : Host.Outcome State Fault Refusal :=
  .next (
    if !s.up || !(s.eth n).en || !frameOk frame then s else
    if isMacControl frame then
      let e := s.eth n
      s.setEth n { e with pause := (pauses frame).foldl (fun m p => mapSet m p.1 (pauseEnd s p.2)) e.pause }
    else
    let f := untag frame
    let r := s.ringOf f
    let e := r.2.eth n
    r.2.setEth n { e with rx := mapSet e.rx r.1 ((mapGet e.rx r.1).getD [] ++ [⟨f, stamp, sumsOk f⟩]) })

/-- ETH_FRAME_TX: the oldest frame of a transmit ring is stamped and sent, unless its priority is paused. -/
def execEthFrameTx (n : Bool) (ring : BitVec 6) (stamp : Word) (s : State) : Host.Outcome State Fault Refusal :=
  .next (
    let e := s.eth n
    if !s.up || !e.en then s else
    match (mapGet e.tx ring.toNat).getD [] with
    | [] => s
    | f :: fs => if s.bell < (mapGet e.pause (framePriority f)).getD 0 then s else s.setEth n { e with tx := mapSet e.tx ring.toNat fs, sent := e.sent ++ [(f, stamp)] })

/-! PCIe (R409, R410). -/

/-- PCIE_LINK_TRAINING: x16, else x8, else the link stays down and a record is written. -/
def execPcieLinkTraining (x16 x8 : Bool) (rate : BitVec 8) (s : State) : Host.Outcome State Fault Refusal :=
  .next (
    if !s.up then s
    else if x16 then { s with pcie := { s.pcie with width := 16, rate := rate.toNat } }
    else if x8 then { s with pcie := { s.pcie with width := 8, rate := rate.toNat } }
    else ({ s with pcie := { s.pcie with width := 0, rate := 0 } } : State).error 2 0x010E 0 (leBytes 1 3 ++ leBytes 1 rate.toNat))

/-- PCIE_HOT_RESET: the endpoint alone. -/
def execPcieHotReset (s : State) : Host.Outcome State Fault Refusal := .next (if s.up then { s with pcie := Pcie.reset } else s)

/-- An access of BAR0, which holds the MSI-X table. -/
def State.bar0 (s : State) (off size : Nat) (val : Option Word) : State :=
  if 2 ^ 20 < off + size then s else
  match val with
  | some v => { s with pcie := { s.pcie with bar0 := memStore s.pcie.bar0 off size v.toNat } }
  | none => { s with rdata := BitVec.ofNat 64 (memLoad s.pcie.bar0 off size) }

/-- An access of BAR2: a window of the carve-out once the master opens it; else a read is zero and a write is ignored. A
poisoned unit delivers no data: the answer is free (R470, log 5). -/
def State.bar2 (s : State) (off size : Nat) (val : Option Word) : State :=
  match s.pcie.bar2, val with
  | some (base, len), some v => if off + size ≤ len && masterReach s (base + off) then s.store (base + off) size v.toNat else s
  | some (base, len), none =>
    if len < off + size then { s with rdata := 0 }
    else if !masterReach s (base + off) then s
    else if s.poisoned (base + off) size then
      let f := s.free
      ({ f.2 with rdata := f.1 } : State).error 2 0x0107 (base + off) [0]
    else { s with rdata := BitVec.ofNat 64 (s.fetch (base + off) size) }
  | none, some _ => s
  | none, none => { s with rdata := 0 }

/-- An access of BAR4: the register window once the master opens it (R407); what a read of the closed view returns is open. -/
def State.bar4 (s : State) (off size : Nat) (val : Option Word) : State :=
  if !s.pcie.bar4 then
    (match val with | some _ => s | none => let f := s.free; { f.2 with rdata := f.1 })
  else if 2 ^ 26 ≤ off then s
  else if size ≠ 8 || off % 8 ≠ 0 then ({ s with rdata := if val.isSome then s.rdata else 0 } : State).accessSize off
  else match val with
    | some v => s.writeReg off v
    | none => s.readReg off

/-- PCIE_BAR_ACCESS: a host access of at most 8 bytes while the link is up. -/
def execPcieBarAccess (bar : BitVec 3) (off : Word) (size : Nat) (val : Option Word) (s : State) : Host.Outcome State Fault Refusal :=
  .next (
    if !s.up || s.pcie.width = 0 || size = 0 || 8 < size then s else
    match bar.toNat with
    | 0 => s.bar0 off.toNat size val
    | 2 => s.bar2 off.toNat size val
    | 4 => s.bar4 off.toNat size val
    | _ => s)

end Sys2Proof.Machine
end

