-- ==== Sys2Proof/Machine/FlitsIn.lean ====
section
/-! DEFINITION. Received flits (spec/14_quaz_links_bell.md R346 to R350). -/
namespace Sys2Proof.Machine

/-- The flit's KIND (Table 14.2). -/
def flitKind (f : BitVec 2048) : Nat := f.toNat % 4

/-- A flit failed its CRC: NAK is sent (R347). A header that fails cannot tell its KIND. -/
def State.flitBad (s : State) (p : PortId) : State := s.modPort p (fun q => ({ q with nak := true } : Port).sendIdle)

/-- A packet is whole: it is looked up (R365). -/
def State.packetWhole (s : State) (p : PortId) (bytes : List Byte) : State :=
  let h := headerOf (ofLeBytes (bytes.take 16))
  s.route { h with data := bytes.drop 16 } (some p)

/-- One chunk of an accepted DATA flit; a header that breaks R350 makes the port FAILED, and its packet is counted. -/
def State.takeChunk (s : State) (p : PortId) (c : List Byte) (start : Bool) : State :=
  let q := s.port p
  if q.state != .up then s
  else if start then
    let n := ofLeBytes c
    if headerBad n then
      ((s.modPort p (fun q => { q with partIn := [], partLeft := 0, badHeaders := q.badHeaders + 1 })).portFail p failHeader q.lanes 0)
    else
      let h := headerOf n
      let d := dataChunks h.type h.len
      if d = 0 then (s.modPort p (fun q => { q with partIn := [], partLeft := 0 })).packetWhole p c
      else s.modPort p (fun q => { q with partIn := c, partLeft := d })
  else if q.partLeft = 0 then s
  else if q.partLeft = 1 then
    (s.modPort p (fun q => { q with partIn := [], partLeft := 0 })).packetWhole p (q.partIn ++ c)
  else s.modPort p (fun q => { q with partIn := q.partIn ++ c, partLeft := q.partLeft - 1 })

/-- The 15 chunks of a flit (R346). -/
def State.takeChunks (s : State) (p : PortId) (f : BitVec 2048) (start : Nat) : State :=
  (List.range 15).foldl (fun s i => s.takeChunk p (leBytes 16 (bitField f.toNat (64 + 128 * i + 127) (64 + 128 * i))) (start.testBit i)) s

/-- The port takes flits: it is UP (R357). -/
def hears (s : State) (p : PortId) : Bool := s.linkUp && (s.port p).state == .up

/-- DATA_FLIT: accepted only with its CRC, its session and its place in order (R347). -/
def execDataFlit (p : PortId) (flit : BitVec 2048) (s : State) : Host.Outcome State Fault Refusal :=
  .next (
    if !hears s p then s else
    match checkFlit (s.port p) flit with
    | .bad => s.flitBad p
    | .wrongSession => if flitKind flit = kindData then s.flitStale p else s
    | .ok h =>
      if h % 4 ≠ kindData then s else
      let s := (s.applyAck p h).bellCheck
      let seq := BitVec.ofNat 12 (bitField h 13 2)
      if (s.port p).state != .up then s
      else if seq = (s.port p).rxLast + 1 then
        let s := s.modPort p (fun q => { q with rxLast := seq, nak := false })
        let s := (s.takeChunks p flit (bitField h 59 45)).count (0x408 + 16 * p.toNat) 1
        if (s.port p).state = .up then s.modPort p Port.sendIdle else s.bellCheck
      else s.flitBad p)

/-- IDLE_FLIT: ACK, NAK and credits (R346, R347, R355). -/
def execIdleFlit (p : PortId) (flit : BitVec 2048) (s : State) : Host.Outcome State Fault Refusal :=
  .next (
    if !hears s p then s else
    match checkFlit (s.port p) flit with
    | .bad => s.flitBad p
    | .wrongSession => if flitKind flit = kindIdle then s.flitStale p else s
    | .ok h => if h % 4 ≠ kindIdle then s else (s.applyAck p h).bellCheck)

end Sys2Proof.Machine
end

