-- ==== Sys2Proof/Machine/PacketsIn.lean ====
section
/-! DEFINITION. Packets delivered to this chip: requests checked, performed and answered; responses that complete what asked
(spec/14_quaz_links_bell.md R350 to R353, R364, spec/13_memory_tiers.md R316, R326). -/
namespace Sys2Proof.Machine

/-- Status of a response (Table 14.3). -/
def stOk : BitVec 4 := 0
def stPoison : BitVec 4 := 1
def stTranslation : BitVec 4 := 2

/-- The packet at place `i` of the inbox, if it is of the type and the oldest of its source and channel (R353). -/
def inboxAt (s : State) (i : Nat) (type : BitVec 4) : Option (Option PortId × Packet) :=
  match s.inbox[i]? with
  | none => none
  | some e =>
    if e.2.type ≠ type || !inboxFirst s i e.2 then none else some e

/-- The packet at place `i` is taken and its receive buffer freed. -/
def State.takeInbox (s : State) (i : Nat) (e : Option PortId × Packet) : State :=
  ({ s with inbox := s.inbox.eraseIdx i } : State).owe e.1 e.2

/-- The link engine takes a packet of a type at place `i`. -/
def State.onPacket (s : State) (i : Nat) (type : BitVec 4) (body : State → Packet → State) : State :=
  if !s.up then s else
  match inboxAt s i type with
  | none => s
  | some e => body (s.takeInbox i e) e.2

/-- The address checks of R351: an import range admits the chip, and the bytes lie in the main tier outside carve-out and
pools. -/
def remoteOk (s : State) (p : Packet) (len : Nat) (wr : Bool) : Bool :=
  let off := p.addr.toNat
  importAdmits s p.src.toNat off len wr && decide (off + len ≤ 2 ^ 39) && !touchesCarveOut off len && (poolAt s off).isNone
  && (poolAt s (off + len - 1)).isNone

/-- The channel of a packet's address serves, the die it came to reaches it, and it is its link port's turn (R322, R342, R406). -/
def packetServed (s : State) (i : Nat) (atomic : Bool) : Bool :=
  match s.inbox[i]? with
  | some e =>
    let ch := channelOf e.2.addr.toNat
    serves s ch atomic && joined s (linkPort e.1 == 67) (ch.getLsbD 7)
    && (packetQueue e.2).any (fun bulk => nextPort s ch bulk == some (linkPort e.1))
  | none => true

/-- The link port has had its turn at the channel (R322). -/
def State.packetTurn (s : State) (e : Option PortId × Packet) : State :=
  let ch := (channelOf e.2.addr.toNat).toNat
  match packetQueue e.2 with
  | some true => { s with lastBulk := mapSet s.lastBulk ch (linkPort e.1) }
  | some false => { s with lastNarrow := mapSet s.lastNarrow ch (linkPort e.1) }
  | none => s

/-- The link engine takes a packet of a type at place `i` to its channel. -/
def State.onMemory (s : State) (i : Nat) (type : BitVec 4) (atomic : Bool) (body : State → Packet → State) : State :=
  if !s.up || !packetServed s i atomic then s else
  match inboxAt s i type with
  | none => s
  | some e => body ((s.packetTurn e).takeInbox i e) e.2

/-- A read of `len` bytes for another chip. -/
def State.remoteRead (s : State) (p : Packet) (len : Nat) (ecc : Ecc) : State :=
  let off := p.addr.toNat
  if !remoteOk s p len false then s.answer p tyReadData stTranslation []
  else
    let s := s.hbmEcc off len ecc
    if s.poisoned off len then s.answer p tyReadData stPoison []
    else (s.count (perfRd off) len).answer p tyReadData stOk (memBytes s.mem off len)

def execReadPacket (i : Nat) (ecc : Ecc) (s : State) : Host.Outcome State Fault Refusal :=
  .next (s.onMemory i tyRead false (fun s p => s.remoteRead p (16 * p.len) ecc))

def execCrumbReadPacket (i : Nat) (ecc : Ecc) (s : State) : Host.Outcome State Fault Refusal :=
  .next (s.onMemory i tyCrumb false (fun s p => s.remoteRead p 32 ecc))

/-- WRITE: performed, then DONE (Table 14.4). -/
def execWritePacket (i : Nat) (s : State) : Host.Outcome State Fault Refusal :=
  .next (s.onMemory i tyWrite false (fun s p =>
    if !remoteOk s p p.data.length true then s.answer p tyDone stTranslation []
    else ((s.write p.addr.toNat p.data).count (perfWr p.addr.toNat) p.data.length).answer p tyDone stOk []))

/-- An addition at the adders for another chip: the checks, the poison rule, the sum, then DONE (R326, R351). -/
def State.remoteAdd (s : State) (p : Packet) (type : Nat) : State :=
  let off := p.addr.toNat
  if !remoteOk s p p.data.length true then s.answer p tyDone stTranslation []
  else if s.poisoned off p.data.length then s.answer p tyDone stPoison []
  else ((s.applyPiece off type false p.data).count (perfDie 0x310 off) 1).answer p tyDone stOk []

/-- ATOMIC_ADD of a type of Table 7.5; another type is refused as a failed check (log 19). -/
def execAtomicAddPacket (i : Nat) (s : State) : Host.Outcome State Fault Refusal :=
  .next (s.onMemory i tyAtomic true (fun s p =>
    if 4 ≤ p.sub.toNat then s.answer p tyDone stTranslation [] else s.remoteAdd p p.sub.toNat))

/-- PRALINE_REDUCE: add() of each 16-byte record (R80). -/
def execPralineReducePacket (i : Nat) (s : State) : Host.Outcome State Fault Refusal :=
  .next (s.onMemory i tyReduce true (fun s p => s.remoteAdd p 4))

/-- SEND: one fragment of a circular transfer (R352); while it is held at the link input its buffer is not freed (R384). -/
def execSendPacket (i : Nat) (s : State) : Host.Outcome State Fault Refusal :=
  .next (
    if !s.up then s else
    match inboxAt s i tySend with
    | none => s
    | some e =>
      let a : Arrival := ⟨e.2, e.1, none⟩
      let s' := ({ s with inbox := s.inbox.eraseIdx i } : State).sendArrival a
      if s'.heldIn.length = s.heldIn.length then s'.owe e.1 e.2 else s')

/-! Responses. -/

/-- The request that a response answers, unless it was lost. -/
def askedBy (s : State) (p : Packet) : Option Asked := s.asked.find? (fun a => a.tag == p.tag && !a.lost)

/-- The cause that a status gives (R350). -/
def causeOf (st : BitVec 4) : Nat := if st = stPoison then cPoison else cTranslation

/-- Status UNROUTABLE: the request stays pending, whatever packet says so (R350, R368). -/
def stUnroutable : BitVec 4 := 3

/-- A request was not routed: it stays pending until its context is torn down (R364, R368). -/
def State.askLost (s : State) (p : Packet) : State :=
  { s with asked := s.asked.map (fun a => if a.tag == p.tag then { a with lost := true } else a) }

/-- A posted store to another chip is answered: performed, or its context faults (R350). -/
def State.storeAnswer (s : State) (a : Asked) (st : BitVec 4) : State :=
  let k := s.core a.core
  match k.posted.find? (fun p => p.tag == some a.tag) with
  | none => s
  | some p =>
    if st = stOk then s.setCore a.core { k with posted := k.posted.map (fun q => if q = p then { q with tag := none } else q) }
    else (s.setCore a.core { k with posted := k.posted.erase p }).fault a.core (causeOf st) p.addr []

/-- The outstanding LD.G of a core has its answer. -/
def State.loadAnswer (s : State) (c : CoreId) (st : Nat) (d : List Byte) : State :=
  s.modCore c (fun k => { k with hold := match k.hold with
    | some (.load l) => some (.load { l with answer := some (st, d) })
    | h => h })

/-- READ_DATA (R350). -/
def execReadDataPacket (i : Nat) (s : State) : Host.Outcome State Fault Refusal :=
  .next (s.onPacket i tyReadData (fun s p =>
    match askedBy s p with
    | none => s
    | some a =>
      if p.sub = stUnroutable then s.askLost p else
      let s : State := { s with asked := s.asked.erase a }
      if a.what = askLoad then s.loadAnswer a.core p.sub.toNat p.data
      else if p.sub ≠ stOk then s.itemFault a.core a.serial (causeOf p.sub)
      else if a.what = askCrumb then
        (s.modCore a.core (fun k => k.modItem a.serial (fun t => { t with got := mapSet t.got a.place p.data }))).itemLess a.core a.serial
      else if itemLive s a.core a.serial then
        (s.modCore a.core (fun k => k.padWrite a.place p.data)).itemLess a.core a.serial
      else s))

/-- DONE (R350). -/
def execDonePacket (i : Nat) (s : State) : Host.Outcome State Fault Refusal :=
  .next (s.onPacket i tyDone (fun s p =>
    match askedBy s p with
    | none => s
    | some a =>
      if p.sub = stUnroutable then s.askLost p else
      let s : State := { s with asked := s.asked.erase a }
      if a.what = askStore then s.storeAnswer a p.sub
      else if a.what = askResult then (if p.sub = stOk then s else s.faultCtx a.ctx none 0 (causeOf p.sub) 0 [])
      else if p.sub = stOk then s.itemLess a.core a.serial else s.itemFault a.core a.serial (causeOf p.sub)))

/-- UNROUTABLE leaves the instruction pending until its context is torn down (R364, R368). -/
def execUnroutablePacket (i : Nat) (s : State) : Host.Outcome State Fault Refusal :=
  .next (s.onPacket i tyUnroutable (fun s p => s.askLost p))

end Sys2Proof.Machine
end

