-- ==== Sys2Proof/Machine/Scalar.lean ====
section
/-! DEFINITION. Scalar arithmetic, compare, select, constants (spec/07_akaux_control_memory.md R148 to R151). -/
namespace Sys2Proof.Machine

/-- An arithmetic instruction: s[D] = f(a, b) (R148). -/
def State.alu (s : State) (c : CoreId) (o : AluForm) (isShift : Bool) (f : Word → Word → Word) : State :=
  s.issue c (aluGuard o) (aluReserved o isShift) 1 (fun s =>
    s.onThread c (fun t => let x := aluArgs o t; t.setS (aluD o) (f x.1 x.2)))

/-- The amount of a shift: bits [5:0] (R148). -/
def shiftAmount (b : Word) : Nat := fieldOf b 5 0

def execAdd (c : CoreId) (o : AluForm) (s : State) : Host.Outcome State Fault Refusal := .next (s.alu c o false (fun a b => a + b))
def execSub (c : CoreId) (o : AluForm) (s : State) : Host.Outcome State Fault Refusal := .next (s.alu c o false (fun a b => a - b))
def execMul (c : CoreId) (o : AluForm) (s : State) : Host.Outcome State Fault Refusal := .next (s.alu c o false (fun a b => a * b))
def execAnd (c : CoreId) (o : AluForm) (s : State) : Host.Outcome State Fault Refusal := .next (s.alu c o false (fun a b => a &&& b))
def execOr (c : CoreId) (o : AluForm) (s : State) : Host.Outcome State Fault Refusal := .next (s.alu c o false (fun a b => a ||| b))
def execXor (c : CoreId) (o : AluForm) (s : State) : Host.Outcome State Fault Refusal := .next (s.alu c o false (fun a b => a ^^^ b))
def execShl (c : CoreId) (o : AluForm) (s : State) : Host.Outcome State Fault Refusal :=
  .next (s.alu c o true (fun a b => a <<< shiftAmount b))
def execShr (c : CoreId) (o : AluForm) (s : State) : Host.Outcome State Fault Refusal :=
  .next (s.alu c o true (fun a b => a >>> shiftAmount b))
def execSar (c : CoreId) (o : AluForm) (s : State) : Host.Outcome State Fault Refusal :=
  .next (s.alu c o true (fun a b => a.sshiftRight (shiftAmount b)))

/-- CMP: p[D[2:0]] = cond(a, b) (R149). -/
def execCmp (c : CoreId) (o : AluForm) (s : State) : Host.Outcome State Fault Refusal :=
  .next (s.issue c (aluGuard o) (aluReserved o false || aluD o >>> 3 != 0 || decide (6 ≤ (aluSub o))) 1 (fun s =>
    s.onThread c (fun t => let x := aluArgs o t; t.setP ((aluD o).setWidth 3) (condHolds (aluSub o) x.1 x.2))))

/-- SEL: s[D] = p[X[2:0]] ? s[A] : s[B] (R150). -/
def execSel (c : CoreId) (f : F0) (s : State) : Host.Outcome State Fault Refusal :=
  .next (s.issue c f.guard (f.x >>> 3 != 0 || f.c != 0 || f.sub != 0 || f.kt != 0) 1 (fun s =>
    s.onThread c (fun t => t.setS f.d (if t.p (f.x.setWidth 3) then t.s f.a else t.s f.b))))

/-- LI, minor opcode 0: s[D] = sext(IMM) (R151). -/
def execLi (c : CoreId) (f : F1) (s : State) : Host.Outcome State Fault Refusal :=
  .next (s.issue c f.guard (f.a != 0 || f.kt != 0 || minorReserved f) 1 (fun s => s.onThread c (fun t => t.setS f.d (sextImm f.imm))))

/-- LI, minor opcode 1: s[D][63:32] = IMM (R151). -/
def execLiHigh (c : CoreId) (f : F1) (s : State) : Host.Outcome State Fault Refusal :=
  .next (s.issue c f.guard (f.a != 0 || f.kt != 0 || minorReserved f) 1 (fun s =>
    s.onThread c (fun t => t.setS f.d (f.imm ++ (t.s f.d).setWidth 32))))

end Sys2Proof.Machine
end

