-- ==== Sys2Proof/Machine/Special.lean ====
section
/-! DEFINITION. Special registers: GETX and PUTX over Table 6.1 (spec/06_akaux_programming_model.md R121,
spec/07_akaux_control_memory.md R152). -/
namespace Sys2Proof.Machine

/-- CIRCn_CFG (Table 5.5). -/
def Circ.cfg (r : Circ) : Word :=
  BitVec.ofNat 64 (r.baseW.toNat + r.slotW.toNat * 2 ^ 17 + r.slots.toNat * 2 ^ 32 + r.en.toNat * 2 ^ 41)

/-- CIRCn_PTR (Table 5.6). -/
def Circ.ptr (r : Circ) : Word :=
  BitVec.ofNat 64 (r.head.toNat + r.tail.toNat * 2 ^ 16 + r.claim.toNat * 2 ^ 32 + r.broken.toNat * 2 ^ 48)

/-- PRED: bit 0 reads 1 (Table 6.1). -/
def Thread.predWord (t : Thread) : Word := t.preds.setWidth 64 ||| 1

/-- CTX_ID (Table 6.1). -/
def ctxIdWord (x : Seat) : Word := BitVec.ofNat 64 (x.ctx.toNat + x.lc.toNat * 2 ^ 8)

/-- A special register by its index; none where Table 6.1 has none. -/
def special (s : State) (c : CoreId) (i : Nat) : Option Word :=
  let k := s.core c
  let t := k.th
  match i with
  | 0x000 => some (c.setWidth 64)
  | 0x001 => some (match k.running with | some x => ctxIdWord x | none => 0)
  | 0x002 => some (k.epoch.setWidth 64)
  | 0x003 => some (t.flags.setWidth 64)
  | 0x004 => some t.seed
  | 0x005 => some t.torigin
  | 0x006 => some k.stepcnt
  | 0x007 => some (BitVec.ofNat 64 s.bell)
  | 0x008 => some (BitVec.ofNat 64 (k.sliceEnd - s.bell))
  | 0x009 => some t.predWord
  | _ =>
    if 0x010 ≤ i ∧ i < 0x020 then some (t.circ (BitVec.ofNat 4 (i - 0x010))).cfg
    else if 0x020 ≤ i ∧ i < 0x030 then some (t.circ (BitVec.ofNat 4 (i - 0x020))).ptr
    else if 0x030 ≤ i ∧ i < 0x040 then some ((t.tok (BitVec.ofNat 4 (i - 0x030))).setWidth 64)
    else if 0x040 ≤ i ∧ i < 0x048 then some ((t.anc (BitVec.ofNat 3 (i - 0x040))).setWidth 64)
    else if 0x080 ≤ i ∧ i < 0x0C0 then
      some ((t.td (BitVec.ofNat 4 ((i - 0x080) / 4)) >>> (64 * ((i - 0x080) % 4))).setWidth 64)
    else none

/-- The index is in Table 6.1. -/
def specialExists (i : Nat) : Bool :=
  decide (i < 0x00A) || (decide (0x010 ≤ i) && decide (i < 0x048)) || (decide (0x080 ≤ i) && decide (i < 0x0C0))

/-- A 256-bit descriptor with one quarter replaced. -/
def putQuarter (d : BitVec 256) (q : Nat) (v : Word) : BitVec 256 :=
  (d &&& ~~~((0xFFFFFFFFFFFFFFFF#256) <<< (64 * q))) ||| (v.setWidth 256 <<< (64 * q))

/-- A write of a special register under its access code (Table 6.1); one to an RO register is ignored (R10). -/
def Thread.putSpecial (t : Thread) (i : Nat) (v : Word) : Thread :=
  match i with
  | 0x003 => { t with flags := t.flags &&& ~~~(v.setWidth 16) }
  | 0x004 => { t with seed := v }
  | 0x005 => { t with torigin := v }
  | 0x009 => { t with preds := v.setWidth 8 ||| 1 }
  | _ =>
    if 0x040 ≤ i ∧ i < 0x048 then t.setAnc (BitVec.ofNat 3 (i - 0x040)) (v.setWidth 12)
    else if 0x080 ≤ i ∧ i < 0x0C0 then
      let n := BitVec.ofNat 4 ((i - 0x080) / 4)
      t.setTd n (putQuarter (t.td n) ((i - 0x080) % 4) v)
    else t

/-- The register index of GETX and PUTX: IMM[11:0]. -/
def specialIndex (f : F1) : Nat := (f.imm.setWidth 12).toNat

/-- A field is set that must be zero, or the index is absent (R121, R126, R152). -/
def specialReserved (f : F1) : Bool :=
  f.sub != 0 || f.kt != 0 || f.imm >>> 12 != 0 || !specialExists (specialIndex f)

/-- GETX: s[D] = special[IMM[11:0]]. -/
def execGetx (c : CoreId) (f : F1) (s : State) : Host.Outcome State Fault Refusal :=
  .next (s.issue c f.guard (f.a != 0 || specialReserved f) 1 (fun s =>
    s.onThread c (fun t => t.setS f.d ((special s c (specialIndex f)).getD 0))))

/-- PUTX: special[IMM[11:0]] = s[A]. -/
def execPutx (c : CoreId) (f : F1) (s : State) : Host.Outcome State Fault Refusal :=
  .next (s.issue c f.guard (f.d != 0 || specialReserved f) 1 (fun s =>
    s.onThread c (fun t => t.putSpecial (specialIndex f) (t.s f.a))))

end Sys2Proof.Machine
end

