-- ==== Sys2Proof/Machine/Waits.lean ====
section
/-! DEFINITION. Waiting and trapping (spec/07_akaux_control_memory.md R170 to R175, spec/06_akaux_programming_model.md R130, R133).
YIELD, HALT and THREAD_END end in the Timetable's hands (Machine/Timetable.lean). -/
namespace Sys2Proof.Machine

/-- Issue stops until the hold is released. -/
def State.holdOn (s : State) (c : CoreId) (h : Hold) : State := s.modCore c (fun k => { k with hold := some h })

/-- The held instruction is done. -/
def State.release (s : State) (c : CoreId) : State := s.modCore c (fun k => { k with hold := none, th := k.th.skip 1 })

/-- Counter k is at most n (R130). -/
def waitMet (k : Core) (n : BitVec 4) (m : Nat) : Bool := decide ((k.th.tok n).toNat ≤ m)

def execWait (c : CoreId) (f : F1) (s : State) : Host.Outcome State Fault Refusal :=
  .next (s.issue c f.guard (f.d != 0 || f.a != 0 || f.sub != 0 || f.imm >>> 10 != 0) 1 (fun s =>
    if waitMet (s.core c) f.kt (f.imm.setWidth 10).toNat then s.onThread c id
    else s.holdOn c (.wait f.kt (f.imm.setWidth 10).toNat)))

def execWaitRelease (c : CoreId) (s : State) : Host.Outcome State Fault Refusal :=
  .next (
    match (s.core c).hold with
    | some (.wait k n) => if canHold s c && waitMet (s.core c) k n then s.release c else s
    | _ => s)

/-- Every earlier instruction on the selected engines has completed and the selected stores are performed (R133, R171). -/
def fenceMet (k : Core) (mask : BitVec 7) : Bool :=
  allEngines.all (fun e => !mask.getLsbD (engFin e).val || (k.queue e).all (fun i => i.phase == .finished))
  && (!mask.getLsbD 6 || k.posted.isEmpty)

def execFence (c : CoreId) (f : F1) (s : State) : Host.Outcome State Fault Refusal :=
  .next (s.issue c f.guard (f.d != 0 || f.a != 0 || f.sub != 0 || f.kt != 0 || f.imm >>> 7 != 0 || f.imm == 0) 1 (fun s =>
    if fenceMet (s.core c) (f.imm.setWidth 7) then s.onThread c id else s.holdOn c (.fence (f.imm.setWidth 7))))

def execFenceRelease (c : CoreId) (s : State) : Host.Outcome State Fault Refusal :=
  .next (
    match (s.core c).hold with
    | some (.fence m) => if canHold s c && fenceMet (s.core c) m then s.release c else s
    | _ => s)

/-- The bell has reached t (R172). -/
def bellReached (s : State) (t : Word) : Bool := decide (t.toNat ≤ s.bell)

def execBellWait (c : CoreId) (f : F1) (s : State) : Host.Outcome State Fault Refusal :=
  .next (s.issue c f.guard (f.d >>> 3 != 0 || f.sub != 0 || f.kt != 0) 1 (fun s =>
    let t := f1Addr f (s.core c).th
    if bellReached s t then s.onThread c (fun k => k.setP (f.d.setWidth 3) true)
    else s.holdOn c (.bellWait (f.d.setWidth 3) t)))

def execBellWaitRelease (c : CoreId) (s : State) : Host.Outcome State Fault Refusal :=
  .next (
    match (s.core c).hold with
    | some (.bellWait d t) =>
      if canHold s c && bellReached s t then (s.modTh c (fun k => k.setP d false)).release c else s
    | _ => s)

/-- TRAP: a precise fault with the trap code (R175). -/
def execTrap (c : CoreId) (f : F1) (s : State) : Host.Outcome State Fault Refusal :=
  .next (s.issue c f.guard (f.d != 0 || f.a != 0 || f.sub != 0 || f.kt != 0 || f.imm >>> 16 != 0) 1 (fun s =>
    s.fault c cTrap (s.core c).th.pc (leBytes 2 f.imm.toNat)))

end Sys2Proof.Machine
end

