-- ==== Sys2Proof/Machine/Dispatch.lean ====
section
/-! DEFINITION. One arm per command: a direct call of its meaning. -/
namespace Sys2Proof.Machine

def exec (i : Instr) (s : State) : Host.Outcome State Fault Refusal :=
  match i with
  | .add c o => Sys2Proof.Machine.execAdd c o s
  | .sub c o => Sys2Proof.Machine.execSub c o s
  | .mul c o => Sys2Proof.Machine.execMul c o s
  | .and c o => Sys2Proof.Machine.execAnd c o s
  | .or c o => Sys2Proof.Machine.execOr c o s
  | .xor c o => Sys2Proof.Machine.execXor c o s
  | .shl c o => Sys2Proof.Machine.execShl c o s
  | .shr c o => Sys2Proof.Machine.execShr c o s
  | .sar c o => Sys2Proof.Machine.execSar c o s
  | .cmp c o => Sys2Proof.Machine.execCmp c o s
  | .sel c f => Sys2Proof.Machine.execSel c f s
  | .li c f => Sys2Proof.Machine.execLi c f s
  | .liHigh c f => Sys2Proof.Machine.execLiHigh c f s
  | .br c f => Sys2Proof.Machine.execBr c f s
  | .brIndirect c f => Sys2Proof.Machine.execBrIndirect c f s
  | .brc c f => Sys2Proof.Machine.execBrc c f s
  | .call c f => Sys2Proof.Machine.execCall c f s
  | .callIndirect c f => Sys2Proof.Machine.execCallIndirect c f s
  | .ret c f => Sys2Proof.Machine.execRet c f s
  | .getx c f => Sys2Proof.Machine.execGetx c f s
  | .putx c f => Sys2Proof.Machine.execPutx c f s
  | .ldS c f ecc => Sys2Proof.Machine.execLdS c f ecc s
  | .stS c f => Sys2Proof.Machine.execStS c f s
  | .ldG c f => Sys2Proof.Machine.execLdG c f s
  | .stG c f => Sys2Proof.Machine.execStG c f s
  | .ldGDataReturn c ecc => Sys2Proof.Machine.execLdGDataReturn c ecc s
  | .stGPerformed c ix => Sys2Proof.Machine.execStGPerformed c ix s
  | .wait c f => Sys2Proof.Machine.execWait c f s
  | .waitRelease c => Sys2Proof.Machine.execWaitRelease c s
  | .fence c f => Sys2Proof.Machine.execFence c f s
  | .fenceRelease c => Sys2Proof.Machine.execFenceRelease c s
  | .bellWait c f => Sys2Proof.Machine.execBellWait c f s
  | .bellWaitRelease c => Sys2Proof.Machine.execBellWaitRelease c s
  | .yield c f => Sys2Proof.Machine.execYield c f s
  | .halt c f => Sys2Proof.Machine.execHalt c f s
  | .threadEnd c => Sys2Proof.Machine.execThreadEnd c s
  | .trap c f => Sys2Proof.Machine.execTrap c f s
  | .chainDef c f => Sys2Proof.Machine.execChainDef c f s
  | .issueResume c => Sys2Proof.Machine.execIssueResume c s
  | .engineStart c e bad => Sys2Proof.Machine.execEngineStart c e bad s
  | .instructionComplete c e ix => Sys2Proof.Machine.execInstructionComplete c e ix s
  | .aadd c v => Sys2Proof.Machine.execAadd c v s
  | .amax c v => Sys2Proof.Machine.execAmax c v s
  | .circSet c v => Sys2Proof.Machine.execCircSet c v s
  | .circAdv c v => Sys2Proof.Machine.execCircAdv c v s
  | .crumbGet c v => Sys2Proof.Machine.execCrumbGet c v s
  | .bulkGet c v => Sys2Proof.Machine.execBulkGet c v s
  | .bulkPut c v => Sys2Proof.Machine.execBulkPut c v s
  | .send c v => Sys2Proof.Machine.execSend c v s
  | .rsum c v => Sys2Proof.Machine.execRsum c v s
  | .bcast c v => Sys2Proof.Machine.execBcast c v s
  | .kvAlloc c v => Sys2Proof.Machine.execKvAlloc c v s
  | .kvFree c v => Sys2Proof.Machine.execKvFree c v s
  | .ptEdit c v => Sys2Proof.Machine.execPtEdit c v s
  | .pfxLookup c v => Sys2Proof.Machine.execPfxLookup c v s
  | .pfxInsert c v => Sys2Proof.Machine.execPfxInsert c v s
  | .pfxRelease c v => Sys2Proof.Machine.execPfxRelease c v s
  | .mm c v => Sys2Proof.Machine.execMm c v s
  | .mmAcc c v => Sys2Proof.Machine.execMmAcc c v s
  | .pralineSpill c v => Sys2Proof.Machine.execPralineSpill c v s
  | .vop c v => Sys2Proof.Machine.execVop c v s
  | .softmax c v => Sys2Proof.Machine.execSoftmax c v s
  | .convert c v => Sys2Proof.Machine.execConvert c v s
  | .transpose c v => Sys2Proof.Machine.execTranspose c v s
  | .tallyClose c v => Sys2Proof.Machine.execTallyClose c v s
  | .norm c v => Sys2Proof.Machine.execNorm c v s
  | .tallyWaitEnd c e => Sys2Proof.Machine.execTallyWaitEnd c e s
  | .attnFwd c v => Sys2Proof.Machine.execAttnFwd c v s
  | .attnBwd c v => Sys2Proof.Machine.execAttnBwd c v s
  | .sortb c v => Sys2Proof.Machine.execSortb c v s
  | .hallPassGrant slot => Sys2Proof.Machine.execHallPassGrant slot s
  | .slotFilled c r k => Sys2Proof.Machine.execSlotFilled c r k s
  | .circFullWaitEnd c r => Sys2Proof.Machine.execCircFullWaitEnd c r s
  | .circEmptyWaitEnd c r => Sys2Proof.Machine.execCircEmptyWaitEnd c r s
  | .granulePerformed ch ecc => Sys2Proof.Machine.execGranulePerformed ch ecc s
  | .crumbServed ch ecc => Sys2Proof.Machine.execCrumbServed ch ecc s
  | .adderPiece ch ecc => Sys2Proof.Machine.execAdderPiece ch ecc s
  | .patrolScrub u ecc => Sys2Proof.Machine.execPatrolScrub u ecc s
  | .migrationComplete k => Sys2Proof.Machine.execMigrationComplete k s
  | .libReadError page how => Sys2Proof.Machine.execLibReadError page how s
  | .dropComplete k => Sys2Proof.Machine.execDropComplete k s
  | .libOpen page count => Sys2Proof.Machine.execLibOpen page count s
  | .libWrite page count => Sys2Proof.Machine.execLibWrite page count s
  | .libSeal page count => Sys2Proof.Machine.execLibSeal page count s
  | .libPrefetch first count => Sys2Proof.Machine.execLibPrefetch first count s
  | .libDrop first count => Sys2Proof.Machine.execLibDrop first count s
  | .libRepair page count => Sys2Proof.Machine.execLibRepair page count s
  | .libCommandDone => Sys2Proof.Machine.execLibCommandDone s
  | .memTlbFlush v => Sys2Proof.Machine.execMemTlbFlush v s
  | .tlbFlushDone => Sys2Proof.Machine.execTlbFlushDone s
  | .memImport ix second v => Sys2Proof.Machine.execMemImport ix second v s
  | .kvAssign slot ctx => Sys2Proof.Machine.execKvAssign slot ctx s
  | .kvUnassign slot => Sys2Proof.Machine.execKvUnassign slot s
  | .kvLeave slot => Sys2Proof.Machine.execKvLeave slot s
  | .kvEvictable slot on => Sys2Proof.Machine.execKvEvictable slot on s
  | .kvCommit => Sys2Proof.Machine.execKvCommit s
  | .commitResume => Sys2Proof.Machine.execCommitResume s
  | .kvEdit slot => Sys2Proof.Machine.execKvEdit slot s
  | .kvFlush pool => Sys2Proof.Machine.execKvFlush pool s
  | .kvPoolEnable p v => Sys2Proof.Machine.execKvPoolEnable p v s
  | .poolReady p => Sys2Proof.Machine.execPoolReady p s
  | .ctxStart ctx => Sys2Proof.Machine.execCtxStart ctx s
  | .ctxRefresh ctx => Sys2Proof.Machine.execCtxRefresh ctx s
  | .ctxStop ctx => Sys2Proof.Machine.execCtxStop ctx s
  | .ctxKill ctx => Sys2Proof.Machine.execCtxKill ctx s
  | .timetableScan => Sys2Proof.Machine.execTimetableScan s
  | .sliceEnd c => Sys2Proof.Machine.execSliceEnd c s
  | .coreSwitch c => Sys2Proof.Machine.execCoreSwitch c s
  | .teardownCleanup ctx => Sys2Proof.Machine.execTeardownCleanup ctx s
  | .reportCardClose => Sys2Proof.Machine.execReportCardClose s
  | .finalReportCard ctx => Sys2Proof.Machine.execFinalReportCard ctx s
  | .arrivalQueueRoom ctx die => Sys2Proof.Machine.execArrivalQueueRoom ctx die s
  | .idleEntry => Sys2Proof.Machine.execIdleEntry s
  | .coreCtrlOffline c => Sys2Proof.Machine.execCoreCtrlOffline c s
  | .coreCtrlReturn c => Sys2Proof.Machine.execCoreCtrlReturn c s
  | .returnSequence u => Sys2Proof.Machine.execReturnSequence u s
  | .unitInternalError u => Sys2Proof.Machine.execUnitInternalError u s
  | .fillDefault => Sys2Proof.Machine.execFillDefault s
  | .reroute => Sys2Proof.Machine.execReroute s
  | .retrain p v => Sys2Proof.Machine.execRetrain p v s
  | .laneTraining p lanes => Sys2Proof.Machine.execLaneTraining p lanes s
  | .hello p msg => Sys2Proof.Machine.execHello p msg s
  | .measure p msg at4 => Sys2Proof.Machine.execMeasure p msg at4 s
  | .ready p msg => Sys2Proof.Machine.execReady p msg s
  | .messageRepeat p => Sys2Proof.Machine.execMessageRepeat p s
  | .rollCallTimeout p => Sys2Proof.Machine.execRollCallTimeout p s
  | .dataFlit p flit => Sys2Proof.Machine.execDataFlit p flit s
  | .idleFlit p flit => Sys2Proof.Machine.execIdleFlit p flit s
  | .laneLockLost p => Sys2Proof.Machine.execLaneLockLost p s
  | .portOutTimeout p => Sys2Proof.Machine.execPortOutTimeout p s
  | .readPacket ix ecc => Sys2Proof.Machine.execReadPacket ix ecc s
  | .writePacket ix => Sys2Proof.Machine.execWritePacket ix s
  | .crumbReadPacket ix ecc => Sys2Proof.Machine.execCrumbReadPacket ix ecc s
  | .atomicAddPacket ix => Sys2Proof.Machine.execAtomicAddPacket ix s
  | .sendPacket ix => Sys2Proof.Machine.execSendPacket ix s
  | .pralineReducePacket ix => Sys2Proof.Machine.execPralineReducePacket ix s
  | .readDataPacket ix => Sys2Proof.Machine.execReadDataPacket ix s
  | .donePacket ix => Sys2Proof.Machine.execDonePacket ix s
  | .unroutablePacket ix => Sys2Proof.Machine.execUnroutablePacket ix s
  | .bellExchangeTimer p => Sys2Proof.Machine.execBellExchangeTimer p s
  | .bellMessage p msg at4 => Sys2Proof.Machine.execBellMessage p msg at4 s
  | .bellSet v => Sys2Proof.Machine.execBellSet v s
  | .sleep p msg => Sys2Proof.Machine.execSleep p msg s
  | .doze => Sys2Proof.Machine.execDoze s
  | .hibernate => Sys2Proof.Machine.execHibernate s
  | .sleepEntryComplete => Sys2Proof.Machine.execSleepEntryComplete s
  | .wakeTimer => Sys2Proof.Machine.execWakeTimer s
  | .wakeEthernet n => Sys2Proof.Machine.execWakeEthernet n s
  | .sleepExitComplete => Sys2Proof.Machine.execSleepExitComplete s
  | .powerSample r => Sys2Proof.Machine.execPowerSample r s
  | .tempoMeterSample steps => Sys2Proof.Machine.execTempoMeterSample steps s
  | .thermalSample r => Sys2Proof.Machine.execThermalSample r s
  | .thermalCeilingStep => Sys2Proof.Machine.execThermalCeilingStep s
  | .pwrInstall v => Sys2Proof.Machine.execPwrInstall v s
  | .installCopyDone => Sys2Proof.Machine.execInstallCopyDone s
  | .underVoltage vinMv => Sys2Proof.Machine.execUnderVoltage vinMv s
  | .overVoltage => Sys2Proof.Machine.execOverVoltage s
  | .powerLoss => Sys2Proof.Machine.execPowerLoss s
  | .powerGood r => Sys2Proof.Machine.execPowerGood r s
  | .resetAssert => Sys2Proof.Machine.execResetAssert s
  | .resetRelease r => Sys2Proof.Machine.execResetRelease r s
  | .startupDone => Sys2Proof.Machine.execStartupDone s
  | .clockExcursion => Sys2Proof.Machine.execClockExcursion s
  | .meshCheck broken => Sys2Proof.Machine.execMeshCheck broken s
  | .lidCheck broken => Sys2Proof.Machine.execLidCheck broken s
  | .attest arg => Sys2Proof.Machine.execAttest arg s
  | .extend arg m => Sys2Proof.Machine.execExtend arg m s
  | .load arg => Sys2Proof.Machine.execLoad arg s
  | .ownerSet arg => Sys2Proof.Machine.execOwnerSet arg s
  | .secAlarmCfg v => Sys2Proof.Machine.execSecAlarmCfg v s
  | .wdtKick cl v => Sys2Proof.Machine.execWdtKick cl v s
  | .watchdogExpiry cl => Sys2Proof.Machine.execWatchdogExpiry cl s
  | .cdUncorr hart addr code => Sys2Proof.Machine.execCdUncorr hart addr code s
  | .ucieModuleOut u => Sys2Proof.Machine.execUcieModuleOut u s
  | .errLogCons v => Sys2Proof.Machine.execErrLogCons v s
  | .errAlert v => Sys2Proof.Machine.execErrAlert v s
  | .thmTempoMeter n => Sys2Proof.Machine.execThmTempoMeter n s
  | .libEvents => Sys2Proof.Machine.execLibEvents s
  | .lnkPortErr p => Sys2Proof.Machine.execLnkPortErr p s
  | .bellStatus => Sys2Proof.Machine.execBellStatus s
  | .pwrPeak => Sys2Proof.Machine.execPwrPeak s
  | .pwrWakeCause => Sys2Proof.Machine.execPwrWakeCause s
  | .coreErr c => Sys2Proof.Machine.execCoreErr c s
  | .errLogLost => Sys2Proof.Machine.execErrLogLost s
  | .errHbm => Sys2Proof.Machine.execErrHbm s
  | .errSpad => Sys2Proof.Machine.execErrSpad s
  | .errDiscard => Sys2Proof.Machine.execErrDiscard s
  | .errUcie => Sys2Proof.Machine.execErrUcie s
  | .errCd => Sys2Proof.Machine.execErrCd s
  | .perfSnap v => Sys2Proof.Machine.execPerfSnap v s
  | .snapValid => Sys2Proof.Machine.execSnapValid s
  | .accessSize off size isWrite => Sys2Proof.Machine.execAccessSize off size isWrite s
  | .registerWrite sp off v => Sys2Proof.Machine.execRegisterWrite sp off v s
  | .setdasa addr dyn => Sys2Proof.Machine.execSetdasa addr dyn s
  | .entdaa dyn won => Sys2Proof.Machine.execEntdaa dyn won s
  | .mgtRead what => Sys2Proof.Machine.execMgtRead what s
  | .tapBypass tdi => Sys2Proof.Machine.execTapBypass tdi s
  | .tapIdcode => Sys2Proof.Machine.execTapIdcode s
  | .tapSamplePreload pins preload => Sys2Proof.Machine.execTapSamplePreload pins preload s
  | .tapExtest => Sys2Proof.Machine.execTapExtest s
  | .evbinTestUnlock block => Sys2Proof.Machine.execEvbinTestUnlock block s
  | .privateInstruction ev => Sys2Proof.Machine.execPrivateInstruction ev s
  | .ethFrameRx n frame stamp => Sys2Proof.Machine.execEthFrameRx n frame stamp s
  | .ethFrameTx n ring stamp => Sys2Proof.Machine.execEthFrameTx n ring stamp s
  | .pcieLinkTraining x16 x8 rate => Sys2Proof.Machine.execPcieLinkTraining x16 x8 rate s
  | .pcieBarAccess bar off size val => Sys2Proof.Machine.execPcieBarAccess bar off size val s
  | .reservedOpcode c w => Sys2Proof.Machine.execReservedOpcode c w s
  | .secCommandDone => Sys2Proof.Machine.execSecCommandDone s
  | .pcieHotReset => Sys2Proof.Machine.execPcieHotReset s
  | .ucieRetry u => Sys2Proof.Machine.execUcieRetry u s
  | .eraseComplete => Sys2Proof.Machine.execEraseComplete s

end Sys2Proof.Machine
end

