-- ==== Sys2Proof/Machine/Tick.lean ====
section
/-! DEFINITION. One bell nanosecond: what the module's clocks do when no command waits (log 2): the bell (R369), STEPCNT, RUN_NS
and the WAIT counters (spec/15_contexts_timetable.md R399, R400, spec/13_memory_tiers.md R339), the watchdogs' counts (R473), the
idle timer (R439), and flits that leave as credit allows (R355). -/
namespace Sys2Proof.Machine

/-- The bell counters run: the module has power and its PLLs are locked (R447, R438). -/
def bellRuns (s : State) : Bool :=
  match s.life with
  | .off | .inReset => false
  | _ => true

/-- The cause a read of the page of weight record `k` waits for, if it does (Table 13.11). -/
def pageCause (s : State) (k : Nat) : Option Nat :=
  match (s.wrec k).state with
  | .libLost => some 1
  | .refetch => some 2
  | .migrating => some (if setHas s.libRetry (migPages s k).1 then 3 else 4)
  | .absent => some 4
  | .resident => none

/-- The cause of a request at a channel: its stack is throttled, else the cause `c` of its kind (Table 13.11). -/
def channelCause (s : State) (off c : Nat) : Nat := if s.power.levels.toList.getD ((channelOf off).toNat / 32) 0 ≠ 0 then 5 else c

/-- The cause of a request at an offset, or in the page of a weight record. -/
def memCause (s : State) (wrec : Option Nat) (off : Option Nat) (c : Nat) : Nat :=
  match wrec.bind (pageCause s), off with
  | some w, _ => w
  | none, some off => channelCause s off c
  | none, none => 4

/-- The cause a request at the channel controllers waits for. -/
def reqCause (s : State) (r : Req) : Nat :=
  memCause s r.wrec (reqOffset s r) (match r.op with | .piece _ _ _ => 6 | .crumb _ => 7 | _ => 8)

/-- The cause of a wait inside the core (Table 15.7); an instruction held for its own requests waits for what they wait for. -/
def whyCause : Why → Option Nat
  | .circFull _ => some 0xA | .circEmpty _ => some 0xB | .tally => some 0xE | .hall _ => some 0xC | .commit => some 0xD | .link => none

/-- A PFX instruction at work waits on the index engine. -/
def isPfx (k : Kind) : Bool := k == .pfxLookup || k == .pfxInsert || k == .pfxRelease

/-- The cause an instruction of a queue waits for; one that has started can still meet a commit (R294). -/
def itemCause (s : State) (k : Core) (x : CtxId) (i : Item) : Option Nat :=
  match i.phase with
  | .waiting w | .held w => whyCause w
  | .started => if commitWait s k x i then some 0xD else if isPfx i.kind then some 0xF else none
  | _ => none

/-- The sequencer waits for its posted stores (R133, R174). -/
def waitsStores (k : Core) : Bool :=
  match k.hold with
  | some (.fence m) => m.getLsbD 6
  | some .halt => true
  | _ => false

/-- A packet of the core's thread waits in a port's queue, for a route, or for ever (R221, R368). -/
def packetWaits (s : State) (c : CoreId) (a : Asked) : Bool :=
  a.core == c && a.what != askResult && (a.what != askStore || waitsStores (s.core c))
  && (a.lost || s.stuck.any (fun e => sentUnder s a.tag e.2) || s.ports.any (fun e => e.2.queue.any (fun q => sentUnder s a.tag q.pkt)))

/-- The thread of a core waits for a link: for a packet of its own, or for an arrival that a full queue of this module holds (R384). -/
def linkWaits (s : State) (c : CoreId) : Bool :=
  s.asked.any (packetWaits s c) || s.heldIn.any (fun a => a.sender.any (fun w => w.1 == c))

/-- The core whose thread counts the wait of an arrival: the sender's in this module, else the destination's (log 81). -/
def Arrival.counts (a : Arrival) : CoreId := match a.sender with | some w => w.1 | none => (sendAddrOf a.pkt.addr).core

/-- An arrival waits on a full region of the thread that runs on its core (R115). -/
def arrivalFull (s : State) (a : Arrival) : Bool :=
  let x := sendAddrOf a.pkt.addr
  resident s x.core x.dctx && (s.core x.core).line.contains (x.region, none)

/-- Arrivals that wait on a full region count on core `c`. -/
def fullWaits (s : State) (c : CoreId) : Bool :=
  s.ctxs.any (fun e => (e.2.arrivals0 ++ e.2.arrivals1).any (fun a => a.counts == c && arrivalFull s a))

/-- What holds the sequencer in memory: an outstanding LD.G, posted stores it waits for, or the page it fetches from (R339). -/
def seqCauses (s : State) (k : Core) (x : CtxId) : List Nat :=
  match k.hold with
  | some (.load l) => if l.chip.isSome then [] else [memCause s l.wrec (loadOffset s l) 7]
  | none => if k.stop.isSome then [] else ((fetchWaits s x k.th.pc 1).bind (pageCause s)).toList
  | _ => if waitsStores k then (k.posted.filter (fun p => p.chip.isNone)).map (fun p => channelCause s p.off 7) else []

/-- The lowest cause that holds the thread of context `x` that a core runs (R400). -/
def runCause (s : State) (c : CoreId) (x : CtxId) : Option Nat :=
  let k := s.core c
  ((s.net.filter (fun (r : Req) => r.core == c)).map (reqCause s) ++ seqCauses s k x
    ++ ((allEngines.map k.queue).flatten).filterMap (itemCause s k x)
    ++ (if linkWaits s c then [9] else []) ++ (if fullWaits s c then [0xA] else [])).min?

/-- The seat of the thread that a core switch under way gives the core to: from the completion of the last started instruction of
the thread before, or on an idle core, to CORE_SWITCH (R396). -/
def switchTo (s : State) (k : Core) : Option (BitVec 2) :=
  if !k.inService || k.leave ≠ .stay || s.power.entering.isSome then none
  else match k.seat, k.stop with
    | none, _ => chooseSeat s k
    | some _, some .slice => if k.drained then chooseSeat s k else none
    | some _, some .preempt => if k.drained then chooseSeat s k else none
    | some _, some .yield => if k.drained then chooseSeat s k else none
    | _, _ => none

/-- The thread of a core holds it: the slice runs, or started instructions run on past its end (R135, R396). -/
def holdsCore (k : Core) : Bool := k.stop.isNone || !k.drained

/-- The cause that a ready thread in a seat counts: the switch to it is in progress, or another thread holds the core, or the core
is quarantined (Table 15.7). -/
def seatCause (into : Option (BitVec 2)) (i : BitVec 2) : Nat := if into = some i then 0x12 else 0x10

/-- One nanosecond of a core: STEPCNT advances by an open number of steps; the thread it runs holds the core and may wait; a
ready thread in another seat waits for the core; an overrun grows (R395, R399, R400, log 5). -/
def State.tickCore (s : State) (c : CoreId) : State :=
  let k := s.core c
  let f := s.free
  let holds := holdsCore k
  let s := f.2.setCore c { k with stepcnt := k.stepcnt + f.1.umod 3, late := if k.stop.isSome && holds then k.late + 1 else k.late }
  let s := match k.runCtx with
    | none => s
    | some x =>
      if !holds then s else
      let s := s.modCard x (fun r => { r with runNs := r.runNs + 1 })
      match runCause s c x with
      | some w => s.addWait x w 1
      | none => s
  let into := switchTo s k
  ([0, 1, 2, 3] : List (BitVec 2)).foldl (fun s i =>
    if (k.seat = some i && (holds || into.isNone)) || !seatReady s k i then s
    else match k.seatAt i with
      | some e => s.addWait e.ctx (seatCause into i) 1
      | none => s) s

/-- The entry at CONS is due and finds no seat, or MAXT threads live: a scan has seen it and it waits (Table 15.7, R389). -/
def launchWaits (s : State) (x : CtxId) : Bool :=
  let y := s.ctx x
  let pending := (y.seen - y.cons).toNat
  let a := entryAt y y.cons
  let aff := s.fetch (a + 40) 8
  let set : Word := if aff = 0 then y.cores else BitVec.ofNat 64 aff &&& y.cores
  y.state == .active && pending != 0 && decide (pending ≤ 2 ^ y.ltLog2) && decide (s.fetch (a + 48) 8 ≤ s.bell)
  && set != 0 && (decide (y.maxt ≤ y.threads) || (chooseCore s set).isNone)

/-- One nanosecond of LAUNCH_WAIT. -/
def State.tickLaunch (s : State) (x : CtxId) : State := if launchWaits s x then s.addWait x 0x11 1 else s

/-- The idle timer runs while nothing runs (R439). -/
def State.tickIdle (s : State) : State :=
  { s with power := { s.power with idleSince := if !allQuiet s then none else some (s.power.idleSince.getD s.bell) } }

/-- The count of a watchdog that is on (R473). -/
def State.tickWatchdog (s : State) (cl : BitVec 2) : State :=
  let w := s.wdt cl
  if w.en then s.setWdt cl { w with counted := w.counted + 1 } else s

/-- Codewords of an UP port that were corrected, or could not be, in a nanosecond: open numbers (R346, Table 14.10, log 5). -/
def State.tickPort (s : State) (p : PortId) : State :=
  if (s.port p).state != .up then s else
  let f := s.free
  let g := f.2.free
  g.2.modPort p (fun q => { q with fecCorr := satAdd 0xFFFF q.fecCorr (f.1.toNat % 2), fecUncorr := satAdd 0xFFFF q.fecUncorr (g.1.toNat % 2) })

/-- A counter of the PERF block advances by an open amount. -/
def State.countFree (s : State) (off : Nat) : State := let f := s.free; f.2.count off (f.1.toNat % 2 ^ 16)

/-- An attention or PFX instruction of a die is at work, or a commit. -/
def unitsRead (s : State) (die : Bool) : Bool :=
  s.kvCommitting.isSome || (List.range 32).any (fun n => ((s.core (BitVec.ofNat 6 (32 * die.toNat + n))).queue .attn
    ++ (s.core (BitVec.ofNat 6 (32 * die.toNat + n))).queue .dma).any (fun i => phaseStarted i.phase && (isBarrier i.kind || isPfx i.kind)))

/-- What the module's own units read and write beside the requests of the cores is an open number of bytes at each stack, and of crumbs
and granules while they are at work (R421, log 5). -/
def State.tickTraffic (s : State) : State :=
  let s := (List.range 16).foldl (fun s i => s.countFree (0x200 + 8 * i)) s
  let s := if unitsRead s false then (s.countFree 0x300).countFree 0x320 else s
  if unitsRead s true then (s.countFree 0x308).countFree 0x328 else s

/-- Corrected errors of the control die in a nanosecond: an open number (R474, log 5). -/
def State.tickControlDie (s : State) : State :=
  let f := s.free
  { f.2 with log := { f.2.log with cdCorr := satAdd (2 ^ 32 - 1) f.2.log.cdCorr (f.1.toNat % 2) } }

/-- One bell nanosecond. -/
def State.tick (s : State) : State :=
  if !bellRuns s then s else
  let s : State := { s with bell := s.bell + 1 }
  if !s.up then s else
  let s := allCores.foldl State.tickCore s
  let s := allCtxs.foldl State.tickLaunch s
  let s := ([0, 1, 2, 3] : List (BitVec 2)).foldl State.tickWatchdog s
  let s := (allPorts.foldl State.tickPort s).tickTraffic.tickControlDie
  s.tickIdle.pumpAll

end Sys2Proof.Machine
end

