-- ==== Sys2Proof/Safety.lean ====
section
/-! DEFINITION. The terms the statements use: what a legal state is, when a core executes its next instruction, and the state in
which one part alone differs. -/
namespace Sys2Proof.Machine

/-- Core `c` may issue, and the `n` words at its program counter are fetched without a fault or a wait for a weight page (R88, R127,
R137, R334). -/
def Fetches (s : State) (c : CoreId) (n : Nat) : Prop :=
  canIssue s c = true ∧ ∃ x, (s.core c).runCtx = some x ∧ fetchBad s x (s.core c).th.pc n = none ∧
    fetchWaits s x (s.core c).th.pc n = none

/-- Core `c` fetches an instruction of `n` words whose guard holds (R125). -/
def Executes (s : State) (c : CoreId) (guard : BitVec 4) (n : Nat) : Prop :=
  Fetches s c n ∧ guard ≠ 8 ∧ guardOn (s.core c).th guard = true

/-- The state that differs from `s` in the thread of core `c` alone. -/
def withThread (s : State) (c : CoreId) (t : Thread) : State := s.setCore c { s.core c with th := t }

/-- The thread with its program counter past an instruction of `n` words. -/
def Thread.past (t : Thread) (n : Nat) : Thread := { t with pc := t.pc + BitVec.ofNat 64 (8 * n) }

/-- The canonical form of main memory, of the library tier and of the control die's memories, and alarm levels that Table 18.6
admits. -/
def Legal (s : State) : Prop :=
  memWf s.mem = true ∧ memWf s.lib = true ∧ memWf s.sram = true ∧ memWf s.sec.sessionStore = true ∧ memWf s.pcie.bar0 = true ∧ ∀ i : Fin 9, 1 ≤ s.sec.levels[i] ∧ s.sec.levels[i] ≤ 3

/-- An engine instruction that issues now: its words are legal, its queues have room and its counter stands below 1023. -/
def MayIssue (s : State) (c : CoreId) (kind : Kind) (op : Op) : Prop :=
  Executes s c (opGuard op) (opWords op) ∧ opReserved (s.core c).th kind op = false ∧ issueBad (s.core c) kind op = none ∧
  mustWait (s.core c) kind op = false

/-- What an issue does (R88, R96, R128, R145): only core `c` changes, and of it the queues the instruction enters, its token
counter and the program counter. -/
def Issued (s t : State) (c : CoreId) (kind : Kind) (op : Op) : Prop :=
  let k := s.core c
  let q := t.core c
  let es := enginesFor kind (opEng op)
  t = s.setCore c q ∧
  q = { k with queues := q.queues, th := q.th, nextSerial := k.nextSerial + 1, hold := none } ∧
  (∀ e, q.queue e = k.queue e ++
    (if e ∈ es then [{ capture k kind op with twin := decide (e = .arrayB ∧ es = [.arrayA, .arrayB]) }] else [])) ∧
  q.th = { k.th.setTok (opKt op) (k.th.tok (opKt op) + 1) with pc := k.th.pc + BitVec.ofNat 64 (8 * opWords op) }

/-- The instruction at the head of an engine passes every check and waits for nothing; it takes no hall pass. -/
def MayStart (s : State) (c : CoreId) (x : CtxId) (i : Item) (steps : Nat) : Prop :=
  let k := s.core c
  let j := fixHead k steps i
  headCheck s k x i = .ok steps ∧ steps ≤ 2 ^ 20 ∧ scheduleEarly k j = none ∧ headWait s k x j = none ∧ isBarrier i.kind = false ∧
  editSlot s k x j = none ∧ scheduleBad k { j with claims := claimsOf k j, reads := readsOf k j } = none

/-- What a start does: the instruction has started with its steps and has claimed a slot of each output region; no byte of a
scratchpad or of main memory changes, and no register but the claims. It no longer stands in line for a slot. -/
def Started (s t : State) (c : CoreId) (e : Engine) (i : Item) (steps : Nat) : Prop :=
  let k := s.core c
  let q := t.core c
  (∃ j ∈ q.queue e, j.serial = i.serial ∧ j.phase = .started ∧ j.steps = steps ∧ j.claims = claimsOf k i ∧ j.reads = readsOf k i) ∧
  (∀ r, q.th.circ r = { k.th.circ r with
    claim := (k.th.circ r).claim + BitVec.ofNat 16 ((regionsOf (outsOf i)).count r) }) ∧
  q = { k with queues := q.queues, th := { k.th with circs := q.th.circs }, line := (k.leaveLine (some i.serial)).line } ∧
  t = { s.setCore c q with fresh := t.fresh }

/-- A started instruction of a kind at place `n` of the queue of engine `e`, whose thread of context `x` runs. -/
def Runs (s : State) (c : CoreId) (e : Engine) (n : Nat) (kind : Kind) (x : CtxId) (i : Item) : Prop :=
  s.up = true ∧ (s.core c).inService = true ∧ (s.core c).runCtx = some x ∧ ((s.core c).queue e)[n]? = some i ∧ i.kind = kind ∧
  i.phase = .started

/-- The main-tier offset an access translates to; 0 where it lies elsewhere. -/
def mainOff (s : State) (x : CtxId) (g : Word) (len : Nat) (want : Want) : Nat :=
  match translate s x g len want with
  | .ok (.main off) => off
  | _ => 0

/-- Every access of a list lies in the main tier of this module. -/
def AllMain (s : State) (x : CtxId) (want : Want) (as : List (Word × Nat)) : Prop :=
  ∀ a ∈ as, translate s x a.1 a.2 want = .ok (.main (mainOff s x a.1 a.2 want))

/-- An instruction has sent `reqs` to the memory network and is performed: the requests stand behind those already there, the
instruction counts them, the thread is `th`, and nothing else changes but its core's queues. -/
def Requested (s t : State) (c : CoreId) (e : Engine) (i : Item) (th : Thread) (reqs : List Req) : Prop :=
  t.net = s.net ++ reqs ∧ t = { s.setCore c (t.core c) with net := t.net } ∧
  t.core c = { s.core c with queues := (t.core c).queues, th := th } ∧
  ∃ j ∈ (t.core c).queue e, j.serial = i.serial ∧ j.phase = .performed ∧ j.out = i.out + reqs.length

/-- The core after an engine effect `f`, with instruction `i` performed. -/
def donePerformed (i : Item) (k : Core) : Core := k.modItem i.serial (fun j => { j with phase := .performed })

/-- No input tile overlaps the output in a way R180 leaves undefined. -/
def NoOverlap (k : Core) (i : Item) (mayShare : Bool) (ins : List (BitVec 256)) (extra : List (Nat × Nat)) : Prop :=
  let o := i.area k.th i.tdo true
  (∀ d ∈ ins, badOverlap mayShare o (i.area k.th d false) = false) ∧ spansMeet extra o.spans = false

/-- A span of bytes does not hold address `b`. -/
def Outside (b : Nat) (w : Nat × Nat) : Prop := b < w.1 ∨ w.1 + w.2 ≤ b

/-- Row tallies of an array instruction: the records it updates. -/
def tallySpans (i : Item) (rows : Nat) : List (Nat × Nat) :=
  match i.tallyStage with
  | some w => tabulate rows (fun r => (tallyAt w r, 64))
  | none => []

/-- A chip number of a torus of these dimensions. -/
def InTorus (dims chip : BitVec 12) : Prop := ∀ d, d < 3 → coordinate chip d < dimension dims d

/-- The chip at the far end of the link an entry names: port 2d leads to the next coordinate of dimension d, port 2d + 1 to the one
before (Table 14.1). -/
def nextChip (dims chip : BitVec 12) (e : BitVec 8) : BitVec 12 :=
  let d := (e.toNat % 8) / 2
  let n := dimension dims d
  let x := coordinate chip d
  let y := if e.toNat % 2 = 0 then (x + 1) % n else (x + n - 1) % n
  BitVec.ofNat 12 (chip.toNat - x * 16 ^ d + y * 16 ^ d)

/-- The hop goes over the wrap link of its ring (R363). -/
def CrossesWrap (dims chip : BitVec 12) (e : BitVec 8) : Bool :=
  let d := (e.toNat % 8) / 2
  if e.toNat % 2 = 0 then coordinate chip d + 1 == dimension dims d else coordinate chip d == 0

/-- Where a packet for `dst` stands after `n` hops, if every module holds its default entries. -/
def hopsTo (dims dst : BitVec 12) : (n : Nat) → BitVec 12 → BitVec 12
  | 0, at_ => at_
  | n + 1, at_ => if at_ = dst then at_ else hopsTo dims dst n (nextChip dims at_ (defaultEntry at_ dims dst))

/-- The hops of the shorter way round the ring of dimension `d`. -/
def ringHops (dims x y : BitVec 12) (d : Nat) : Nat :=
  let n := dimension dims d
  let a := coordinate x d
  let b := coordinate y d
  min ((b + n - a) % n) ((a + n - b) % n)

/-- Rail `i` passes both checks of row 3 (Table 17.6). -/
def RailGood (s : State) (r : StartReading) (i : Nat) : Prop :=
  railOk (railSet s.power i) i (r.railMv.getD i 0) = true ∧ r.railDa.getD i 0 ≤ railLimit i

/-- The module once the boot firmware has started, with the system area as the flash then reads; and once start-up has read it
(R451). -/
def areaFound (s : State) (r : StartReading) : State := (s.startImage 0 r.bootFw).decayed r.decay
def areaRead (s : State) (r : StartReading) : State := (areaFound s r).readArea

/-- A start-up reading that passes every check of rows 1 to 6 that can stop the start (Tables 17.6, 18.2, 18.3). -/
def StartsWell (s : State) (r : StartReading) : Prop :=
  r.meshOk = true ∧ r.lidOk = true ∧ r.refOk = true ∧ (∀ i, i < 8 → RailGood s r i) ∧ s.sec.helper = true ∧ s.sec.erasing = false ∧
  imageOk s 0 r.bootFw = true ∧ areaGood (areaFound s r) = true ∧ r.identityOk = true ∧
  imageOk (areaRead s r) 1 r.runFw = true ∧ ∀ i, i < 3 → bindOk (areaRead s r) r i = true

/-! The register window (R10 to R13, R404, R412). -/

/-- An offset is that of a register of an array of `n` from `base`, `step` bytes apart. -/
def inArray (off base step n : Nat) : Bool := (regIndex off base step n).isSome

/-- The registers that a read clears: access RC in the register tables. -/
def clearsOnRead (off : Nat) : Bool :=
  [0x0100030, 0x0100058, 0x0400010, 0x0700018, 0x0A00020, 0x0A00030, 0x0A00038, 0x0A00040, 0x0A00048, 0x0A00050].contains off
  || inArray off 0x0200100 8 8 || inArray off 0x05000C0 8 6 || inArray off 0x1000020 0x10000 64

/-- The registers that a write leaves as they are: access RO or RC in the register tables. -/
def readOnlyReg (off : Nat) : Bool :=
  clearsOnRead off
  || [0x0000000, 0x0000008, 0x0000010, 0x0000018, 0x0000020, 0x0000028, 0x0100008, 0x0100028, 0x0100038, 0x0100040, 0x0100068,
      0x0200078, 0x0200080, 0x0300000, 0x0300010, 0x0300020, 0x0400000, 0x0600018, 0x0700010, 0x0800010, 0x0800018, 0x0800020,
      0x0900020, 0x0900028, 0x0A00010].contains off
  || inArray off 0x0100100 8 8 || inArray off 0x0200000 8 8 || inArray off 0x0200040 8 4 || inArray off 0x0200060 8 3
  || inArray off 0x0300100 8 64 || inArray off 0x0500040 8 6 || inArray off 0x0800100 8 64 || inArray off 0x0940000 8 16384
  || inArray off 0x1000000 0x10000 64 || inArray off 0x1000008 0x10000 64 || inArray off 0x1000010 0x10000 64
  || (0x0B00000 < off && off < 0x0C00000 && (perfDefined (off - 0x0B00000) || (0x0B08000 ≤ off && perfDefined (off - 0x0B08000))))

/-- The reads that clear, with the rows that stand for them. -/
def clearingReads (n : BitVec 3) (p : PortId) (c : CoreId) : List (BitVec 26 × Instr) :=
  [(0x0100030, .pwrPeak), (0x0100058, .pwrWakeCause), (0x0400010, .bellStatus), (0x0700018, .libEvents), (0x0A00020, .errLogLost),
   (0x0A00030, .errHbm), (0x0A00038, .errSpad), (0x0A00040, .errDiscard), (0x0A00048, .errUcie), (0x0A00050, .errCd),
   (0x0200100 + 8 * n.setWidth 26, .thmTempoMeter n), (0x05000C0 + 8 * p.setWidth 26, .lnkPortErr p),
   (0x1000020 + 0x10000 * c.setWidth 26, .coreErr c)]

/-- The writes that run a command: an offset, the word written, and the row of the command. -/
def commandWrites (v : Word) (arg : BitVec 33) (m i : BitVec 4) (second on : Bool) (page count : BitVec 20) (x : CtxId) (n : SlotId) (p : PortId)
    (c : CoreId) : List (BitVec 26 × Word × Instr) :=
  let lib (op : Nat) : Word := BitVec.ofNat 64 (op + page.toNat * 2 ^ 4 + count.toNat * 2 ^ 24)
  [(0x0100000, 3, .doze), (0x0100000, 4, .hibernate), (0x0100060, v, .pwrInstall v),
   (0x0300008, secCmdWord 1 arg 0, .attest arg), (0x0300008, secCmdWord 2 arg m, .extend arg m), (0x0300008, secCmdWord 3 arg 0, .load arg),
   (0x0300008, secCmdWord 4 arg 0, .ownerSet arg), (0x0300018, v, .secAlarmCfg v), (0x0400018, v, .bellSet v),
   (0x0500010, 1, .fillDefault), (0x0500010, 2, .reroute), (0x0500080 + 8 * p.setWidth 26, v, .retrain p v),
   (0x0600010, v, .memTlbFlush v), (0x0605000 + 16 * i.setWidth 26 + (if second then 8 else 0), v, .memImport i second v),
   (0x0700000, lib 1, .libOpen page count), (0x0700000, lib 2, .libWrite page count), (0x0700000, lib 3, .libSeal page count),
   (0x0700000, lib 4, .libPrefetch page count), (0x0700000, lib 5, .libDrop page count), (0x0700000, lib 6, .libRepair page count),
   (0x0800008, ttCmdWord 1 x, .ctxStart x), (0x0800008, ttCmdWord 2 x, .ctxRefresh x), (0x0800008, ttCmdWord 3 x, .ctxStop x),
   (0x0800008, ttCmdWord 4 x, .ctxKill x),
   (0x0900000, kvCmdWord 1 n x false, .kvAssign n x), (0x0900000, kvCmdWord 2 n 0 false, .kvUnassign n),
   (0x0900000, kvCmdWord 3 n 0 false, .kvLeave n), (0x0900000, kvCmdWord 4 n 0 on, .kvEvictable n on), (0x0900000, kvCmdWord 5 0 0 false, .kvCommit),
   (0x0900000, kvCmdWord 6 n 0 false, .kvEdit n), (0x0900000, kvCmdWord 7 n 0 false, .kvFlush n),
   (0x0901038 + 64 * i.setWidth 26, v, .kvPoolEnable i v), (0x0A00018, v, .errLogCons v), (0x0A00028, v, .errAlert v), (0x0B00000, v, .perfSnap v),
   (0x1000018 + 0x10000 * c.setWidth 26, 1, .coreCtrlOffline c), (0x1000018 + 0x10000 * c.setWidth 26, 0, .coreCtrlReturn c)]

end Sys2Proof.Machine
end

