-- ==== Sys2Proof/WellFormed.lean ====
section
/-! DEFINITION. Which commands are well formed: the minor opcode of a row that shares its opcode (Tables 7.1 to 7.3; a word with a
minor opcode that no row lists is a word of the opcode's first row, which faults on it), the ports
and units that exist (R343, R139), the places of a queue (Table 5.1), and the lengths of what a sample or an event carries. A
command that is not well formed is no event of the module; exec still has a meaning for it. -/
namespace Sys2Proof

/-- The minor opcode of an arithmetic form (Table 7.2). -/
def AluForm.minor : AluForm → Nat
  | .reg f => f.sub.toNat
  | .imm f => f.sub.toNat

/-- The places of an engine queue (Table 5.1). -/
def Engine.places : Engine → Nat
  | .attn => 4 | .dma => 16 | _ => 8

/-- A run names a place of the queue of an engine that performs the instruction. -/
def Ev.wf {α : Type} (engines : List Engine) : Ev α → Bool
  | .issue _ => true
  | .run e i _ => engines.contains e && decide (i < e.places)

/-- Ports 0 to 5 exist (R343). -/
def portWf (p : PortId) : Bool := decide (p.toNat < 6)

def UnitId.wf : UnitId → Bool
  | .port p => portWf p
  | _ => true

/-- A sample of the input holds eight rails (Table 17.1). -/
def PowerReading.wf (r : PowerReading) : Bool := r.railMv.length == 8 && r.railDa.length == 8

/-- A sample of the temperatures holds eight stacks, four library stacks, three dies (Table 17.2). -/
def ThermalReading.wf (r : ThermalReading) : Bool := r.stackTemps.length == 8 && r.libs.length == 4 && r.dies.length == 3

/-- What start-up reads: eight rails, three dies, two master image slots, eight meters (Tables 17.1, 18.4, R451, R33). -/
def StartReading.wf (r : StartReading) : Bool :=
  r.railMv.length == 8 && r.railDa.length == 8 && r.puf.length == 3 && r.images.length == 2 && r.tempoSteps.length == 8

def crumbEng : List Engine := [.crumb]
def dmaEng : List Engine := [.dma]
def sfuEng : List Engine := [.sfu]
def attnEng : List Engine := [.attn]
def arrayEng : List Engine := [.arrayA, .arrayB]

/-- The check of a command. -/
def Instr.wf : Instr → Bool
  | .add _ o => o.minor == 0 || decide (9 ≤ o.minor)
  | .sub _ o => o.minor == 1
  | .mul _ o => o.minor == 2
  | .and _ o => o.minor == 3
  | .or _ o => o.minor == 4
  | .xor _ o => o.minor == 5
  | .shl _ o => o.minor == 6
  | .shr _ o => o.minor == 7
  | .sar _ o => o.minor == 8
  | .li _ f => f.sub != 1
  | .liHigh _ f => f.sub == 1
  | .br _ f => f.sub != 1
  | .brIndirect _ f => f.sub == 1
  | .call _ f => f.sub != 1
  | .callIndirect _ f => f.sub == 1
  | .aadd _ v => v.wf crumbEng
  | .amax _ v => v.wf crumbEng
  | .circSet _ v => v.wf crumbEng
  | .circAdv _ v => v.wf crumbEng
  | .crumbGet _ v => v.wf crumbEng
  | .bulkGet _ v => v.wf dmaEng
  | .bulkPut _ v => v.wf dmaEng
  | .send _ v => v.wf dmaEng
  | .rsum _ v => v.wf dmaEng
  | .bcast _ v => v.wf dmaEng
  | .kvAlloc _ v => v.wf dmaEng
  | .kvFree _ v => v.wf dmaEng
  | .ptEdit _ v => v.wf dmaEng
  | .pfxLookup _ v => v.wf dmaEng
  | .pfxInsert _ v => v.wf dmaEng
  | .pfxRelease _ v => v.wf dmaEng
  | .mm _ v => v.wf arrayEng
  | .mmAcc _ v => v.wf arrayEng
  | .pralineSpill _ v => v.wf arrayEng
  | .vop _ v => v.wf sfuEng
  | .softmax _ v => v.wf sfuEng
  | .convert _ v => v.wf sfuEng
  | .transpose _ v => v.wf sfuEng
  | .tallyClose _ v => v.wf sfuEng
  | .norm _ v => v.wf sfuEng
  | .attnFwd _ v => v.wf attnEng
  | .attnBwd _ v => v.wf attnEng
  | .sortb _ v => v.wf attnEng
  | .instructionComplete _ e i => decide (i < e.places)
  | .returnSequence u => u.wf
  | .unitInternalError u => u.wf
  | .retrain p _ => portWf p
  | .laneTraining p n => portWf p && decide (n.toNat ≤ 16)
  | .hello p _ => portWf p
  | .measure p _ _ => portWf p
  | .ready p _ => portWf p
  | .messageRepeat p => portWf p
  | .rollCallTimeout p => portWf p
  | .dataFlit p _ => portWf p
  | .idleFlit p _ => portWf p
  | .laneLockLost p => portWf p
  | .portOutTimeout p => portWf p
  | .bellExchangeTimer p => portWf p
  | .bellMessage p _ _ => portWf p
  | .sleep p _ => portWf p
  | .lnkPortErr p => portWf p
  | .powerSample r => r.wf
  | .tempoMeterSample steps => steps.length == 8
  | .thermalSample r => r.wf
  | .powerGood r => r.wf
  | .resetRelease r => r.wf
  | .evbinTestUnlock b => b.length == 256
  | .ethFrameRx _ f _ => decide (64 ≤ f.length) && decide (f.length ≤ 9216)
  | .pcieBarAccess bar _ size _ => (bar == 0 || bar == 2 || bar == 4) && decide (1 ≤ size) && decide (size ≤ 8)
  | .accessSize off size _ => size != 8 || off.toNat % 8 != 0
  | _ => true

end Sys2Proof
end

