-- ==== Sys2Proof/Certificates/Slice0/Obligations.lean ====
section
/-! DEFINITION. The statements for the provers. Each docstring names the rules it formalises; the terms are those of
Sys2Proof/Safety.lean and of the model. -/
open Sys2Proof Sys2Proof.Machine

/-! Scalar instructions (spec/07_akaux_control_memory.md). -/

/-- R148: the nine arithmetic functions in both operand forms; the destination takes the result, the program counter passes the
word, and nothing else changes. A write of s0 is discarded (`Thread.setS`). A word with C or X set, or an immediate shift with
IMM[31:6] set, is a reserved encoding, whatever its guard (R125). -/
def Obligations.ArithmeticResults : Prop :=
  ∀ (c : CoreId) (o : AluForm) (s : State), Executes s c (aluGuard o) 1 →
    let t := (s.core c).th
    let a := (aluArgs o t).1
    let b := (aluArgs o t).2
    let done (v : Word) : Host.Outcome State Fault Refusal := .next (withThread s c ((t.setS (aluD o) v).past 1))
    (aluReserved o false = false →
      exec (.add c o) s = done (BitVec.ofNat 64 (a.toNat + b.toNat)) ∧
      exec (.sub c o) s = done (BitVec.ofInt 64 ((a.toNat : Int) - b.toNat)) ∧
      exec (.mul c o) s = done (BitVec.ofNat 64 (a.toNat * b.toNat)) ∧
      exec (.and c o) s = done (BitVec.ofNat 64 (a.toNat &&& b.toNat)) ∧
      exec (.or c o) s = done (BitVec.ofNat 64 (a.toNat ||| b.toNat)) ∧
      exec (.xor c o) s = done (BitVec.ofNat 64 (a.toNat ^^^ b.toNat))) ∧
    (aluReserved o true = false →
      exec (.shl c o) s = done (BitVec.ofNat 64 (a.toNat * 2 ^ (b.toNat % 64))) ∧
      exec (.shr c o) s = done (BitVec.ofNat 64 (a.toNat / 2 ^ (b.toNat % 64))) ∧
      exec (.sar c o) s = done (BitVec.ofInt 64 (a.toInt / 2 ^ (b.toNat % 64)))) ∧
    (aluSub o = 0 ∨ 9 ≤ aluSub o ↔ (Instr.add c o).wf = true) ∧ (aluSub o = 1 ↔ (Instr.sub c o).wf = true) ∧ (aluSub o = 2 ↔ (Instr.mul c o).wf = true) ∧
    (aluSub o = 3 ↔ (Instr.and c o).wf = true) ∧ (aluSub o = 4 ↔ (Instr.or c o).wf = true) ∧ (aluSub o = 5 ↔ (Instr.xor c o).wf = true) ∧
    (aluSub o = 6 ↔ (Instr.shl c o).wf = true) ∧ (aluSub o = 7 ↔ (Instr.shr c o).wf = true) ∧ (aluSub o = 8 ↔ (Instr.sar c o).wf = true) ∧
    (∀ f : F0, o = .reg f → (∀ isShift, aluReserved o isShift = false ↔ f.sub.toNat < 9 ∧ f.c = 0 ∧ f.x = 0 ∧ f.kt = 0) ∧ aluArgs o t = (t.s f.a, t.s f.b)) ∧
    (∀ f : F1, o = .imm f → (aluReserved o false = false ↔ f.sub.toNat < 9 ∧ f.kt = 0) ∧ (aluReserved o true = false ↔ f.sub.toNat < 9 ∧ f.kt = 0 ∧ f.imm.toNat < 64) ∧
      aluArgs o t = (t.s f.a, BitVec.ofInt 64 f.imm.toInt)) ∧
    (aluReserved o false = true →
      let bad : Host.Outcome State Fault Refusal := .next (s.fault c 0x01 t.pc [])
      exec (.add c o) s = bad ∧ exec (.sub c o) s = bad ∧ exec (.mul c o) s = bad ∧ exec (.and c o) s = bad ∧ exec (.or c o) s = bad ∧
      exec (.xor c o) s = bad) ∧
    (aluReserved o true = true →
      let bad : Host.Outcome State Fault Refusal := .next (s.fault c 0x01 t.pc [])
      exec (.shl c o) s = bad ∧ exec (.shr c o) s = bad ∧ exec (.sar c o) s = bad)

/-- R119: s0 and p0 read their constants, a write of them is discarded, and a write of another register changes that one alone. The
sum, the difference and the product of two registers are those of their signed values modulo 2^64, and no arithmetic sets a flag. -/
def Obligations.RegisterFiles : Prop :=
  ∀ (t : Thread) (r q : BitVec 5) (p w : BitVec 3) (v : Word) (b : Bool),
    t.s 0 = 0 ∧ t.p 0 = true ∧ t.setS 0 v = t ∧ t.setP 0 b = t ∧
    (t.setS r v).s q = (if q = r ∧ r ≠ 0 then v else t.s q) ∧
    (t.setP p b).p w = (if w = p ∧ p ≠ 0 then b else t.p w) ∧
    (t.setS r v) = { t with sregs := (t.setS r v).sregs } ∧
    (t.setP p b) = { t with preds := (t.setP p b).preds } ∧
    ∀ (c : CoreId) (f : F0) (s : State), Executes s c f.guard 1 → f.sub.toNat < 9 → f.c = 0 → f.x = 0 → f.kt = 0 →
      let u := (s.core c).th
      let x := (u.s f.a).toInt
      let y := (u.s f.b).toInt
      let wraps (i : Instr) (n : Int) : Prop := ∃ s', exec i s = .next s' ∧ ((s'.core c).th.s f.d = if f.d = 0 then 0 else BitVec.ofInt 64 n) ∧
        (s'.core c).th.flags = u.flags
      let quiet (i : Instr) : Prop := ∃ s', exec i s = .next s' ∧ (s'.core c).th.flags = u.flags
      wraps (.add c (.reg f)) (x + y) ∧ wraps (.sub c (.reg f)) (x - y) ∧ wraps (.mul c (.reg f)) (x * y) ∧
      quiet (.and c (.reg f)) ∧ quiet (.or c (.reg f)) ∧ quiet (.xor c (.reg f)) ∧ quiet (.shl c (.reg f)) ∧ quiet (.shr c (.reg f)) ∧
      quiet (.sar c (.reg f))

/-- R149 to R151: CMP writes the condition of Table 7.3, which BRC uses too, SEL one of its operands, LI a sign-extended immediate or the upper half. A word
with a bit set that must be zero is a reserved encoding. -/
def Obligations.CompareSelectConstants : Prop :=
  ∀ (c : CoreId) (o : AluForm) (f : F0) (g : F1) (s : State),
    let t := (s.core c).th
    let done (u : Thread) : Host.Outcome State Fault Refusal := .next (withThread s c (u.past 1))
    let condition (code : Nat) (x y : Word) : Bool :=
      match code with
      | 0 => decide (x = y)
      | 1 => decide (x ≠ y)
      | 2 => decide (x.toInt < y.toInt)
      | 3 => decide (y.toInt ≤ x.toInt)
      | 4 => decide (x.toNat < y.toNat)
      | _ => decide (y.toNat ≤ x.toNat)
    (Executes s c (aluGuard o) 1 → aluReserved o false = false → (aluD o).toNat < 8 → aluSub o < 6 →
      exec (.cmp c o) s = done (t.setP ((aluD o).setWidth 3) (condition (aluSub o) (aluArgs o t).1 (aluArgs o t).2))) ∧
    (Executes s c g.guard 1 → g.sub.toNat < 6 → g.kt = 0 →
      let pc := bif condition g.sub.toNat (t.s g.d) (t.s g.a) then t.pc + BitVec.ofInt 64 (8 * g.imm.toInt) else t.pc + 8
      exec (.brc c g) s = .next (withThread s c { t with pc := pc })) ∧
    (Executes s c f.guard 1 → f.x.toNat < 8 → f.c = 0 → f.sub = 0 → f.kt = 0 →
      exec (.sel c f) s = done (t.setS f.d (if t.p (f.x.setWidth 3) then t.s f.a else t.s f.b))) ∧
    (Executes s c g.guard 1 → g.sub.toNat < 2 → g.a = 0 → g.kt = 0 →
      exec (.li c g) s = done (t.setS g.d (BitVec.ofInt 64 g.imm.toInt)) ∧
      exec (.liHigh c g) s = done (t.setS g.d (BitVec.ofNat 64 (g.imm.toNat * 2 ^ 32 + (t.s g.d).toNat % 2 ^ 32)))) ∧
    (Fetches s c 1 → aluReserved o false = true ∨ 8 ≤ (aluD o).toNat ∨ 6 ≤ aluSub o → exec (.cmp c o) s = .next (s.fault c 0x01 t.pc [])) ∧
    (Fetches s c 1 → 6 ≤ g.sub.toNat → exec (.brc c g) s = .next (s.fault c 0x01 t.pc [])) ∧
    (Fetches s c 1 → 8 ≤ f.x.toNat ∨ f.c ≠ 0 → exec (.sel c f) s = .next (s.fault c 0x01 t.pc [])) ∧
    (g.sub ≠ 1 ↔ (Instr.li c g).wf = true) ∧ (g.sub = 1 ↔ (Instr.liHigh c g).wf = true) ∧
    (Fetches s c 1 → g.a ≠ 0 ∨ 2 ≤ g.sub.toNat → exec (.li c g) s = .next (s.fault c 0x01 t.pc []) ∧ exec (.liHigh c g) s = .next (s.fault c 0x01 t.pc []))

/-- R153, R154: where each branch and call goes with an aligned target, and what CALL writes. A misaligned indirect target faults with
ALIGNMENT at the branch, and a RET with D, B, C or X set is a reserved encoding. -/
def Obligations.BranchTargets : Prop :=
  ∀ (c : CoreId) (f : F1) (r : F0) (s : State),
    let t := (s.core c).th
    let rel : Word := t.pc + BitVec.ofInt 64 (8 * f.imm.toInt)
    let ind : Word := t.s f.a + BitVec.ofInt 64 f.imm.toInt
    let go (u : Thread) (pc : Word) : Host.Outcome State Fault Refusal := .next (withThread s c { u with pc := pc })
    (Executes s c f.guard 1 → f.kt = 0 →
      (f.sub = 0 → f.d = 0 → f.a = 0 → exec (.br c f) s = go t rel) ∧
      (f.sub = 1 → f.d = 0 → ind.toNat % 8 = 0 → exec (.brIndirect c f) s = go t ind) ∧
      (f.sub.toNat < 6 → exec (.brc c f) s = go t (if condHolds f.sub.toNat (t.s f.d) (t.s f.a) then rel else t.pc + 8)) ∧
      (f.sub = 0 → f.a = 0 → exec (.call c f) s = go (t.setS f.d (t.pc + 8)) rel) ∧
      (f.sub = 1 → ind.toNat % 8 = 0 → exec (.callIndirect c f) s = go (t.setS f.d (t.pc + 8)) ind)) ∧
    (Executes s c r.guard 1 → r.d = 0 → r.b = 0 → r.c = 0 → r.x = 0 → r.sub = 0 → r.kt = 0 →
      (t.s r.a).toNat % 8 = 0 → exec (.ret c r) s = go t (t.s r.a)) ∧
    (f.sub ≠ 1 ↔ (Instr.br c f).wf = true) ∧ (f.sub = 1 ↔ (Instr.brIndirect c f).wf = true) ∧
    (f.sub ≠ 1 ↔ (Instr.call c f).wf = true) ∧ (f.sub = 1 ↔ (Instr.callIndirect c f).wf = true) ∧
    (Fetches s c 1 → 2 ≤ f.sub.toNat → exec (.br c f) s = .next (s.fault c 0x01 t.pc []) ∧ exec (.call c f) s = .next (s.fault c 0x01 t.pc [])) ∧
    (Fetches s c 1 → r.d ≠ 0 ∨ r.b ≠ 0 ∨ r.c ≠ 0 ∨ r.x ≠ 0 → exec (.ret c r) s = .next (s.fault c 0x01 t.pc [])) ∧
    (Executes s c f.guard 1 → f.kt = 0 → f.sub = 1 → ind.toNat % 8 ≠ 0 →
      (f.d = 0 → exec (.brIndirect c f) s = .next (s.fault c 0x08 t.pc [])) ∧ exec (.callIndirect c f) s = .next (s.fault c 0x08 t.pc []))

/-- R121, R152, Table 6.1: GETX reads the special register of its index. PUTX writes under the register's access code: FLAGS clears
the bits written 1, SEED and TORIGIN take the word, PRED keeps p0, an anchor takes its low 12 bits, a descriptor quarter takes
the word, and a read-only register keeps its value. An index that the table does not list, a set bit above IMM[11:0] and a set field
that must be zero are reserved encodings. -/
def Obligations.SpecialRegisterAccess : Prop :=
  ∀ (c : CoreId) (f : F1) (s : State),
    let k := s.core c
    let t := k.th
    let i := f.imm.toNat
    let listed := i < 0x00A ∨ (0x010 ≤ i ∧ i < 0x048) ∨ (0x080 ≤ i ∧ i < 0x0C0)
    let bad : Host.Outcome State Fault Refusal := .next (s.fault c 0x01 t.pc [])
    (Executes s c f.guard 1 → f.sub = 0 → f.kt = 0 → listed →
      (f.a = 0 → ∃ v, exec (.getx c f) s = .next (withThread s c ((t.setS f.d v).past 1)) ∧
        (i = 0x000 → v.toNat = c.toNat) ∧ (∀ x, i = 0x001 → k.running = some x → v.toNat = x.ctx.toNat + 256 * x.lc.toNat) ∧
        (i = 0x002 → v.toNat = k.epoch.toNat) ∧ (i = 0x003 → v.toNat = t.flags.toNat) ∧
        (i = 0x004 → v = t.seed) ∧ (i = 0x005 → v = t.torigin) ∧ (i = 0x006 → v = k.stepcnt) ∧
        (i = 0x007 → v.toNat = s.bell % 2 ^ 64) ∧ (i = 0x008 → v.toNat = (k.sliceEnd - s.bell) % 2 ^ 64) ∧ (i = 0x009 → v.toNat = t.preds.toNat ||| 1) ∧
        (∀ n : BitVec 4, i = 0x010 + n.toNat → let r := t.circ n
          v.toNat = r.baseW.toNat + r.slotW.toNat * 2 ^ 17 + r.slots.toNat * 2 ^ 32 + r.en.toNat * 2 ^ 41) ∧
        (∀ n : BitVec 4, i = 0x020 + n.toNat → let r := t.circ n
          v.toNat = r.head.toNat + r.tail.toNat * 2 ^ 16 + r.claim.toNat * 2 ^ 32 + r.broken.toNat * 2 ^ 48) ∧
        (∀ n : BitVec 4, i = 0x030 + n.toNat → v.toNat = (t.tok n).toNat) ∧
        (∀ n : BitVec 3, i = 0x040 + n.toNat → v.toNat = (t.anc n).toNat) ∧
        (∀ (n : BitVec 4) (q : Fin 4), i = 0x080 + 4 * n.toNat + q → v.toNat = (t.td n).toNat / 2 ^ (64 * q.val) % 2 ^ 64)) ∧
      (f.d = 0 → ∃ u, exec (.putx c f) s = .next (withThread s c (u.past 1)) ∧
        let w := t.s f.a
        (i = 0x003 → u = { t with flags := t.flags &&& ~~~(w.setWidth 16) }) ∧
        (i = 0x004 → u = { t with seed := w }) ∧ (i = 0x005 → u = { t with torigin := w }) ∧
        (i = 0x009 → u = { t with preds := w.setWidth 8 ||| 1 }) ∧
        (∀ n : BitVec 3, i = 0x040 + n.toNat → u = t.setAnc n (w.setWidth 12)) ∧
        (∀ (n : BitVec 4) (q : Fin 4), i = 0x080 + 4 * n.toNat + q → u = t.setTd n (u.td n) ∧
          ∀ r : Fin 4, (u.td n).toNat / 2 ^ (64 * r.val) % 2 ^ 64 = if r = q then w.toNat else (t.td n).toNat / 2 ^ (64 * r.val) % 2 ^ 64) ∧
        (i < 0x003 ∨ (0x005 < i ∧ i < 0x009) ∨ (0x010 ≤ i ∧ i < 0x040) → u = t))) ∧
    (Fetches s c 1 → f.sub ≠ 0 ∨ f.kt ≠ 0 ∨ 2 ^ 12 ≤ i ∨ ¬ listed → exec (.getx c f) s = bad ∧ exec (.putx c f) s = bad) ∧
    (Fetches s c 1 → f.a ≠ 0 → exec (.getx c f) s = bad) ∧ (Fetches s c 1 → f.d ≠ 0 → exec (.putx c f) s = bad)

/-- R105, R107, R155, R156: LD.S of a clean aligned word reads its bytes, zero- or sign-extended; ST.S writes the low bytes of s[D] and
leaves every other byte, and the poison, as they were. -/
def Obligations.ScratchpadScalars : Prop :=
  ∀ (c : CoreId) (f : F1) (s : State), Executes s c f.guard 1 → f.kt = 0 →
    let k := s.core c
    let a := (k.th.s f.a + BitVec.ofInt 64 f.imm.toInt).toNat
    let w := 2 ^ (f.sub.toNat % 4)
    a % w = 0 → a < 2 ^ 23 →
    (f.sub.toNat < 8 → setHas k.clean (a / 64) = true →
      let v := memLoad k.pad a w
      exec (.ldS c f .clean) s = .next (withThread s c ((k.th.setS f.d (BitVec.ofInt 64
        (if 4 ≤ f.sub.toNat ∧ 2 ^ (8 * w - 1) ≤ v then (v : Int) - 2 ^ (8 * w) else v))).past 1))) ∧
    (f.sub.toNat < 4 → memWf k.pad = true → ∃ q : Core, exec (.stS c f) s = .next (s.setCore c q) ∧
      q = { k with th := k.th.past 1, pad := q.pad, clean := q.clean } ∧
      q.clean = k.clean ∧
      memLoad q.pad a w = (k.th.s f.d).toNat % 2 ^ (8 * w) ∧
      ∀ b, b < a ∨ a + w ≤ b → memRead q.pad b = memRead k.pad b)

/-- R132, R157, R158: LD.G from a page of main memory holds issue and its return writes s[D]; ST.G is posted, and when it is performed it
changes its own bytes of main memory and no other. -/
def Obligations.MainMemoryScalars : Prop :=
  ∀ (c : CoreId) (f : F1) (x : CtxId) (off i : Nat) (l : Load) (p : Posted) (s : State),
    let k := s.core c
    let a := k.th.s f.a + BitVec.ofInt 64 f.imm.toInt
    let w := 2 ^ (f.sub.toNat % 4)
    (Executes s c f.guard 1 → f.kt = 0 → f.sub.toNat < 8 → k.runCtx = some x → a.toNat % w = 0 →
      translate s x a w .read = .ok (.main off) →
      exec (.ldG c f) s = .next (s.setCore c { k with hold := some (.load ⟨f.d, w, decide (4 ≤ f.sub.toNat), none, off, none, none⟩) })) ∧
    (s.up = true → k.hold = some (.load l) → l.chip = none → l.wrec = none → k.posted.any (fun q => q.overlaps l) = false →
      channelFor s c (channelOf l.off) = true → k.runCtx.all (fun x => poolAllows s x l.off false) = true → readPoison s l.off l.width = false →
      ∃ t, exec (.ldGDataReturn c .clean) s = .next t ∧ t = { s.setCore c (t.core c) with perf := t.perf } ∧
        t.core c = { k with hold := none, th := (k.th.setS l.d (extend (memLoad s.mem l.off l.width) l.width l.sx)).past 1 }) ∧
    (Executes s c f.guard 1 → f.kt = 0 → f.sub.toNat < 4 → k.runCtx = some x → a.toNat % w = 0 →
      translate s x a w .write = .ok (.main off) →
      exec (.stG c f) s = .next (s.setCore c { k with posted := k.posted ++ [⟨none, off, w, k.th.s f.d, k.th.pc, none⟩], th := k.th.past 1 })) ∧
    (s.up = true → k.posted[i]? = some p → p.chip = none → p.tag = none → channelFor s c (channelOf p.off) = true → storeAllowed s k p = true →
      (∀ q ∈ k.posted.take i, q.chip = none → q.off + q.width ≤ p.off ∨ p.off + p.width ≤ q.off) → memWf s.mem = true →
      ∃ t, exec (.stGPerformed c i) s = .next t ∧
        t = { s.setCore c { k with posted := k.posted.eraseIdx i } with mem := t.mem, memPoison := t.memPoison, perf := t.perf } ∧
        memLoad t.mem p.off p.width = p.v.toNat % 2 ^ (8 * p.width) ∧
        ∀ b, b < p.off ∨ p.off + p.width ≤ b → memRead t.mem b = memRead s.mem b)

/-- R130, R133, R170 to R172: WAIT, FENCE and BELL.WAIT pass at once where their condition holds, hold issue where it does not, and a
release ends the hold once it does; BELL.WAIT writes whether the time had passed at issue. A WAIT or a FENCE with a bit set that must
be zero, and a FENCE of an empty mask, are reserved encodings. -/
def Obligations.WaitsAndReleases : Prop :=
  ∀ (c : CoreId) (f : F1) (s : State),
    let k := s.core c
    let pass (t : Thread) : Host.Outcome State Fault Refusal := .next (withThread s c (t.past 1))
    let hold (h : Hold) : Host.Outcome State Fault Refusal := .next (s.setCore c { k with hold := some h })
    let freed (t : Thread) : Host.Outcome State Fault Refusal := .next (s.setCore c { k with hold := none, th := t.past 1 })
    let n := f.imm.toNat
    let m : BitVec 7 := f.imm.setWidth 7
    let t := k.th.s f.a + BitVec.ofInt 64 f.imm.toInt
    let d : BitVec 3 := f.d.setWidth 3
    (Executes s c f.guard 1 → f.d = 0 → f.a = 0 → f.sub = 0 → n < 1024 →
      exec (.wait c f) s = if (k.th.tok f.kt).toNat ≤ n then pass k.th else hold (.wait f.kt n)) ∧
    (∀ (r : BitVec 4) (j : Nat), canHold s c = true → k.hold = some (.wait r j) → (k.th.tok r).toNat ≤ j →
      exec (.waitRelease c) s = freed k.th) ∧
    (Executes s c f.guard 1 → f.d = 0 → f.a = 0 → f.sub = 0 → f.kt = 0 → n < 128 → n ≠ 0 →
      exec (.fence c f) s = if fenceMet k m then pass k.th else hold (.fence m)) ∧
    (∀ r : BitVec 7, canHold s c = true → k.hold = some (.fence r) → fenceMet k r = true →
      exec (.fenceRelease c) s = freed k.th) ∧
    (Executes s c f.guard 1 → f.d.toNat < 8 → f.sub = 0 → f.kt = 0 →
      exec (.bellWait c f) s = if t.toNat ≤ s.bell then pass (k.th.setP d true) else hold (.bellWait d t)) ∧
    (∀ (r : BitVec 3) (u : Word), canHold s c = true → k.hold = some (.bellWait r u) → u.toNat ≤ s.bell →
      exec (.bellWaitRelease c) s = freed (k.th.setP r false)) ∧
    (Fetches s c 1 → 1024 ≤ n ∨ f.d ≠ 0 ∨ f.a ≠ 0 ∨ f.sub ≠ 0 → exec (.wait c f) s = .next (s.fault c 0x01 k.th.pc [])) ∧
    (Fetches s c 1 → 128 ≤ n ∨ n = 0 → exec (.fence c f) s = .next (s.fault c 0x01 k.th.pc [])) ∧
    ∀ r : BitVec 7, fenceMet k r = true ↔
      (∀ b ∈ [(0, Engine.arrayA), (1, .arrayB), (2, .sfu), (3, .attn), (4, .dma), (5, .crumb)], r.getLsbD b.1 = true →
        ∀ i ∈ k.queue b.2, i.phase = .finished) ∧ (r.getLsbD 6 = true → k.posted = [])

/-- R173, R174, R390: YIELD passes its word and begins a new slice, or stops issue where another thread is chosen; HALT holds issue until every counter is
zero and no store is posted, and then the thread ends: its seat is free, its launch entry reads DONE. -/
def Obligations.ThreadEnding : Prop :=
  ∀ (c : CoreId) (f : F1) (i : BitVec 2) (x : Seat) (s : State), f.d = 0 → f.a = 0 → f.sub = 0 → f.kt = 0 → f.imm = 0 →
    let k := s.core c
    (Executes s c f.guard 1 → exec (.halt c f) s = .next (s.setCore c { k with hold := some .halt })) ∧
    (Executes s c f.guard 1 → k.seat = some i →
      let u := withThread s c (k.th.past 1)
      (chooseSeat u (u.core c) = some i → exec (.yield c f) s = .next ((u.beginSlice c i).preempt c)) ∧
      (∀ j, chooseSeat u (u.core c) = some j → j ≠ i → exec (.yield c f) s = .next (u.stopCore c .yield))) ∧
    (canHold s c = true → k.hold = some .halt → k.seat = some i → k.running = some x → k.th.openTally = 0 →
      (∀ r, k.th.tok r = 0) → k.posted = [] →
      (s.ctx x.ctx).state = .active → memWf s.mem = true →
      (let e := (s.ctx x.ctx).ltBase + 64 * (x.entry.toNat % 2 ^ (s.ctx x.ctx).ltLog2) + 60
       (e < ctxRecord s x.ctx + 80 ∨ ctxRecord s x.ctx + 94 ≤ e) →
       ∃ t, exec (.threadEnd c) s = .next t ∧ memRead t.mem e = 2 ∧
        (t.core c).seatAt i = none ∧ (t.core c).seat = none ∧ (t.core c).hold = none ∧ (∀ g, (t.core c).queue g = []) ∧
        (t.ctx x.ctx).threads = (s.ctx x.ctx).threads - 1 ∧ (t.ctx x.ctx).state = .active ∧
        ((∀ y ∈ s.incoming, y.core = c → y.seat = i → y.last = none) → ∀ b, b ≠ c → t.core b = s.core b)))

/-- R124 to R126, R137, R138, R144, R175, R176: a TRAP, a reserved opcode and a word with a reserved guard fault their context: the FAULT
record names the cause, the context, the core and the word's address, and the context is in teardown. The record stands at the
log's producer. A word whose opcode an entry lists is no reserved opcode: the event of that entry's own command runs it. -/
def Obligations.TrapsAndReservedWords : Prop :=
  ∀ (c : CoreId) (f : F1) (w : Word) (x : Seat) (s : State),
    let k := s.core c
    (reservedOp w = false → exec (.reservedOpcode c w) s = .next s) ∧
    (k.running = some x → (s.ctx x.ctx).state = .active → logRoom s.log = true → s.log.buffer = [] → memWf s.mem = true →
      let at_ := s.log.base + 64 * (s.log.prod.toNat % logSize s.log)
      let apart := at_ + 64 ≤ ctxRecord s x.ctx + 80 ∨ ctxRecord s x.ctx + 94 ≤ at_
      let faulted (cause : Nat) (detail : List Byte) (o : Host.Outcome State Fault Refusal) : Prop :=
        ∃ t, o = .next t ∧ (t.ctx x.ctx).state = .teardown ∧ t.log.prod = s.log.prod + 1 ∧
          memBytes t.mem at_ 64 = eventBytes ⟨s.bell, 1, (coreDie c).toNat, cause, some x.ctx, some c, x.tag, k.th.pc.toNat, detail⟩ s.log.prod.toNat ∧
          (t.core c).th = k.th ∧ (t.core c).pad = k.pad
      apart →
      (Executes s c f.guard 1 → f.d = 0 → f.a = 0 → f.sub = 0 → f.kt = 0 → f.imm.toNat < 2 ^ 16 →
        faulted 0x0D (leBytes 2 f.imm.toNat) (exec (.trap c f) s)) ∧
      (Fetches s c 1 → reservedOp w = true → faulted 0x01 [] (exec (.reservedOpcode c w) s)) ∧
      (Fetches s c 1 → f.guard = 8 → faulted 0x01 [] (exec (.li c f) s)))

/-- R187, R222: CHAIN.DEF with a legal image stores its header and its stage words in the chain slot, and nothing else changes. -/
def Obligations.ChainDefinition : Prop :=
  ∀ (c : CoreId) (f : F1) (s : State), Executes s c f.guard 1 → f.d = 0 → f.sub = 0 → f.kt = 0 → f.imm.toNat < 32 → f.imm ≠ 0 →
    let k := s.core c
    let a := (k.th.s f.a).toNat
    chainBad k a = none →
    let image := tabulate (k.padLoad a 1 % 16 + 1) (fun i => BitVec.ofNat 64 (k.padLoad (a + 8 * i) 8))
    let t : Thread := { k.th with chains := mapSet k.th.chains f.imm.toNat image }
    exec (.chainDef c f) s = .next (withThread s c (t.past 1))

/-- R125: a scalar instruction whose guard is off has no effect but to let the program counter pass its words. -/
def Obligations.GuardedOffSkips : Prop :=
  ∀ (c : CoreId) (o : AluForm) (g : F1) (kind : Kind) (op : Op) (s : State),
    let t := (s.core c).th
    let skipped (n : Nat) : State := withThread s c (t.past n)
    (Fetches s c 1 → aluGuard o ≠ 8 → guardOn t (aluGuard o) = false → aluReserved o true = false →
      exec (.add c o) s = .next (skipped 1) ∧ exec (.shl c o) s = .next (skipped 1)) ∧
    (Fetches s c 1 → g.guard ≠ 8 → guardOn t g.guard = false → g.kt = 0 → g.sub = 0 →
      exec (.ldG c g) s = .next (skipped 1) ∧ exec (.stG c g) s = .next (skipped 1) ∧ exec (.stS c g) s = .next (skipped 1)) ∧
    (Fetches s c (opWords op) → opGuard op ≠ 8 → guardOn t (opGuard op) = false → opReserved t kind op = false →
      s.issueOp c kind op = skipped (opWords op))

/-! Engine instructions from issue to completion (spec/05_cores_arrays_scratchpad.md, spec/06_akaux_programming_model.md). -/

/-- R88, R96, R128, R145: every engine instruction, when it issues, enters the queue of each of its engines with the operands of that
moment, adds one to its token counter, and the program counter passes its words; nothing else changes. -/
def Obligations.EngineIssue : Prop :=
  ∀ (c : CoreId) (f0 : F0) (f1 : F1) (f2 : F2) (f3 : F3) (s : State),
    let ok (kind : Kind) (op : Op) (i : Instr) : Prop := MayIssue s c kind op → ∃ t, exec i s = .next t ∧ Issued s t c kind op
    ok .aadd (.f0 f0) (.aadd c (.issue f0)) ∧ ok .amax (.f0 f0) (.amax c (.issue f0)) ∧
    ok .circSet (.f1 f1) (.circSet c (.issue f1)) ∧ ok .circAdv (.f1 f1) (.circAdv c (.issue f1)) ∧
    ok .crumbGet (.f3 f3) (.crumbGet c (.issue f3)) ∧
    ok .bulkGet (.f3 f3) (.bulkGet c (.issue f3)) ∧ ok .bulkPut (.f3 f3) (.bulkPut c (.issue f3)) ∧
    ok .send (.f3 f3) (.send c (.issue f3)) ∧ ok .rsum (.f3 f3) (.rsum c (.issue f3)) ∧ ok .bcast (.f3 f3) (.bcast c (.issue f3)) ∧
    ok .kvAlloc (.f3 f3) (.kvAlloc c (.issue f3)) ∧ ok .kvFree (.f3 f3) (.kvFree c (.issue f3)) ∧
    ok .ptEdit (.f3 f3) (.ptEdit c (.issue f3)) ∧ ok .pfxLookup (.f3 f3) (.pfxLookup c (.issue f3)) ∧
    ok .pfxInsert (.f3 f3) (.pfxInsert c (.issue f3)) ∧ ok .pfxRelease (.f3 f3) (.pfxRelease c (.issue f3)) ∧
    ok .mm (.f2 f2) (.mm c (.issue f2)) ∧ ok .mmAcc (.f3 f3) (.mmAcc c (.issue f3)) ∧
    ok .pralineSpill (.f2 f2) (.pralineSpill c (.issue f2)) ∧
    ok .vop (.f2 f2) (.vop c (.issue f2)) ∧ ok .softmax (.f2 f2) (.softmax c (.issue f2)) ∧
    ok .convert (.f2 f2) (.convert c (.issue f2)) ∧ ok .transpose (.f2 f2) (.transpose c (.issue f2)) ∧
    ok .tallyClose (.f3 f3) (.tallyClose c (.issue f3)) ∧ ok .norm (.f3 f3) (.norm c (.issue f3)) ∧
    ok .attnFwd (.f3 f3) (.attnFwd c (.issue f3)) ∧ ok .attnBwd (.f3 f3) (.attnBwd c (.issue f3)) ∧
    ok .sortb (.f3 f3) (.sortb c (.issue f3))

/-- R88, R128: an instruction that finds a queue full or its counter at 1023 holds issue, and ISSUE_RESUME issues it when there is room. -/
def Obligations.IssueHoldsAndResumes : Prop :=
  ∀ (c : CoreId) (kind : Kind) (op : Op) (s : State),
    (Executes s c (opGuard op) (opWords op) → opReserved (s.core c).th kind op = false → issueBad (s.core c) kind op = none →
      mustWait (s.core c) kind op = true →
      s.issueOp c kind op = s.setCore c { s.core c with hold := some (.issue kind op) }) ∧
    (canHold s c = true → (s.core c).hold = some (.issue kind op) → issueBad (s.core c) kind op = none →
      mustWait (s.core c) kind op = false → opReserved (s.core c).th kind op = false →
      ∃ t, exec (.issueResume c) s = .next t ∧ Issued s t c kind op)

/-- R42, R43, R105, R110, R113, R123, R136, R228, R235: an instruction at the head of its engine that passes its checks and waits for nothing
starts, at ENGINE_START or at the event that ends its wait for a tally record, a filled slot or a free slot; a free slot goes to the
producer that has waited longest. What a code finds at a word an engine reads for a start or for its effect is counted, and an
uncorrectable word poisoned, before the engine uses it. -/
def Obligations.EngineStarts : Prop :=
  ∀ (c : CoreId) (e : Engine) (x : CtxId) (i : Item) (steps n : Nat) (r : BitVec 4) (b : Option (Nat × Ecc)) (s : State),
    (engineActs s c = true → (s.core c).runCtx = some x → headOf (s.core c) e = some i →
      (exec (.engineStart c e b) s = exec (.engineStart c e none) (s.spadFound c b)) ∧
      (MayStart s c x i steps →
        (i.phase = .queued ∨ i.phase = .waiting .commit → ∃ t, exec (.engineStart c e none) s = .next t ∧ Started s t c e i steps) ∧
        (i.phase = .waiting .tally → tallyWait (s.core c) i = false →
          ∃ t, exec (.tallyWaitEnd c e) s = .next t ∧ Started s t c e i steps) ∧
        (allEngines.find? (fun g => (headOf (s.core c) g).any (fun j =>
            j.phase == .waiting (.circEmpty r) && regionWait (s.core c) j != some (.circEmpty r))) = some e →
          ∃ t, exec (.circEmptyWaitEnd c r) s = .next t ∧ Started s t c e i steps) ∧
        (((s.core c).th.circ r).full = false → (s.core c).firstInLine r = some (some i.serial) → engineOfHead (s.core c) i.serial = some e →
          ∃ t, exec (.circFullWaitEnd c r) s = .next t ∧ Started s t c e i steps))) ∧
    (let found (kind : Kind) (cmd : Option (Nat × Ecc) → Instr) : Prop :=
       Runs s c e n kind x i → exec (cmd b) s = exec (cmd none) (s.spadFound c b)
     found .aadd (fun b => .aadd c (.run e n b)) ∧ found .amax (fun b => .amax c (.run e n b)) ∧
     found .circSet (fun b => .circSet c (.run e n b)) ∧ found .circAdv (fun b => .circAdv c (.run e n b)) ∧
     found .crumbGet (fun b => .crumbGet c (.run e n b)) ∧ found .bulkGet (fun b => .bulkGet c (.run e n b)) ∧
     found .bulkPut (fun b => .bulkPut c (.run e n b)) ∧ found .send (fun b => .send c (.run e n b)) ∧
     found .rsum (fun b => .rsum c (.run e n b)) ∧ found .bcast (fun b => .bcast c (.run e n b)) ∧
     found .kvAlloc (fun b => .kvAlloc c (.run e n b)) ∧ found .kvFree (fun b => .kvFree c (.run e n b)) ∧
     found .ptEdit (fun b => .ptEdit c (.run e n b)) ∧ found .pfxLookup (fun b => .pfxLookup c (.run e n b)) ∧
     found .pfxInsert (fun b => .pfxInsert c (.run e n b)) ∧ found .pfxRelease (fun b => .pfxRelease c (.run e n b)) ∧
     found .mm (fun b => .mm c (.run e n b)) ∧ found .mmAcc (fun b => .mmAcc c (.run e n b)) ∧
     found .pralineSpill (fun b => .pralineSpill c (.run e n b)) ∧ found .vop (fun b => .vop c (.run e n b)) ∧
     found .softmax (fun b => .softmax c (.run e n b)) ∧ found .convert (fun b => .convert c (.run e n b)) ∧
     found .transpose (fun b => .transpose c (.run e n b)) ∧ found .tallyClose (fun b => .tallyClose c (.run e n b)) ∧
     found .norm (fun b => .norm c (.run e n b)) ∧ found .attnFwd (fun b => .attnFwd c (.run e n b)) ∧
     found .attnBwd (fun b => .attnBwd c (.run e n b)) ∧ found .sortb (fun b => .sortb c (.run e n b)))

/-- R88, R96, R128, R129, R131: an instruction at the head of its queue that has performed everything completes: it leaves its queue, its
counter falls by one, its reader marks fall, and only the crumbs of a CRUMB.GET reach the scratchpad; memory changes only where an
attention instruction's lists or frames changed under it (R258, R272). One of both arrays leaves both queues from their heads. -/
def Obligations.InstructionCompletion : Prop :=
  (∀ (c : CoreId) (e : Engine) (i : Item) (rest : List Item) (s : State),
      let k := s.core c
      let calm := isBarrier i.kind = true → listChanged k i = false ∧
        ∀ y ∈ List.zip (planOf i i.chain) i.snaps, ∀ x, k.runCtx = some x → entryRaces s x i y.1 y.2 = false
      s.up = true → k.inService = true → k.queue e = i :: rest → itemDone i = true → isPair i = false →
      (∀ j ∈ rest, j.serial ≠ i.serial) → (∀ g, g ≠ e → ∀ j ∈ k.queue g, j.serial ≠ i.serial) →
      (∀ g, ∀ j ∈ k.queue g, j.phase ≠ .finished) →
      ∃ t, exec (.instructionComplete c e 0) s = .next t ∧
        (t.core c).queue e = rest ∧ (∀ g, g ≠ e → (t.core c).queue g = k.queue g) ∧
        (t.core c).th = k.th.setTok i.kt (k.th.tok i.kt - 1) ∧
        (∀ n, (t.slot n).marks = (s.slot n).marks - i.marks.count n) ∧
        (∀ b, b ≠ c → t.core b = s.core b) ∧ t.net = s.net ∧
        (calm → t.mem = s.mem ∧ (t.core c).pad = (if i.kind = .crumbGet then memPut k.pad i.s4.toNat (gotBytes i.got) else k.pad))) ∧
  (∀ (c : CoreId) (i j : Item) (ra rb : List Item) (s : State),
      let k := s.core c
      s.up = true → k.inService = true → k.queue .arrayA = i :: ra → k.queue .arrayB = j :: rb → j.serial = i.serial →
      itemDone i = true → isPair i = true →
      (∀ q ∈ ra ++ rb, q.serial ≠ i.serial) → (∀ g, g ≠ .arrayA → g ≠ .arrayB → ∀ q ∈ k.queue g, q.serial ≠ i.serial) →
      (∀ g, ∀ q ∈ k.queue g, q.phase ≠ .finished) →
      ∃ t, exec (.instructionComplete c .arrayA 0) s = .next t ∧ (t.core c).queue .arrayA = ra ∧ (t.core c).queue .arrayB = rb ∧
        (t.core c).th = k.th.setTok i.kt (k.th.tok i.kt - 1))

/-- R111 to R113: a claim takes the next slot number; a fill of the slot at TAIL moves TAIL past it and past every slot filled before it,
a fill ahead of TAIL waits; a release moves HEAD, never past TAIL; a region is full with SLOTS claimed slots unreleased. -/
def Obligations.CircularRegions : Prop :=
  ∀ (r : Circ) (k : BitVec 16) (n : Nat), n < 2 ^ 16 →
    r.take = { r with claim := r.claim + 1 } ∧
    (k ≠ r.tail → r.tail ∉ r.filled → r.fill k = { r with filled := r.filled ++ [k] }) ∧
    (k = r.tail → r.filled = [] → r.fill k = { r with tail := r.tail + 1 }) ∧
    (k = r.tail → r.filled = [r.tail + 1] → r.fill k = { r with tail := r.tail + 2, filled := [] }) ∧
    (r.freeSlots n = if n ≤ (r.tail - r.head).toNat then some { r with head := r.head + BitVec.ofNat 16 n } else none) ∧
    (r.empty = true ↔ r.tail = r.head) ∧
    (r.full = true ↔ (r.claim - r.head).toNat = r.slots.toNat)

/-- R42, R110, R112, R285: SLOT_FILLED fills the slot an instruction claimed, and changes no byte of the scratchpad but those the slot
shares with other enabled regions, whose contents are undefined; and HALL_PASS_GRANT gives an open pass to the editor that waits first,
which starts and stands in no line for a slot. -/
def Obligations.FillsAndPasses : Prop :=
  ∀ (c : CoreId) (r : BitVec 4) (n : BitVec 16) (i : Item) (x : CtxId) (slot : SlotId) (rest : List Passer) (s : State),
    let k := s.core c
    (s.up = true → k.inService = true →
      ((allEngines.map k.queue).flatten).find? (fun j => j.phase == .performed && j.out == 0 && j.claims.contains (r, n)) = some i →
      let shared := k.th.sharedSpans r ((k.th.circ r).slotAt n) (64 * (k.th.circ r).slotW.toNat)
      (shared = [] → ∃ t, exec (.slotFilled c r n) s = .next t ∧ t = s.setCore c (t.core c) ∧
        t.core c = ({ k with th := k.th.setCirc r ((k.th.circ r).fill n) } : Core).modItem i.serial (fun j => { j with claims := j.claims.erase (r, n) })) ∧
      ∃ t, exec (.slotFilled c r n) s = .next t ∧ (t.core c).th = k.th.setCirc r ((k.th.circ r).fill n) ∧ t.mem = s.mem ∧
        ∀ b, (∀ w ∈ shared, Outside b w) → memWf k.pad = true → memRead (t.core c).pad b = memRead k.pad b) ∧
    (s.up = true → (s.slot slot).waiting = ⟨some (c, i.serial), true⟩ :: rest → (s.slot slot).holders = [] →
      k.item i.serial = some i → k.runCtx = some x → isArrayKind i.kind = false → outsOf i = [] → insOf i = [] →
      ∃ t, exec (.hallPassGrant slot) s = .next t ∧
        t = { (s.setSlot slot { s.slot slot with waiting := rest, holders := [⟨some (c, i.serial), true⟩] }).setCore c (t.core c) with fresh := t.fresh } ∧
        t.core c = (k.leaveLine (some i.serial)).modItem i.serial (fun j => { j with phase := .started, claims := [], reads := [] }))


/-! Praline records (spec/04_praline_dot_product.md). -/

/-- R81: for a fixed set of operand pairs and a fixed anchor, the record is the same for every order of the terms, and for every grouping
of them into partial sums that are added as records. -/
def Obligations.PralineOrderAndGrouping : Prop :=
  ∀ (a : Int) (ps qs : List (Common × Common)),
    let sum (l : List (Common × Common)) : Praline := l.foldl (fun r p => prAdd r (term p.1 p.2 a)) prEmpty
    (ps.Perm qs → sum ps = sum qs) ∧ sum (ps ++ qs) = prAdd (sum ps) (sum qs)

/-- R80, R83: the addition of any two records is commutative, the addition of any three is associative, and the empty record changes
nothing; so adds that reach one record leave the same record in every order. -/
def Obligations.PralineAddition : Prop :=
  ∀ x y z : Praline, prAdd x y = prAdd y x ∧ prAdd (prAdd x y) z = prAdd x (prAdd y z) ∧ prAdd prEmpty x = x ∧
    prOfBits (prBits x) = x ∧
    (x.af = y.af → x.af ≠ 0 → x.f &&& 2 = 0 → y.f &&& 2 = 0 → prAdd x y = ⟨x.v + y.v, x.af, x.f ||| y.f⟩) ∧
    (x.af ≠ y.af → x ≠ prEmpty → y ≠ prEmpty → (prAdd x y).v = 0 ∧ (prAdd x y).f &&& 2 = 2)

/-- R75, R84: a term never exceeds 2^95 - 1 units. The value field of a reduction is the sum of its terms' values modulo 2^112: the sum
itself while it lies in the range of the field, as it does for at most 65 536 terms, and for more while the magnitudes add up to
less than 2^111. The flags are those of the terms, and a wrapped sum sets none. -/
def Obligations.PralineExactSum : Prop :=
  ∀ (a : Int) (ps : List (Common × Common)), -2047 ≤ a → a ≤ 2047 →
    let terms := ps.map (fun p => term p.1 p.2 a)
    let sum := terms.foldl prAdd prEmpty
    let exact := (terms.map (fun t => t.v.toInt)).sum
    (∀ t ∈ terms, -(2 ^ 95 - 1 : Int) ≤ t.v.toInt ∧ t.v.toInt ≤ 2 ^ 95 - 1 ∧ t.f &&& 2 = 0) ∧
    sum.v = BitVec.ofInt 112 exact ∧ sum.f = (terms.map (fun t => t.f)).foldl (fun x y => x ||| y) 0 ∧
    (-(2 ^ 111 : Int) ≤ exact ∧ exact ≤ 2 ^ 111 - 1 → sum.v.toInt = exact) ∧
    (ps.length ≤ 65536 → sum.v.toInt = exact) ∧
    ((terms.map (fun t => t.v.toInt.natAbs)).sum < 2 ^ 111 → sum.v.toInt = exact)

/-! What the engine instructions do (spec/07_akaux_control_memory.md to spec/13_memory_tiers.md). -/

/-- R162 to R166: AADD and AMAX send one adder piece for each 32-byte unit of their destination with its part of the operand, CRUMB.GET
sends one crumb request for each address of its list; the instruction is performed once they are sent. -/
def Obligations.CrumbUnitRequests : Prop :=
  ∀ (c : CoreId) (e : Engine) (n steps : Nat) (x : CtxId) (i : Item) (s : State),
    let k := s.core c
    let pieces := (atomicPieces i).map (fun p => (gAdd i.s1 p.1, p.2))
    let adds (isMax : Bool) : List Req := (atomicPieces i).map (fun p =>
      s.newReq c i.serial x (mainOff s x (gAdd i.s1 p.1) p.2 .write) none p.2 (.piece i.sub isMax (((atomicData k i).drop p.1).take p.2)))
    let crumbs : List Req := ((crumbAddrs k i).mapIdx (fun m g => s.newReq c i.serial x (mainOff s x g 32 .read) none 32 (.crumb m)))
    (headAtomic s k x i = .ok steps → AllMain s x .write pieces → atomicPoison s x i = false →
      (Runs s c e n .aadd x i → ∃ t, exec (.aadd c (.run e n none)) s = .next t ∧ Requested s t c e i k.th (adds false)) ∧
      (Runs s c e n .amax x i → ∃ t, exec (.amax c (.run e n none)) s = .next t ∧ Requested s t c e i k.th (adds true))) ∧
    (headCrumbGet s k x i = .ok steps → AllMain s x .read ((crumbAddrs k i).map (fun g => (g, 32))) → Runs s c e n .crumbGet x i →
      ∃ t, exec (.crumbGet c (.run e n none)) s = .next t ∧ Requested s t c e i k.th crumbs)

/-- R110, R113, R168, R169: CIRC.SET gives its region the configuration of its image with every pointer zero; the bytes of a slot that an
instruction of another engine still reads become undefined, and those the new region shares with another. CIRC.ADV moves HEAD past COUNT filled slots. -/
def Obligations.CircularInstructions : Prop :=
  ∀ (c : CoreId) (e : Engine) (n : Nat) (x : CtxId) (i : Item) (s : State),
    let k := s.core c
    let r := circRegion i
    let set : Circ := ⟨BitVec.ofNat 17 i.s1.toNat, BitVec.ofNat 15 (i.s1.toNat / 2 ^ 17), BitVec.ofNat 9 (i.s1.toNat / 2 ^ 32),
      i.s1.toNat.testBit 41, 0, 0, 0, false, []⟩
    let out (q : Circ) : Host.Outcome State Fault Refusal :=
      .next (s.setCore c (donePerformed i { k with th := k.th.setCirc r q }))
    (Runs s c e n .circSet x i → (k.th.circ r).claim = (k.th.circ r).tail →
      (slotsInUse k i = [] → newShared k.th i = [] → exec (.circSet c (.run e n none)) s = out set) ∧
      ∃ t, exec (.circSet c (.run e n none)) s = .next t ∧ (t.core c).th = k.th.setCirc r set ∧ t.mem = s.mem ∧
        ∀ b, (∀ m ∈ slotsInUse k i, Outside b ((k.th.circ r).slotAt m, 64 * (k.th.circ r).slotW.toNat)) →
          (∀ w ∈ newShared k.th i, Outside b w) → memWf k.pad = true → memRead (t.core c).pad b = memRead k.pad b) ∧
    (Runs s c e n .circAdv x i → (k.th.circ r).en = true → (k.th.circ r).broken = false →
      i.ext / 16 % 512 ≤ ((k.th.circ r).tail - (k.th.circ r).head).toNat →
      exec (.circAdv c (.run e n none)) s = out { k.th.circ r with head := (k.th.circ r).head + BitVec.ofNat 16 (i.ext / 16 % 512) })

/-- R159 to R161: BULK.GET asks for, and BULK.PUT sends with their bytes, the granules of every row and scale row of the tile. -/
def Obligations.BulkTransfers : Prop :=
  ∀ (c : CoreId) (e : Engine) (n steps : Nat) (x : CtxId) (i : Item) (s : State),
    let k := s.core c
    let gs (out : Bool) := allGranules i (i.area k.th (if out then i.tdo else i.tdl) out)
    headBulk s k x i = .ok steps →
    (Runs s c e n .bulkGet x i → AllMain s x .read ((gs true).map (fun m => (m.glob, m.len))) →
      ∃ t, exec (.bulkGet c (.run e n none)) s = .next t ∧
        Requested s t c e i k.th ((gs true).map (fun m => s.newReq c i.serial x (mainOff s x m.glob m.len .read) none m.len (.toPad m.pad)))) ∧
    (Runs s c e n .bulkPut x i → AllMain s x .write ((gs false).map (fun m => (m.glob, m.len))) →
      movePoison k (movesOf i (i.area k.th i.tdl false)) = false → ∀ k', k.popAll (popsOf [i.tdl]) = some k' →
      ∃ t, exec (.bulkPut c (.run e n none)) s = .next t ∧
        Requested s t c e i k'.th ((gs false).map (fun m =>
          s.newReq c i.serial x (mainOff s x m.glob m.len .write) none m.len (.write (k.padBytes m.pad m.len)))))

/-- R216 to R220: SEND and BCAST deliver the bytes of their tile to each destination in turn; RSUM sends one record add for each 32-byte unit
and, with a counter, holds it back until they are performed, then adds one to it. -/
def Obligations.SendsAndReductions : Prop :=
  ∀ (c : CoreId) (e : Engine) (n steps : Nat) (x : CtxId) (i : Item) (k' : Core) (s : State),
    let k := s.core c
    let a := i.area k.th i.tdl false
    let copies (ds : List Word) : State := ds.foldl (fun t w => t.deliver c i x (destOf w) (k.padBytes a.base a.bytes))
      (s.setCore c (donePerformed i { k with th := k'.th }))
    let data := (tabulate a.rows (fun r => k.padBytes (a.rowAt r) a.rowBytes)).flatten
    let adds : List Req := (rsumPieces i data.length).map (fun p =>
      s.newReq c i.serial x (mainOff s x (gAdd i.s1 p.1) p.2 .write) none p.2 (.piece 4 false ((data.drop p.1).take p.2)))
    (k.padPoison a.base a.bytes = false → k.popAll (popsOf [i.tdl]) = some k' →
      (Runs s c e n .send x i → destOk s k x i.s1 = true → destReached s c i.s1 = true →
        exec (.send c (.run e n none)) s = .next (copies [i.s1])) ∧
      (Runs s c e n .bcast x i → headBcast s k x i = .ok steps → (∀ d ∈ bcastList k i, destReached s c d = true) →
        exec (.bcast c (.run e n none)) s = .next (copies (bcastList k i)))) ∧
    (Runs s c e n .rsum x i → headRsum s k x i = .ok steps → k.tilePoison a = false → k.popAll (popsOf [i.tdl]) = some k' →
      AllMain s x .write ((rsumPieces i data.length).map (fun p => (gAdd i.s1 p.1, p.2))) →
      (i.n2 = 0 → ∃ t, exec (.rsum c (.run e n none)) s = .next t ∧ Requested s t c e i k'.th adds) ∧
      (i.n2 ≠ 0 → adds ≠ [] → ∃ t, exec (.rsum c (.run e n none)) s = .next t ∧ t.net = s.net ++ adds ∧ (t.core c).th = k'.th)) ∧
    (s.up = true → k.runCtx = some x → (k.queue e)[n]? = some i → i.kind = .rsum → i.phase = .held .link → i.out = 0 →
      AllMain s x .write [(i.s2, 8)] →
      ∃ t, exec (.rsum c (.run e n none)) s = .next t ∧
        Requested s t c e i k.th [s.newReq c i.serial x (mainOff s x i.s2 8 .write) none 8 (.piece 1 false (leBytes 8 1))])

/-- R206 to R210: KV.ALLOC and KV.FREE put a request for their slot at the end of the pending transaction, where it replaces an earlier one
of its kind for the slot; PT.EDIT writes the entry of its stream and block, and with CAS only over the expected entry. -/
def Obligations.KvInstructions : Prop :=
  ∀ (c : CoreId) (e : Engine) (n : Nat) (x : CtxId) (i : Item) (sl : SlotId) (res : Option (Option (BitVec 12) × Nat)) (s : State),
    let k := s.core c
    let joined (release join : Bool) (t : State) : Prop :=
      t = { s.setCore c (donePerformed i k) with
        kvTrans := s.kvTrans.map (supersede ⟨sl, x, release, join, false, i.s2.toNat, res, none⟩) ++ [⟨sl, x, release, join, false, i.s2.toNat, res, none⟩] }
    slotFor s x i.s1 = some sl →
    (resultPlace s x i = .ok res → allocatorIn s = true →
      (Runs s c e n .kvAlloc x i → ∃ t, exec (.kvAlloc c (.run e n none)) s = .next t ∧ joined false (i.ext.testBit 0) t) ∧
      (Runs s c e n .kvFree x i → ∃ t, exec (.kvFree c (.run e n none)) s = .next t ∧ joined true false t)) ∧
    (Runs s c e n .ptEdit x i → s.kvCommitting = none → editOk s (editOf sl i) = true → memWf s.mem = true →
      let a := entryAddr s sl (i.s2.toNat / 2 ^ 32) (i.s2.toNat % 2 ^ 14)
      let old := entryOf s sl (i.s2.toNat / 2 ^ 32) (i.s2.toNat % 2 ^ 14)
      let lost := i.ext.testBit 0 && old != i.cas
      ∃ t, exec (.ptEdit c (.run e n none)) s = .next t ∧
        memLoad t.mem a 8 = (if lost then old else i.s3).toNat ∧ (∀ b, Outside b (a, 8) → memRead t.mem b = memRead s.mem b) ∧
        t.core c = donePerformed i (if i.ext.testBit 1 then k.padStore i.s4.toNat 8 old.toNat else k) ∧
        (t.slot sl).holders = (s.slot sl).holders.filter (fun p => p != ⟨some (c, i.serial), true⟩) ∧
        t.kvTrans = s.kvTrans)

/-- R211 to R215, R296 to R302: PFX.LOOKUP and PFX.INSERT take the blocks of their token list in order, each hashed over the one before it,
and write COUNT, STATUS, DUP and LAST; PFX.RELEASE takes its listed hashes in order and writes how many left the index. A result that
overlaps what the instruction reads is undefined (R180). -/
def Obligations.PrefixInstructions : Prop :=
  ∀ (c : CoreId) (e : Engine) (n steps : Nat) (x : CtxId) (i : Item) (s : State),
    let k := s.core c
    let p := pfxAt k i.s1.toNat
    let sl : SlotId := BitVec.ofNat 14 p.slot
    let start : PfxRun := ⟨s, p.parent, 0, 0, 0, false⟩
    let lists := overlap i.s1.toNat (16 * i.s2.toNat) i.s3.toNat 4
    s.kvCommitting = none → indexIn s c = true →
    (headPfx s k x i = .ok steps →
      (Runs s c e n .pfxLookup x i →
        exec (.pfxLookup c (.run e n none)) s =
          .next ((State.pfxResult c i.s1.toNat p ((List.range p.blocks).foldl (PfxRun.look x sl k p) start)).performed c i)) ∧
      (Runs s c e n .pfxInsert x i →
        exec (.pfxInsert c (.run e n none)) s =
          .next (((State.pfxResult c i.s1.toNat p ((List.range p.blocks).foldl (PfxRun.insert x sl k p) start)).releasePass sl
            ⟨some (c, i.serial), true⟩).performed c i))) ∧
    (overlap p.tokens (4 * p.ntok) (i.s1.toNat + 40) 24 = false → ∀ r : PfxRun,
      State.pfxResult c i.s1.toNat p r = r.st.modCore c (fun k => k.padWrite (i.s1.toNat + 40)
        (leBytes 4 r.count ++ leBytes 2 r.status ++ leBytes 2 r.dup ++ r.parent))) ∧
    (Runs s c e n .pfxRelease x i → headRelease k x i = .ok steps →
      let r := (List.range i.s2.toNat).foldl (fun r m => releaseHash x r (k.padLoad (i.s1.toNat + 16 * m) 16)) (s, 0)
      exec (.pfxRelease c (.run e n none)) s = .next ((r.1.padOut c lists (i.s3.toNat, leBytes 4 r.2)).performed c i) ∧
      (lists = false → exec (.pfxRelease c (.run e n none)) s = .next ((r.1.modCore c (fun k => k.padStore i.s3.toNat 4 r.2)).performed c i)))

/-- R106, R113, R182 to R195, R241: a started tile instruction with no poisoned source reads its tiles, releases the slots its POP descriptors
name, writes its output and its flags, and is performed; only its core changes. Where R180 or R241 leave the output undefined, the rest of
what it does is the same. -/
def Obligations.TileInstructions : Prop :=
  ∀ (c : CoreId) (e : Engine) (n : Nat) (x : CtxId) (i : Item) (s : State),
    let k := s.core c
    let l := i.area k.th i.tdl false
    let chainFree := spansMeet (chainReads k i l.rows (tileOf i.tdr).rows l.cols) (regionSpans k.th) = false ∧
      spansMeet (chainTallies i l.rows) (regionSpans k.th) = false
    let ok (kind : Kind) (ins : List (BitVec 256)) (poison : Bool) (free : Prop) (f : Core → Core) (cmd : Instr) : Prop :=
      Runs s c e n kind x i → poison = false → ∀ k', k.popAll (popsOf ins) = some k' →
        (free → exec cmd s = .next (s.setCore c (donePerformed i (f { k with th := k'.th })))) ∧
        ∃ t, exec cmd s = .next t ∧ t = { s.setCore c (t.core c) with fresh := t.fresh } ∧
          t.core c = { donePerformed i (f { k with th := k'.th }) with pad := (t.core c).pad, clean := (t.core c).clean }
    ok .mm (arrayIns i) (arrayPoison k i) chainFree (mmEffect i) (.mm c (.run e n none)) ∧
    ok .mmAcc (arrayIns i) (arrayPoison k i) chainFree (mmEffect i) (.mmAcc c (.run e n none)) ∧
    ok .pralineSpill (arrayIns i) (arrayPoison k i) chainFree (spillEffect i) (.pralineSpill c (.run e n none)) ∧
    ok .vop (vopIns i) (insPoison k i (vopIns i)) (NoOverlap k i true (vopIns i) []) (vopEffect i) (.vop c (.run e n none)) ∧
    ok .softmax [i.tdl] (insPoison k i [i.tdl]) (NoOverlap k i false [i.tdl] []) (softmaxEffect i) (.softmax c (.run e n none)) ∧
    ok .convert [i.tdl] (insPoison k i [i.tdl]) (NoOverlap k i true [i.tdl] []) (convertEffect i) (.convert c (.run e n none)) ∧
    ok .transpose [i.tdl] (insPoison k i [i.tdl]) (NoOverlap k i false [i.tdl] []) (transposeEffect i) (.transpose c (.run e n none)) ∧
    ok .tallyClose [] (tallyBad k i (tileOf i.tdo).rows).isSome (NoOverlap k i false [] [(i.s1.toNat, 64 * (tileOf i.tdo).rows)])
      (tallyCloseEffect i) (.tallyClose c (.run e n none)) ∧
    ok .norm (normIns i) ((tallyBad k i (tileOf i.tdl).rows).isSome || insPoison k i (normIns i))
      (NoOverlap k i true (normIns i) [(i.s1.toNat, 64 * (tileOf i.tdl).rows)]) (normEffect i) (.norm c (.run e n none))

/-- R53, R54, R71, R180, R233: the effect of a tile instruction that passed its head checks writes nothing outside the rows and scale rows of its output and
the row tallies of its chain, and of the thread it changes FLAGS (bits only rise) and the count of open tallies alone. -/
def Obligations.TileFrames : Prop :=
  ∀ (i : Item) (k : Core) (steps : Nat), memWf k.pad = true →
    let o := i.area k.th i.tdo true
    let keeps (f : Core) : Prop :=
      f = { k with pad := f.pad, clean := f.clean, th := { k.th with flags := f.th.flags, openTally := f.th.openTally } } ∧
      k.th.flags &&& f.th.flags = k.th.flags ∧
      ∀ b, (∀ w ∈ o.spans ++ tallySpans i o.rows, Outside b w) → memRead f.pad b = memRead k.pad b
    (headArray k i = .ok steps →
      ((i.kind = .mm ∨ i.kind = .mmAcc) → keeps (mmEffect i k)) ∧ (i.kind = .pralineSpill → keeps (spillEffect i k))) ∧
    (headVop k i = .ok steps → keeps (vopEffect i k)) ∧ (headSoftmax k i = .ok steps → keeps (softmaxEffect i k)) ∧
    (headConvert k i = .ok steps → keeps (convertEffect i k)) ∧ (headTranspose k i = .ok steps → keeps (transposeEffect i k)) ∧
    (headTallyClose k i = .ok steps → keeps (tallyCloseEffect i k)) ∧ (headNorm k i = .ok steps → keeps (normEffect i k))

/-- R182, R186: PRALINE.SPILL without ACC leaves in row m, column j of its output the record of the dot product of row m of its left operand and
row j of its right one, the terms taken from k = 0 up. -/
def Obligations.SpillRecords : Prop :=
  ∀ (i : Item) (k : Core) (steps m j : Nat), memWf k.pad = true → i.kind = .pralineSpill → i.chain = [] → i.sub % 2 = 0 →
    headArray k i = .ok steps →
    let l := i.area k.th i.tdl false
    let r := i.area k.th i.tdr false
    let o := i.area k.th i.tdo true
    m < l.rows → j < r.rows →
    BitVec.ofNat 128 (memLoad (spillEffect i k).pad (o.base + m * o.stride + 16 * j) 16) =
      prBits ((List.zip (commonsOf (k.rowVals l m)) (commonsOf (k.rowVals r j))).foldl (fun a p => prAdd a (term p.1 p.2 i.anc.toInt)) prEmpty)

/-- R198 to R204, R256 to R274: an attention instruction that meets no poisoned tile takes its entries in order, writes the outputs of each, the STATUS
byte of each entry, its flags, and is performed; ATTN.BWD with stored lines reads them first. Outputs that R180, R258 or R272 leave
undefined are free bytes in the same places. SORTB writes the sorted list and the counts. -/
def Obligations.AttentionInstructions : Prop :=
  ∀ (c : CoreId) (e : Engine) (n steps : Nat) (x : CtxId) (i : Item) (k' : Core) (s : State),
    let k := s.core c
    let es := planOf i i.chain
    let sts := statuses s i es i.snaps
    let all := numbered (List.zip (List.zip es i.snaps) (List.zip sts (areaStarts i.mode.d i.s3 es)))
    let effect (outs : List AttnOut) : State :=
      ((((s.frameErrors i es i.snaps).modTh c (fun _ => k'.th)).applyOut c i x es (List.zip es (List.zip i.snaps outs))).putStatuses c i
        (listChanged k i) sts).performed c i
    let fwd := effect (all.map (fun y => fwdEntry s k i y.2.1.1 y.2.1.2 y.2.2.1))
    let bwd := effect (all.map (fun y => bwdEntry s k i (linesOf i y.1) y.2.2.2 y.2.1.1 y.2.1.2 y.2.2.1))
    (attnPoison k i = false → k.popAll (popsOf [i.qTile]) = some k' →
      (Runs s c e n .attnFwd x i → i.fwd = true → exec (.attnFwd c (.run e n none)) s = .next fwd) ∧
      (Runs s c e n .attnBwd x i → i.fwd = false → i.stored = false → exec (.attnBwd c (.run e n none)) s = .next (bwd.finishStored c e n)) ∧
      (s.up = true → k.runCtx = some x → (k.queue e)[n]? = some i → i.kind = .attnBwd → i.phase = .held .link → i.out = 0 → i.fwd = false →
        exec (.attnBwd c (.run e n none)) s = .next bwd)) ∧
    (Runs s c e n .attnBwd x i → i.stored = true → linesPoison s x i es = false →
      exec (.attnBwd c (.run e n none)) s = .next ((((storedPieces i es).foldl (fun t p => t.askLine c i x p.1 p.2.1 p.2.2) s).modCore c
        (fun q => q.modItem i.serial (fun j => { j with phase := .held .link }))).finishStored c e n)) ∧
    (Runs s c e n .sortb x i → headSortb k i = .ok steps →
      let meets := overlap i.s1.toNat (8 * sortCount i) i.s3.toNat (8 * sortCount i + 64)
      exec (.sortb c (.run e n none)) s = .next ((s.padOut c meets (i.s3.toNat, sortOut k i)).performed c i) ∧
      (meets = false → exec (.sortb c (.run e n none)) s = .next (s.setCore c (donePerformed i (k.padWrite i.s3.toNat (sortOut k i))))))

/-! Memory tiers (spec/13_memory_tiers.md). -/

/-- R159 to R166, R281, R305, R322, R323, Table 7.5: the request a controller serves next leaves the network and is performed: a granule of BULK.PUT
writes its bytes, one of BULK.GET brings its bytes to the scratchpad, a crumb arrives at its instruction, and a piece combines with the
bytes at its address; no other byte of main memory changes, and the instruction counts one request less. Crumbs and pieces have passed
the lanes of their forms first, which take their eight cores in turn. What an adder makes of an old and a new element: unsigned sums
wrap, signed maxima are exact, and the Praline type adds records. -/
def Obligations.MemoryService : Prop :=
  (∀ (ch : ChanId) (r : Req) (off a m ty : Nat) (isMax : Bool) (data : List Byte) (s : State),
      let k := s.core r.core
      let u := State.lanes ch s.net.length s
      let less (q : Core) : Core := q.modItem r.serial (fun i => { i with out := i.out - 1 })
      let done (net : List Req) (t : State) (q : Core) (mem : Mem) : Prop :=
        t.net = net.erase r ∧ t.core r.core = less q ∧ t.mem = mem ∧ (∀ b, b ≠ r.core → t.core b = s.core b) ∧ t.slots = s.slots
      let readable := reqAllowed s r off false = true ∧ readPoison s off r.len = false ∧ r.wrec.any (wrecUndefined s) = false ∧
        itemLive s r.core r.serial = true
      k.inService = true → r.epoch = (dieEpoch s (coreDie r.core)).setWidth 4 → reqOffset s r = some off → memWf s.mem = true →
      (serves s ch false = true → nextReq s ch true = some r →
        (r.op = .write data → reqAllowed s r off true = true → ∃ t, exec (.granulePerformed ch .clean) s = .next t ∧
          done s.net t k (memPut s.mem off data) ∧
          memBytes t.mem off data.length = data ∧ ∀ b, Outside b (off, data.length) → memRead t.mem b = memRead s.mem b) ∧
        (r.op = .toPad a → readable →
          ∃ t, exec (.granulePerformed ch .clean) s = .next t ∧ done s.net t (k.padWrite a (memBytes s.mem off r.len)) s.mem)) ∧
      (serves s ch false = true → nextReq u ch false = some r → r.op = .crumb m → readable → ∃ t, exec (.crumbServed ch .clean) s = .next t ∧
          done u.net t (k.modItem r.serial (fun i => { i with got := mapSet i.got m (memBytes s.mem off r.len) })) s.mem) ∧
      (serves s ch true = true → nextReq u ch false = some r → formFull s ch off = false → r.op = .piece ty isMax data →
        reqAllowed s r off true = true → readPoison s off r.len = false →
        ∃ t, exec (.adderPiece ch .clean) s = .next t ∧
          done u.net t k (memPut s.mem off (combineBytes ty isMax (memBytes s.mem off data.length) data)))) ∧
  (∀ (form : Nat) (s : State), form < 8 → (mapGet s.laneLast form).getD 7 < 8 → (∀ r ∈ s.net, isBulk r = false ∧ r.lane = false ∧ formOf r.core = form) → s.net ≠ [] →
      ∃ r ∈ s.net, laneNext s form = some r ∧ (s.laneGrant form).net = replaceFirst r { r with lane := true } s.net ∧
        mapGet (s.laneGrant form).laneLast form = some (r.core.toNat % 8) ∧
        ∀ q ∈ s.net, q.core ≠ r.core → (r.core.toNat + 7 - (mapGet s.laneLast form).getD 7) % 8 < (q.core.toNat + 7 - (mapGet s.laneLast form).getD 7) % 8) ∧
  (∀ d x : Nat,
      combine 0 false d x = (d + x) % 2 ^ 32 ∧ combine 1 false d x = (d + x) % 2 ^ 64 ∧
      (d < 2 ^ 32 → x < 2 ^ 32 → combine 0 true d x = if (BitVec.ofNat 32 d).toInt < (BitVec.ofNat 32 x).toInt then x else d) ∧
      (d < 2 ^ 64 → x < 2 ^ 64 → combine 1 true d x = if (BitVec.ofNat 64 d).toInt < (BitVec.ofNat 64 x).toInt then x else d) ∧
      combine 4 false d x = (prBits (prAdd (prOfBits (BitVec.ofNat 128 d)) (prOfBits (BitVec.ofNat 128 x)))).toNat)


/-- R308 to R310, R314 to R316, R318, R319: scrub counts what it finds and poisons a unit that is lost; a translation flush is pending until no
access of its contexts is in flight; an import range keeps its fields, and EN falls where it would admit a protected area. -/
def Obligations.MemoryEvents : Prop :=
  ∀ (u : BitVec 34) (v : Word) (i : BitVec 4) (s : State), s.up = true →
    exec (.patrolScrub u .clean) s = .next s ∧
    exec (.patrolScrub u .corrected) s = .next { s with log := { s.log with hbmCorr := min (2 ^ 32 - 1) (s.log.hbmCorr + 1) } } ∧
    (wrecOfPage s.hbmUncorr (u.toNat / 2 ^ 16) = none → poolAt s.hbmUncorr (32 * u.toNat) = none →
      exec (.patrolScrub u .uncorrectable) s =
        .next { s with log := { s.log with hbmUncorr := min 0xFFFF (s.log.hbmUncorr + 1) }, memPoison := setAdd s.memPoison u.toNat }) ∧
    exec (.memTlbFlush v) s = .next { s with flushBusy := true, flushAll := v.toNat.testBit 6 || s.flushBusy, flushCtx := v.setWidth 6 } ∧
    (s.flushBusy = true → (∀ x, (s.flushAll = true ∨ x = s.flushCtx) → inFlight s x = false) →
      exec .tlbFlushDone s = .next { s with flushBusy := false }) ∧
    (v.toNat % 2 ^ 21 = 0 →
      (∃ t, exec (.memImport i false v) s = .next t ∧ regOf t.impA i.toNat = v &&& 0x0FFFFFFFFFFFFFFF ∧ t.impA = mapSet s.impA i.toNat (v &&& 0x0FFFFFFFFFFFFFFF)) ∧
      (∃ t, exec (.memImport i true v) s = .next t ∧
        let w := v &&& 0x7FFFFFFFFFFFFFFF
        regOf t.impB i.toNat =
          if w.toNat.testBit 62 && touchesProtected s (fieldOf (regOf s.impA i.toNat) 47 0) (fieldOf w 47 0) then w &&& 0xBFFFFFFFFFFFFFFF else w))

/-- R330 to R332, R436: the library commands. OPEN empties whole stripes; WRITE copies the source page, SEAL stores digests and parity,
REPAIR restores a LOST page whose digest matches, each when it completes, until when it is BUSY; the completion shows its result and
raises its interrupt bit. A command is refused while another is BUSY. -/
def Obligations.LibraryCommands : Prop :=
  ∀ (page count : BitVec 20) (s : State), s.up = true →
    let p := page.toNat
    let ps := tabulate count.toNat (fun i => p + i)
    let busy (op result : Nat) (t : State) : Prop :=
      t.libBusy = true ∧ t.libOp = op ∧ t.libPendingResult = result ∧ t.libResult = s.libResult ∧ t.libPage0 = p ∧ t.libCount = count.toNat
    let accepted (op result : Nat) : Host.Outcome State Fault Refusal :=
      .next { s with libBusy := true, libOp := op, libPendingResult := result, libPage0 := p, libCount := count.toNat }
    let src := s.libSrc * 2 ^ 21
    let bad := if s.poisoned src (2 ^ 21) = true then 3 else 0
    (s.libBusy = true →
      let turnedAway : Host.Outcome State Fault Refusal := .next { s with libResult := 1 }
      exec (.libOpen page count) s = turnedAway ∧ exec (.libWrite page count) s = turnedAway ∧ exec (.libSeal page count) s = turnedAway ∧
      exec (.libPrefetch page count) s = turnedAway ∧ exec (.libDrop page count) s = turnedAway ∧ exec (.libRepair page count) s = turnedAway) ∧
    (s.libBusy = false →
      (1 ≤ count.toNat → p + count.toNat ≤ 983040 → p % 3 = 0 → count.toNat % 3 = 0 →
        ((∀ q ∈ ps, (s.libPage q).state ≠ .opened ∧ recordsOf s q (fun t => t == .migrating || t == .resident || t == .refetch) = []) →
          ∃ t, exec (.libOpen page count) s = .next t ∧ busy 1 0 t ∧ (∀ q ∈ ps, t.libPage q = ⟨.opened, false, []⟩) ∧
            (∀ q, q ∉ ps → t.libPage q = s.libPage q) ∧ t.lib = memDrop s.lib (p * 2 ^ 21) ((p + count.toNat) * 2 ^ 21) ∧ t.mem = s.mem) ∧
        ((∀ q ∈ ps, (s.libPage q).state = .opened ∧ (s.libPage q).written = true) → exec (.libSeal page count) s = accepted 3 0)) ∧
      (count = 1 → p < 983040 → libSrcOk s = true →
        ((s.libPage p).state = .opened → exec (.libWrite page count) s = accepted 2 bad) ∧
        ((s.libPage p).state = .lost → exec (.libRepair page count) s = accepted 6 bad)) ∧
      (1 ≤ count.toNat → p + count.toNat ≤ s.wrecCount →
        (exec (.libPrefetch page count) s = .next ((ps.foldl (fun t k => t.wantPage k false) s).libStart 4 0 page count)) ∧
        (exec (.libDrop page count) s = .next ((ps.foldl State.dropRecord s).libStart 5 0 page count)))) ∧
    (s.libBusy = true → libHeatWait s = false →
      let n := s.libPage0
      let qs := tabulate s.libCount (fun i => n + i)
      let shown (result : Nat) (t : State) : Prop := t.libBusy = false ∧ t.libResult = result ∧ t.intr = s.intr ||| 8
      (s.libPendingResult ≠ 0 ∨ s.libOp ∉ [2, 3, 6] →
        exec .libCommandDone s = .next { s with libBusy := false, libResult := s.libPendingResult, intr := s.intr ||| 8 }) ∧
      (s.libPendingResult = 0 →
        (s.libOp = 2 → bad = 0 → ∃ t, exec .libCommandDone s = .next t ∧ shown 0 t ∧ t.libPage n = ⟨.opened, true, []⟩ ∧
          (∀ q, q ≠ n → t.libPage q = s.libPage q) ∧ t.lib = memCopy s.lib s.mem src (n * 2 ^ 21) (2 ^ 21) ∧ t.mem = s.mem) ∧
        (s.libOp = 3 → ∃ t, exec .libCommandDone s = .next t ∧ shown 0 t ∧ (∀ q ∈ qs, t.libPage q = ⟨.sealed, true, pageDigest s.lib q⟩) ∧
          (∀ q, q ∉ qs → t.libPage q = s.libPage q) ∧ (∀ q ∈ qs, q / 3 ∈ t.parity) ∧ t.lib = s.lib ∧ t.mem = s.mem) ∧
        (s.libOp = 6 → bad = 0 →
          (pageDigest s.mem s.libSrc = (s.libPage n).digest → ∃ t, exec .libCommandDone s = .next t ∧ t.libBusy = false ∧ t.libResult = 0 ∧
            t.libPage n = { s.libPage n with state := .sealed } ∧ t.lib = memCopy s.lib s.mem src (n * 2 ^ 21) (2 ^ 21) ∧
            (recordsOf s n (fun r => r == .libLost) = [] → t.mem = s.mem)) ∧
          (pageDigest s.mem s.libSrc ≠ (s.libPage n).digest → exec .libCommandDone s =
            .next { s with libBusy := false, libResult := 2, intr := s.intr ||| 8 }))))

/-- R328, R331, R334 to R337: a completed migration copies its library page over the page of the record, which becomes RESIDENT; a read demands
the page of an ABSENT record, whose migration joins the line of its library stack, or which is LIB_LOST where its page is not SEALED;
DROP completes once nothing reads it; a library read error counts by how it ends. -/
def Obligations.LibraryEvents : Prop :=
  ∀ (k page : BitVec 20) (s : State), s.up = true →
    let r := s.wrec k.toNat
    let at_ := wrecAt s k.toNat
    (k.toNat < s.wrecCount → migReady s k.toNat = true →
      let e := migPages s k.toNat
      let u : State := { s.zero (e.2 * 2 ^ 21) (2 ^ 21) with
        mem := memCopy (memDrop s.mem (e.2 * 2 ^ 21) (e.2 * 2 ^ 21 + 2 ^ 21)) s.lib (e.1 * 2 ^ 21) (e.2 * 2 ^ 21) (2 ^ 21) }
      ∃ t, exec (.migrationComplete k) s = .next t ∧ t.mem = (u.putWrec k.toNat .resident (u.wrec k.toNat).refetches).mem ∧
        t.lib = s.lib ∧ t.libPages = s.libPages ∧ (∀ m ∈ t.migs, m.1 ≠ k.toNat) ∧
        (memWf s.mem = true → s.poisoned at_ 16 = false → (t.wrec k.toNat).state = .resident)) ∧
    (r.state = .absent →
      (canMigrate s k.toNat = true → (s.demand k.toNat).mem = (s.putWrec k.toNat .migrating r.refetches).mem ∧
        ∃ now, (k.toNat, now) ∈ (s.demand k.toNat).migs) ∧
      (canMigrate s k.toNat = false → s.demand k.toNat = (s.putWrec k.toNat .libLost r.refetches).error 2 0x0106 k.toNat [])) ∧
    (setHas s.dropWait k.toNat = true → readsPending s k.toNat = false → (r.state = .resident ∨ r.state = .libLost) →
      exec (.dropComplete k) s = .next { s.putWrec k.toNat .absent r.refetches with dropWait := setDel s.dropWait k.toNat }) ∧
    ((s.libPage page.toNat).state = .sealed →
      exec (.libReadError page .begins) s = .next { s with libRetry := setAdd s.libRetry page.toNat } ∧
      exec (.libReadError page .retryOk) s = .next { s with libRetryOk := min 0xFFFF (s.libRetryOk + 1), libRetry := setDel s.libRetry page.toNat } ∧
      (canRebuild s page.toNat = true → exec (.libReadError page .rebuilt) s =
        .next { s with libRebuilt := min 0xFFFF (s.libRebuilt + 1), libRetry := setDel s.libRetry page.toNat }) ∧
      (∃ t, exec (.libReadError page (.lost none)) s = .next t ∧ (t.libPage page.toNat).state = .lost ∧ t.libLost = min 0xFFFF (s.libLost + 1) ∧
        ∀ q, q ≠ page.toNat → t.libPage q = s.libPage q))

/-! KV allocator and contexts (spec/12_kv_pages_prefix.md, spec/15_contexts_timetable.md, spec/16_master_interface.md). -/

/-- R283, R417 to R419: the master's slot commands. ASSIGN gives an UNASSIGNED slot to a context with an empty page table, UNASSIGN takes back an IDLE
slot without blocks, LEAVE joins the pending transaction, EVICTABLE marks a PAUSED best-effort slot, EDIT writes one entry. -/
def Obligations.KvSlotCommands : Prop :=
  ∀ (n : SlotId) (x : CtxId) (on : Bool) (s : State), s.up = true → commandable s = true → allocatorIn s = true → s.kvBusy = false →
    let done (op : Nat) (t : State) : Prop := t.kvResult = false ∧ t.kvOp = op ∧ t.kvSlot = n ∧ t.intr = s.intr ||| 4 ∧ t.kvTrans = s.kvTrans
    (assignOk s n x = true →
      ∃ t, exec (.kvAssign n x) s = .next t ∧ done 1 t ∧
        t.slot n = { Slot.reset with state := .idle, ctx := x, cap := s.kvArg1.toNat % 2 ^ 15, pt := s.kvArg0 } ∧
        (∀ m, m ≠ n → t.slot m = s.slot m) ∧
        t.mem = memDrop s.mem s.kvArg0 (s.kvArg0 + 8 * (s.kvArg1.toNat % 2 ^ 15) * ((s.pool (s.kvCtx x).pool).ns + 1))) ∧
    ((s.slot n).state = .idle → heldBlocks s n = [] →
      ∃ t, exec (.kvUnassign n) s = .next t ∧ done 2 t ∧ t.slot n = Slot.reset ∧ (∀ m, m ≠ n → t.slot m = s.slot m) ∧ t.mem = s.mem) ∧
    ((s.slot n).state ≠ .unassigned →
      ∃ t, exec (.kvLeave n) s = .next t ∧ t.kvResult = false ∧ t.kvOp = 3 ∧ t.slots = s.slots ∧ t.mem = s.mem ∧
        t.kvTrans = s.kvTrans.map (supersede (leaveReq n (s.slot n).ctx)) ++ [leaveReq n (s.slot n).ctx]) ∧
    (∃ t, exec (.kvEvictable n on) s = .next t ∧ done 4 t ∧ t.mem = s.mem ∧
        t.slot n = (if (s.slot n).state = .paused ∧ isLc s (s.slot n).ctx = false then { s.slot n with evictable := on } else s.slot n) ∧
        ∀ m, m ≠ n → t.slot m = s.slot m) ∧
    (let e := masterEdit s n
     (s.slot n).state ≠ .unassigned → editOk s e = true → memWf s.mem = true →
      (editFree s e = true ∨ passNow (s.slot n) true = true →
        ∃ t, exec (.kvEdit n) s = .next t ∧ done 6 t ∧ memLoad t.mem (entryAddr s n e.stream e.block) 8 = s.kvArg2.toNat ∧
          (∀ b, Outside b (entryAddr s n e.stream e.block, 8) → memRead t.mem b = memRead s.mem b) ∧ t.slots = s.slots) ∧
      (editFree s e = false → passNow (s.slot n) true = false →
        ∃ t, exec (.kvEdit n) s = .next t ∧ t.kvBusy = true ∧ t.kvEdit = some (e, BitVec.ofNat 64 (6 + 16 * n.toNat)) ∧ t.mem = s.mem ∧
          (t.slot n).waiting = (s.slot n).waiting ++ [⟨none, true⟩]))

/-- R275, R283, R289, R294, R295, R304, R416, R418, R419: COMMIT closes the pending transaction and raises the batch step; with no reader on what it
changes the commit is applied and BUSY falls, otherwise COMMIT_RESUME applies it later, and changes nothing before. FLUSH frees the
CACHED sets of a pool that no context names, and is refused for another. EN opens a pool whose fields meet its rules and closes one that
no context names and that holds no set; any other change of it keeps the register and records a notice; POOL_READY makes an open pool
ready. -/
def Obligations.KvBatchAndPools : Prop :=
  ∀ (p : BitVec 4) (n : SlotId) (v : Word) (ts : List KvReq) (s : State), s.up = true → allocatorIn s = true →
    let applied (r : KvRun) : State :=
      let w := r.results.foldl State.writeResult r.st
      State.teardownsCommitted (State.count { w with kvCommitting := none, kvBusy := false, intr := w.intr ||| 4 } 0x510 1)
    let named := ∃ x, (s.kvCtx x).pool = p ∧ namesPool s x = true
    let kept : Host.Outcome State Fault Refusal := .next (s.notice 2 0x0001 (0x0901038 + 64 * p.toNat) (leBytes 8 v.toNat))
    (commandable s = true → s.kvBusy = false →
      let a := s.readPoison
      let u := State.rollCards { a with
        kvStep := a.kvStep + 1, kvBoundary := a.bell, kvOp := 5, kvSlot := 0, kvResult := false,
        kvBusy := true, kvCommitting := some a.kvTrans, kvTrans := [] }
      ((commitRun u a.kvTrans).hot.any (fun m => decide (0 < (u.slot m).marks)) = true → exec .kvCommit s = .next u) ∧
      ((∀ m ∈ (commitRun u a.kvTrans).hot, (u.slot m).marks = 0) → exec .kvCommit s = .next (applied (commitRun u a.kvTrans)) ∧
        (applied (commitRun u a.kvTrans)).kvBusy = false ∧ (applied (commitRun u a.kvTrans)).kvCommitting = none) ∧
      (s.memPoison = [] → s.kvTrans = [] → s.ctxs = [] →
        exec .kvCommit s = .next { s with
          kvStep := s.kvStep + 1, kvBoundary := s.bell, kvOp := 5, kvSlot := 0, kvResult := false, kvCommitting := none, kvTrans := [],
          kvBusy := false, intr := s.intr ||| 4, perf := mapSet s.perf 0x510 (((mapGet s.perf 0x510).getD 0 + 1) % 2 ^ 64) })) ∧
    (s.kvCommitting = none → exec .commitResume s = .next s) ∧
    (s.kvCommitting = some ts →
      ((commitRun s ts).hot.any (fun m => decide (0 < (s.slot m).marks)) = true → exec .commitResume s = .next s) ∧
      ((∀ m ∈ (commitRun s ts).hot, (s.slot m).marks = 0) → exec .commitResume s = .next (applied (commitRun s ts)))) ∧
    (commandable s = true → s.kvBusy = false →
      (16 ≤ n.toNat → exec (.kvFlush n) s = .next (s.notice 2 0x0001 0x0900000 (leBytes 8 (7 + 16 * n.toNat)))) ∧
      (¬ named → ∃ t, exec (.kvFlush (p.setWidth 14)) s = .next t ∧ t.kvResult = false ∧ t.kvOp = 7 ∧ t.intr = s.intr ||| 4 ∧ t.slots = s.slots ∧
        t.mem = ((setsIn s p .cached).foldl (fun s k => (s.clearWay p k).putSetRec (s.pool p) k setFree) s).mem) ∧
      (named → ∃ t, exec (.kvFlush (p.setWidth 14)) s = .next t ∧ t.kvResult = true ∧ t.kvOp = 7 ∧ t.slots = s.slots ∧ t.pools = s.pools)) ∧
    (v.toNat.testBit 0 = true → (s.pool p).en = false →
      (poolOk s p = true → ∃ t, exec (.kvPoolEnable p v) s = .next t ∧ t.pool p = { s.pool p with en := true, ready := false } ∧
        ∀ q, q ≠ p → t.pool q = s.pool q) ∧
      (poolOk s p = false → exec (.kvPoolEnable p v) s = kept)) ∧
    (v.toNat.testBit 0 = false → (s.pool p).en = true →
      (¬ named → freeCount s p + retiredCount s p = (s.pool p).sets →
        exec (.kvPoolEnable p v) s = .next (s.setPool p { s.pool p with en := false, ready := false })) ∧
      (named ∨ freeCount s p + retiredCount s p ≠ (s.pool p).sets → exec (.kvPoolEnable p v) s = kept)) ∧
    (v.toNat.testBit 0 = (s.pool p).en → exec (.kvPoolEnable p v) s = .next s) ∧
    ((s.pool p).en = true → exec (.poolReady p) s = .next (s.setPool p { s.pool p with ready := true })) ∧
    ((s.pool p).en = false → exec (.poolReady p) s = .next s)

/-- R195, R377, R416: the context commands. START makes an OFF context ACTIVE with the fields of its record and an open Report Card, REFRESH reads
the master's fields again, STOP drains, KILL tears down with the cause KILLED, and records a TALLY fault where a tally of the context
never closed; a command whose checks fail changes no context and shows RESULT 1; one written while BUSY is ignored with a notice. -/
def Obligations.ContextCommands : Prop :=
  ∀ (x : CtxId) (s : State), s.up = true → commandable s = true →
    let y := s.ctx x
    let others (t : State) : Prop := ∀ z, z ≠ x → t.ctx z = s.ctx z
    let done (op : Nat) (t : State) : Prop := t.ttResult = false ∧ t.ttOp = op ∧ t.ttCtx = x
    let frame (t : State) : Prop := t.intr = s.intr ||| 2 ∧ t.log = s.log ∧
      (memWf s.mem = true → ∀ b, Outside b (ctxRecord s x + 80, 14) → memRead t.mem b = memRead s.mem b)
    let refused (op : Nat) (i : Instr) : Prop := ∃ t, exec i s = .next t ∧ t.ttResult = true ∧ t.ttOp = op ∧ t.ttCtx = x ∧ t.ctxs = s.ctxs
    let ignored (op : Nat) (i : Instr) : Prop := exec i s = .next (s.notice 2 0x0002 0x0800008 (leBytes 8 (op + 8 * x.toNat)))
    (s.ttBusy = true → ignored 1 (.ctxStart x) ∧ ignored 2 (.ctxRefresh x) ∧ ignored 3 (.ctxStop x) ∧ ignored 4 (.ctxKill x)) ∧
    (s.ttBusy = false →
      (y.state = .off → startOk s x (readStart s x Ctx.reset) = true →
        ∃ t, exec (.ctxStart x) s = .next t ∧ done 1 t ∧ others t ∧ frame t ∧
          t.ctx x = { readStart s x Ctx.reset with state := .active, card := some { Card.reset with step := s.kvStep, tOpen := s.kvBoundary } }) ∧
      (y.state ≠ .off ∨ startOk s x (readStart s x Ctx.reset) = false → refused 1 (.ctxStart x)) ∧
      (y.state = .active ∨ y.state = .draining → refreshOk s x (readRefresh s x y) = true →
        ∃ t, exec (.ctxRefresh x) s = .next t ∧ done 2 t ∧ others t ∧ frame t ∧ t.ctx x = readRefresh s x y ∧ t.mem = s.mem) ∧
      (y.state = .off ∨ y.state = .teardown ∨ refreshOk s x (readRefresh s x y) = false → refused 2 (.ctxRefresh x)) ∧
      (y.state = .active →
        (∃ t, exec (.ctxStop x) s = .next t ∧ done 3 t ∧ others t ∧ (t.ctx x).state = .draining) ∧
        (y.threads ≠ 0 → ∃ t, exec (.ctxStop x) s = .next t ∧ frame t ∧ t.ctx x = { y with state := .draining }) ∧
        (y.threads = 0 → y.closing = false → y.old = none →
          ∃ t, exec (.ctxStop x) s = .next t ∧ frame t ∧ t.ctx x = { y with state := .draining, closing := true })) ∧
      (y.state ≠ .active → refused 3 (.ctxStop x)) ∧
      (y.state = .active ∨ y.state = .draining →
        ∃ t, exec (.ctxKill x) s = .next t ∧ done 4 t ∧ others t ∧ (t.ctx x).state = .teardown ∧
          (t.ctx x).teardown = some ⟨0x80, s.bell, none, 0, 0, false, false⟩ ∧ t.log = (s.tallyFault x).log ∧
          ((∀ c, tallyHeld s x c = none) → frame t)) ∧
      (y.state = .off ∨ y.state = .teardown → refused 4 (.ctxKill x)))

/-- R384, R388 to R396: the Timetable places the next entry of a context on a free seat; a slice that has run its length begins anew or ends; a core
switch saves the thread that ran, or starts one on an idle core; an arrival held at the link enters its queue when it has room. -/
def Obligations.TimetableEvents : Prop :=
  ∀ (c : CoreId) (i j : BitVec 2) (x : CtxId) (a : Arrival) (s : State), s.up = true →
    let k := s.core c
    (s.power.entering = none → (scanner s).isSome = true →
      exec .timetableScan s =
        let u := allCtxs.foldl (fun t z => if (t.ctx z).state = .active then (t.rangeNotice z).modCtx z (fun y => { y with seen := prodOf t z }) else t) s
        let v := u.placeRounds 4096 (allCtxs.filter (isLc u))
        .next (v.placeRounds 4096 (allCtxs.filter (fun x => !isLc v x)))) ∧
    (canHold s c = true → k.sliceEnd ≤ s.bell → k.seat = some i →
      (chooseSeat s k = some i → exec (.sliceEnd c) s = .next ((s.beginSlice c i).preempt c)) ∧
      (chooseSeat s k = some j → j ≠ i → ∃ t, exec (.sliceEnd c) s = .next t ∧ (t.core c).stop = some .slice ∧ (t.core c).late = 0 ∧
        (t.core c).th = k.th ∧ (t.core c).seat = some i ∧ t.mem = s.mem)) ∧
    (k.inService = true → k.seat = none → s.power.entering = none → k.leave = .stay → chooseSeat s k = some i →
      exec (.coreSwitch c) s = .next (s.switchIn c)) ∧
    (∀ t : State, ((t.core c).leave = .leaving → t.switchOver c = t.coreLeaves c) ∧ ((t.core c).leave ≠ .leaving → t.switchOver c = t.switchIn c)) ∧
    (k.inService = true → k.seat = some i → k.drained = true →
      (k.stop = some .yield ∨ k.stop = some .preempt → exec (.coreSwitch c) s = .next ((s.saveSeat c).switchOver c)) ∧
      (k.stop = some .offline → exec (.coreSwitch c) s = .next ((s.saveSeat c).coreLeaves c)) ∧
      (k.stop = some .slice → k.runCtx = some x →
        let u := (s.modCtx x (fun y => { y with debtNs := min (2 ^ 32 - 1) (y.debtNs + k.late) })).syncCtx x
        exec (.coreSwitch c) s = .next (((u.modCard x (fun r => { r with overrunNs := r.overrunNs + k.late })).saveSeat c).switchOver c))) ∧
    (s.heldIn.find? (fun b => (sendAddrOf b.pkt.addr).dctx = x && coreDie (sendAddrOf b.pkt.addr).core = coreDie c) = some a →
      (s.ctx x).arrivalRoom (coreDie c) a = true → resident s (sendAddrOf a.pkt.addr).core x = false →
      ∃ t, exec (.arrivalQueueRoom x (coreDie c)) s = .next t ∧ t.heldIn = s.heldIn.erase a ∧
        (t.ctx x).arrivals (coreDie c) = (s.ctx x).arrivals (coreDie c) ++ [a])

/-- R112, R120, R377, R381, R389, R392, R395, R396: a placed entry takes a seat and reads PLACED; a thread that starts has its pc and arguments
and every other register at reset; a slice takes its context's class and peer grants, and ends after its length less the debt charged; a
switch fills what has landed, keeps the thread in its save frame, leaves nothing of it in the core and poisons its scratchpad. -/
def Obligations.ThreadPlacement : Prop :=
  ∀ (c : CoreId) (i : BitVec 2) (x : Seat) (s : State),
    let k := s.core c
    let y := s.ctx x.ctx
    (startThread x).pc = x.pc ∧ (startThread x).s 1 = x.args.getD 0 0 ∧ (startThread x).s 4 = x.args.getD 3 0 ∧
    (∀ r : BitVec 5, 4 < r.toNat → (startThread x).s r = 0) ∧ (startThread x).flags = 0 ∧ (startThread x).preds = 1 ∧
    (∀ (z : CtxId) (d : CoreId) (f : BitVec 2), (s.ctx z).state = .active → s.memPoison = [] →
      let w := s.ctx z
      let a := entryAt w w.cons
      let aff := s.fetch (a + 40) 8
      let set : Word := if aff = 0 then w.cores else BitVec.ofNat 64 aff &&& w.cores
      let due := (prodOf s z - w.cons).toNat
      due ≠ 0 → due ≤ 2 ^ w.ltLog2 → set ≠ 0 → s.fetch (a + 48) 8 ≤ s.bell → w.threads < w.maxt → chooseCore s set = some d →
      freeSeat (s.core d) = some f →
      ∃ t, s.placeNext z = some t ∧ (t.ctx z).cons = w.cons + 1 ∧ (t.ctx z).threads = w.threads + 1 ∧
        ∃ y, (t.core d).seatAt f = some y ∧ y.ctx = z ∧ y.entry = w.cons ∧ y.pc = BitVec.ofNat 64 (s.fetch a 8) ∧ y.fresh = true ∧ y.lc = isLc s z) ∧
    (k.seatAt i = some x → y.arrivals (coreDie c) = [] →
      let t := s.beginSlice c i
      let charge := min y.debtNs (sliceOf y - 25000)
      (t.core c).seat = some i ∧ (t.core c).sliceEnd = s.bell + (sliceOf y - charge) ∧ (t.ctx x.ctx).debtNs = y.debtNs - charge ∧
      (t.core c).stop = none ∧ (t.core c).th = k.th ∧ (t.core c).seatAt i = some { x with lc := isLc s x.ctx, peers := y.peers }) ∧
    (k.seat = some i → k.running = some x →
      let u := (s.fillLanded c).core c
      (s.saveSeat c).core c = u.setSeat i (some { x with saved := some ⟨u.th, u.queues, u.pad, u.clean⟩ }) ∧
      ((∀ l ∈ s.incoming, l.core = c → l.last = none) → u = k)) ∧
    k.vacate.clean = [] ∧ k.vacate.seat = none ∧ k.vacate.seats = k.seats ∧ k.vacate.th = Thread.reset ∧ ∀ e, k.vacate.queue e = []

/-- R385, R395, R397, R399, R439, R414: teardown clean-up frees the seats of its context and abandons its entries and arrivals; a boundary's Report
Cards are written to their rings; the final card closes a context; a quiet module goes Idle; OFFLINE takes an idle core out of service, lets
the thread of another end its slice first, and its clearing lets the core return. -/
def Obligations.ContextEndsAndCores : Prop :=
  ∀ (x : CtxId) (c : CoreId) (td : Teardown) (r : Card) (t0 : Nat) (s : State), s.up = true → s.life = .running →
    let k := s.core c
    let y := s.ctx x
    (y.teardown = some td → td.cleaned = false → allCores.all (coreQuiet s x) = true →
      ∃ t g, exec (.teardownCleanup x) s = .next t ∧ (t.ctx x).teardown = some { td with cleaned := true, grants := td.grants ||| g } ∧
        (t.ctx x).threads = 0 ∧ (t.ctx x).arrivals0 = [] ∧ (t.ctx x).arrivals1 = [] ∧ (∀ a ∈ t.asked, a.ctx ≠ x) ∧
        (∀ a ∈ t.heldIn, (sendAddrOf a.pkt.addr).dctx ≠ x) ∧ ∀ l ∈ t.incoming, l.ctx ≠ x) ∧
    (y.state = .active → y.old = some r → ringFull s x = false → (∀ z, z ≠ x → (s.ctx z).state = .off) →
      ∃ t, exec .reportCardClose s = .next t ∧ (t.ctx x).old = none ∧ (t.ctx x).rcProd = y.rcProd + 1 ∧ (t.ctx x).card = y.card) ∧
    (y.closing = true → y.old = none → y.card = some r → y.teardown = none → ringFull s x = false →
      ∃ t, exec (.finalReportCard x) s = .next t ∧ (t.ctx x).state = .off ∧ (t.ctx x).card = none ∧ (t.ctx x).closing = false ∧
        (t.ctx x).rcProd = y.rcProd + 1 ∧ ∀ z, z ≠ x → t.ctx z = s.ctx z) ∧
    (s.pstate = .active → s.power.idleSince = some t0 → t0 + 10000 ≤ s.bell → allQuiet s = true →
      exec .idleEntry s = .next { s with pstate := .idle }) ∧
    (dieReached s (coreDie c) = true →
      (k.inService = true → k.leave = .stay → k.seat = none →
        ∃ t, exec (.coreCtrlOffline c) s = .next t ∧ (t.core c).offline = true ∧ (t.core c).inService = false ∧ (t.core c).leave = .stay ∧
          dieEpoch t (coreDie c) = dieEpoch s (coreDie c) + 1) ∧
      (k.inService = true → k.leave = .stay → k.seat ≠ none →
        ∃ t, exec (.coreCtrlOffline c) s = .next t ∧ (t.core c).offline = true ∧ (t.core c).inService = true ∧ (t.core c).leave = .leaving ∧
          (k.stop = none → (t.core c).stop = some .offline) ∧ (k.stop ≠ none → (t.core c).stop = k.stop ∧ (t.core c).late = k.late)) ∧
      (k.inService = false → k.leave = .stay →
        exec (.coreCtrlReturn c) s = .next (s.setCore c { k with offline := false, leave := .returning })))

/-- R139 to R142, R234, R368: a unit with an internal error leaves service and its die's epoch rises; the return sequence clears a core, gives it the
die's epoch and puts it back. -/
def Obligations.UnitsLeaveAndReturn : Prop :=
  ∀ (c : CoreId) (die : Bool) (s : State), s.up = true →
    let k := s.core c
    (s.unitIn (.timetable die) = true →
      ∃ t, exec (.unitInternalError (.timetable die)) s = .next t ∧ t.unitIn (.timetable die) = false ∧ dieEpoch t die = dieEpoch s die + 1 ∧
        dieEpoch t (!die) = dieEpoch s (!die) ∧ scanner t ≠ some die) ∧
    (k.inService = true → k.running = none →
      ∃ t, exec (.unitInternalError (.core c)) s = .next t ∧ (t.core c).inService = false ∧ (t.core c).leave = .returning ∧ (t.core c).clean = [] ∧
        dieEpoch t (coreDie c) = dieEpoch s (coreDie c) + 1) ∧
    (∀ y, k.inService = true → k.running = some y → (s.ctx y.ctx).state = .active →
      ∃ t, exec (.unitInternalError (.core c)) s = .next t ∧ (t.core c).inService = false ∧ (t.ctx y.ctx).state = .teardown) ∧
    (k.inService = false → k.offline = false →
      ∃ t, exec (.returnSequence (.core c)) s = .next t ∧ (t.core c).inService = true ∧ (t.core c).epoch = dieEpoch s (coreDie c) ∧
        (t.core c).clean = [] ∧ (t.core c).th.flags = 0 ∧ (t.core c).th.openTally = 0 ∧ (∀ r, (t.core c).th.tok r = 0) ∧
        (∀ e, (t.core c).queue e = []) ∧ (k.seat = none → ∀ b, b ≠ c → t.core b = s.core b))

/-! The block as a whole (spec/00_scope.md, spec/16_master_interface.md). -/

/-- The step of the block: a command at the front of the queue runs on the state with the queue's rest. On an empty queue one bell nanosecond
passes (the model's choice, log 2): nothing while the clocks stand, the bell alone while the module does not run. -/
def Obligations.StepTakesFrontCommand : Prop :=
  ∀ (i : Instr) (rest : List Instr) (s : State),
    (s.pending = i :: rest → step s = exec i { s with pending := rest }) ∧
    (s.pending = [] → step s = .next s.tick ∧
      (bellRuns s = false → step s = .next s) ∧
      (bellRuns s = true → s.up = false → step s = .next { s with bell := s.bell + 1 }))

/-- R10, R412, and the reset columns of the register tables: what every offset of the register window reads as at reset, the threads, the
watchdogs, and the empty queues. A register whose table gives no number (the straps, SEC_STATUS, SEC_FLOOR, STEPCNT) reads the
value of log 4; the alarm levels are the defaults of Table 18.6. -/
def Obligations.RegistersAtReset : Prop :=
  let s := State.reset
  (∀ off : Nat, (windowReg s off).getD 0 = match off with
    | 0x0000000 => 0xD016 + 0x0EB1 * 2 ^ 16
    | 0x0000008 => devRev
    | 0x0100010 => 1
    | 0x0100018 => 0x5AA + 0x5AA * 2 ^ 16
    | 0x0100020 => 0x960
    | 0x0100050 => 7
    | 0x0300018 => 0x1AAAF
    | 0x0500008 => 0xFFF
    | off => if 0x0501000 ≤ off ∧ off < 0x0502000 ∧ off % 8 = 0 then (if off = 0x0501000 then 0x0707070707070706 else 0x0707070707070707) else 0) ∧
  Legal s ∧ s.life = .inReset ∧ s.pending = [] ∧ s.net = [] ∧ (∀ a, memRead s.mem a = 0) ∧
  (∀ c : CoreId, (s.core c).inService = false ∧ (∀ w, setHas (s.core c).clean w = false) ∧ (∀ e, (s.core c).queue e = []) ∧
    ∀ i, (s.core c).seatAt i = none) ∧
  (∀ r : BitVec 5, Thread.reset.s r = 0) ∧ (∀ p : BitVec 3, Thread.reset.p p = decide (p = 0)) ∧ (∀ n, Thread.reset.td n = 0) ∧
  (∀ n, Thread.reset.anc n = 0) ∧ (∀ n, Thread.reset.tok n = 0) ∧ Thread.reset.flags = 0 ∧ Thread.reset.seed = 0 ∧ Thread.reset.torigin = 0 ∧
  (∀ n, Thread.reset.circ n = Circ.reset) ∧
  (∀ cl, s.wdt cl = ⟨2000, true, 0, 0⟩)

/-- The headline invariant: from every legal state, whatever the command, a step that answers a state answers a legal one: every byte
memory keeps its canonical form and every alarm level stays 1, 2 or 3 (Table 18.6, R461). -/
def Obligations.StepKeepsLegal : Prop :=
  ∀ s t : State, Legal s → step s = .next t → Legal t


/-- R137, R463, R487: no command faults the model, and of all commands only a private instruction in Evbin test mode is refused; outside that
mode it trips the PROBE sensor. -/
def Obligations.OnlyPrivateTestStops : Prop :=
  ∀ (i : Instr) (code : BitVec 32) (s : State),
    ((∀ b, i ≠ .privateInstruction (.load b)) → ∃ t, exec i s = .next t) ∧
    (s.life = .off → ∀ ev, exec (.privateInstruction ev) s = .next s) ∧
    (s.life ≠ .off →
      (s.tap.evbin = true → exec (.privateInstruction (.load code)) s = .refused .privateTest ∧
        exec (.privateInstruction .leaveReset) s = .next s) ∧
      (s.tap.evbin = false →
        (∃ t, exec (.privateInstruction (.load code)) s = .next t ∧ t.sec.sensors.getLsbD 8 = true) ∧
        (s.resetN = false → exec (.privateInstruction .leaveReset) s = .next s) ∧
        (s.resetN = true → ∃ t, exec (.privateInstruction .leaveReset) s = .next t ∧ t.sec.sensors.getLsbD 8 = true)))

/-! Routes, ports and roll call (spec/14_quaz_links_bell.md). -/

/-- R363: FILL_DEFAULT writes the default entry of every chip. From every chip of the torus the default entries lead to the destination,
X first, then Y, then Z, by the shorter way of each ring, by the + way where both are equal; the own chip's entry is LOCAL. Both
class bits are 0 exactly while this hop or a later one of the ring goes over its wrap link, and DETOUR is 0. -/
def Obligations.DefaultRoutesDeliver : Prop :=
  (∀ s : State, s.up = true → s.stuck = [] → ∃ t, exec .fillDefault s = .next t ∧ t = { s with routes := t.routes } ∧
      ∀ chip, routeOf t chip = defaultEntry s.chipId s.dims chip) ∧
  ∀ (own dims dst : BitVec 12), InTorus dims own → InTorus dims dst →
    (defaultEntry own dims own = 6) ∧
    (hopsTo dims dst (ringHops dims own dst 0 + ringHops dims own dst 1 + ringHops dims own dst 2) own = dst) ∧
    (own ≠ dst →
      let e := defaultEntry own dims dst
      let d := (e.toNat % 8) / 2
      let next := nextChip dims own e
      d < 3 ∧ coordinate own d ≠ coordinate dst d ∧ (∀ a, a < d → coordinate own a = coordinate dst a) ∧
      ringHops dims own dst d = ringHops dims next dst d + 1 ∧ ringHops dims own dst d ≤ dimension dims d / 2 ∧
      (2 * ringHops dims own dst d = dimension dims d → e.toNat % 2 = 0) ∧
      e.toNat / 2 ^ 5 = 0 ∧ e.getLsbD 3 = e.getLsbD 4 ∧ (CrossesWrap dims own e = true → e.getLsbD 3 = false ∧
        (coordinate next d ≠ coordinate dst d → (defaultEntry next dims dst).getLsbD 3 = true)) ∧
      (CrossesWrap dims own e = false →
        if coordinate next d = coordinate dst d then e.getLsbD 3 = true else (defaultEntry next dims dst).getLsbD 3 = e.getLsbD 3))

/-- R362 to R365, R368, Tables 14.9 and 14.10: FILL_DEFAULT writes the default entry of every chip; REROUTE looks up again a packet queued for
a port that is not UP; a packet leaves by its entry's port with one hop more and its VC; a packet with DETOUR set that no entry forwards
is answered UNROUTABLE, and one with DETOUR clear waits for a route (the model's reading, log 70), as an UNROUTABLE answer does. -/
def Obligations.RoutingCommands : Prop :=
  ∀ (p : PortId) (x : Queued) (pkt : Packet) (via : Option PortId) (s : State),
    let e := routeOf s pkt.dst
    let back := routeOf s pkt.src
    (s.up = true → s.stuck = [] → ∃ t, exec .fillDefault s = .next t ∧ t = { s with routes := t.routes } ∧
      ∀ chip, routeOf t chip = defaultEntry s.chipId s.dims chip) ∧
    (s.up = true → s.stuck = [] → p.toNat < 6 → (s.port p).state ≠ .up → (s.port p).queue = [x] →
      (∀ q, q ≠ p → (s.port q).state ≠ .up → (s.port q).queue = []) →
      let f := routeOf s x.pkt.dst
      let r : PortId := f.setWidth 3
      noRoute x.pkt f = false → r.toNat < 6 → r ≠ p →
      ∃ t, exec .reroute s = .next t ∧ (t.port p).queue = [] ∧ (t.port r).queue = (s.port r).queue ++ [⟨x.via, x.pkt, hopPacket x.pkt f⟩] ∧
        t.inbox = s.inbox) ∧
    (noRoute pkt e = false → e.toNat % 8 < 6 → s.route pkt via = s.modPort (e.setWidth 3) (fun q => q.enqueue ⟨via, pkt, hopPacket pkt e⟩) ∧
      ∀ q : Port, (q.enqueue ⟨via, pkt, hopPacket pkt e⟩).queue = q.queue ++ [⟨via, pkt, hopPacket pkt e⟩]) ∧
    (noRoute pkt e = false → e.toNat % 8 = 6 → s.route pkt via = { s with inbox := s.inbox ++ [(via, { pkt with hops := pkt.hops + 1 })] }) ∧
    (noRoute pkt e = true → pkt.type = tyUnroutable ∨ pkt.detour = false → s.route pkt via = { s with stuck := s.stuck ++ [(via, pkt)] }) ∧
    (noRoute pkt e = true → pkt.type ≠ tyUnroutable → pkt.detour = true →
      let u := unroutableOf s pkt
      (back.toNat % 8 = 6 → (s.route pkt via).inbox = s.inbox ++ [(none, { u with hops := 1 })]) ∧
      (back.toNat % 8 < 6 → s.route pkt via = (s.owe via pkt).modPort (back.setWidth 3) (fun q => q.enqueue ⟨none, u, hopPacket u back⟩)) ∧
      (back.toNat % 8 = 7 → s.route pkt via = { s.owe via pkt with stuck := s.stuck ++ [(none, u)] }) ∧
      u.dst = pkt.src ∧ u.src = s.chipId ∧ u.tag = pkt.tag ∧ u.type = tyUnroutable ∧ u.sub = 3) ∧
    (noRoute pkt e = true ↔ e.toNat % 8 = 7 ∨ (pkt.detour = true ∧ e.toNat % 8 ≠ 6 ∧ (e.getLsbD 5 = true ∨ pkt.hops = 48))) ∧
    (hopPacket pkt e).hops = pkt.hops + 1 ∧ ((hopPacket pkt e).detour = true ↔ pkt.detour = true ∨ e.getLsbD 5 = true) ∧
    ((hopPacket pkt e).vc.toNat / 2 = if 8 ≤ pkt.type.toNat then 1 else 0) ∧
    (pkt.detour = true → (hopPacket pkt e).vc.toNat % 2 = 1)

/-- R344, R357, R366 to R368, R442: what the master's write of a port's control register, the lanes, and the limits of roll call make of a
port; no other port changes. A port whose partner sleeps is DOWN and trains when its lanes lock again or RETRAIN is written; a FAILED
port that leaves service stays FAILED. -/
def Obligations.PortEvents : Prop :=
  ∀ (p : PortId) (v : Word) (lanes : BitVec 5) (s : State), s.up = true → p.toNat < 6 →
    let q := s.port p
    let others (t : State) : Prop := ∀ r, r ≠ p → t.port r = s.port r
    let failed (o : Host.Outcome State Fault Refusal) (reason n : Nat) : Prop :=
      ∃ t, o = .next t ∧ (t.port p) = { q with state := .failed } ∧ others t ∧
        t.log = (({ s with ports := t.ports } : State).error (p.getLsbD 0).toNat 0x010D p.toNat (leBytes 1 reason ++ leBytes 1 n ++ leBytes 2 0)).log
    let again (q : Port) : Port := { q.train true with lostLock := true, lostAt := s.bell }
    let lost (q : Port) : Port := if q.sleeping = none then { again q with retrains := min 0xFF (q.retrains + 1) } else { q with state := .down }
    let locks (f : Port → Prop) : Prop := ∃ t, exec (.laneTraining p lanes) s = .next t ∧ others t ∧
      (t.port p).state = .rollCall ∧ (t.port p).lanes = lanes.toNat ∧ (q.firstProp = false → (t.port p).prop = q.prop + 1) ∧
      (t.port p).firstProp = false ∧ (t.port p).sent.length = q.sent.length + 1 ∧ f (t.port p)
    (v.toNat.testBit 0 = false → ∃ t, exec (.retrain p v) s = .next t ∧ (t.port p).state = .disabled ∧ (t.port p).replay = [] ∧
      (t.port p).queue = q.queue ∧ (t.port p).en = false ∧ others t) ∧
    (v.toNat.testBit 0 = true → q.inService = true →
      (q.state = .disabled ∨ (q.state = .down ∧ q.sleeping = none) → exec (.retrain p v) s = .next (s.setPort p ((q.putCtrl v).train false))) ∧
      (q.state = .down → q.sleeping ≠ none →
        exec (.retrain p v) s = .next (s.setPort p (if v.toNat.testBit 1 = false then q.putCtrl v
          else if q.sleeping = some 3 then again (q.putCtrl v) else (q.putCtrl v).train false))) ∧
      (v.toNat.testBit 1 = true → q.state = .failed ∨ q.state = .training ∨ q.state = .rollCall →
        exec (.retrain p v) s = .next (s.setPort p ((q.putCtrl v).train q.resume))) ∧
      (v.toNat.testBit 1 = true → q.state = .up → ∃ t, exec (.retrain p v) s = .next t ∧ others t ∧ t.port p = lost (q.putCtrl v)) ∧
      (v.toNat.testBit 1 = false → q.state ≠ .disabled → q.state ≠ .down → exec (.retrain p v) s = .next (s.setPort p (q.putCtrl v)))) ∧
    (v.toNat.testBit 0 = true → q.inService = false →
      exec (.retrain p v) s = .next (s.setPort p (if v.toNat.testBit 1 = true then { q.putCtrl v with state := .down } else q.putCtrl v))) ∧
    (q.inService = true → q.en = true →
      (lanes = 16 ∨ (lanes = 8 ∧ q.halfOk = true) →
        (q.state = .training → locks (fun r => r.replay = q.replay)) ∧
        (q.state = .down → q.sleeping ≠ none → locks (fun r => r.lostLock = true ∧ r.lostAt = s.bell ∧
          r.resume = decide (q.sleeping = some 3) ∧ (q.sleeping = some 3 → r.replay = q.replay)))) ∧
      (q.state = .training → lanes ≠ 16 → (lanes = 8 → q.halfOk = false) → failed (exec (.laneTraining p lanes) s) 1 lanes.toNat)) ∧
    (q.state = .up → ∃ t, exec (.laneLockLost p) s = .next t ∧ others t ∧ t.port p = lost q) ∧
    (q.state = .rollCall → exec (.laneLockLost p) s = .next (s.setPort p (q.train q.resume))) ∧
    (q.lostLock = true → q.state = .training ∨ q.state = .rollCall ∨ q.state = .failed → q.lostAt + 100000000 ≤ s.bell → q.inService = true →
      ∃ t, exec (.portOutTimeout p) s = .next t ∧ (∀ r, r ≠ p → t.port r = { s.port r with epoch := (t.port r).epoch }) ∧
        (t.port p).inService = false ∧ (t.port p).state = (if q.state = .failed then .failed else .down) ∧ (t.port p).replay = [] ∧
        (t.port p).queue = q.queue ∧ ∀ a ∈ t.asked, ∃ b ∈ s.asked, a.tag = b.tag ∧ (a.lost = true ↔ b.lost = true ∨ b.tag ∈ unackedTags q)) ∧
    (q.lostLock = false ∨ s.bell < q.lostAt + 100000000 → exec (.portOutTimeout p) s = .next s) ∧
    (q.state = .rollCall → q.mismatch = false →
      (exec (.messageRepeat p) s = .next (if q.helloSeen = false then s.sendHello p
        else if q.exchanges < 64 then s.sendTimed p msgMeasure q.exchanges else s.sendReady p)) ∧
      (s.chipValid = true → failed (exec (.rollCallTimeout p) s)
        (if q.helloSeen = false then 2 else if q.exchanges < 64 then 3 else 4) q.lanes)) ∧
    (q.state = .rollCall → q.mismatch = true ∨ s.chipValid = false → exec (.rollCallTimeout p) s = .next s) ∧
    (q.state = .training → q.firstProp = false → failed (exec (.rollCallTimeout p) s) 1 q.lanes) ∧
    (q.state = .training → q.firstProp = true → exec (.rollCallTimeout p) s = .next s)

/-- R346, R347, R357 to R361, R366, R367, R448: HELLO gives the partner and the session of both proposals, or a mismatch with EXPECT or with the
installation record; each MEASURE that answers adds one round trip, the 64th gives the length or fails the port; READY of the same
session brings the port UP with the partner's windows. A CONTROL flit is one whose KIND is 2; once the session is fixed, one of
another session is discarded and counted. -/
def Obligations.RollCallMessages : Prop :=
  ∀ (p : PortId) (h : BitVec 64) (msg : BitVec 1920) (at4 : Stamp) (s : State), s.up = true → (s.port p).state = .rollCall → h.toNat % 4 = 2 →
    let q := s.port p
    let f := msgField msg
    let others (t : State) : Prop := ∀ r, r ≠ p → t.port r = s.port r
    let stale : State := s.setPort p { q with sessionDiscards := min 0xFF (q.sessionDiscards + 1) }
    (q.mismatch = false → f 0 2 = 1 → f 2 1 = 1 →
      let n : BitVec 8 := q.prop + BitVec.ofNat 8 (f 8 1)
      let wrong : Prop := (q.expectEn = true ∧ (f 4 2 ≠ q.expectChip.toNat ∨ f 3 1 ≠ q.expectPort.toNat)) ∨ rcPartnerBad s p msg = true
      let known (t : State) : Prop := (t.port p).partnerChip.toNat = f 4 2 % 4096 ∧ (t.port p).partnerPort.toNat = f 3 1 % 8 ∧
        (t.port p).partnerProp.toNat = f 8 1 ∧ (t.port p).state = .rollCall ∧ others t
      (¬ wrong → q.helloSeen = false →
        ∃ t, exec (.hello p ⟨h, msg⟩) s = .next t ∧ known t ∧ (t.port p).helloSeen = true ∧
          (t.port p).session = (if q.kept = some n then n + 1 else n) ∧ (t.port p).prop = (if q.kept = some n then q.prop + 1 else q.prop) ∧
          ((t.port p).resume = true ↔ q.resume = true ∧ (f 7 1).testBit 2 = true) ∧
          (t.port p).sent.length = q.sent.length + if q.kept = some n then 2 else 1) ∧
      (wrong → ∃ t, exec (.hello p ⟨h, msg⟩) s = .next t ∧ known t ∧ (t.port p).mismatch = true ∧ (t.port p).session = q.session)) ∧
    (q.helloSeen = true → fieldOf h 44 37 ≠ q.session.toNat →
      (f 0 2 = 2 → exec (.measure p ⟨h, msg⟩ at4) s = .next stale) ∧ (f 0 2 = 3 → exec (.ready p ⟨h, msg⟩) s = .next stale)) ∧
    (q.helloSeen = true → fieldOf h 44 37 = q.session.toNat → f 0 2 = 2 → msgStamp msg 16 ≠ 0 → q.exchanges < 64 →
      let rtt : Int := ((stamp64 at4 : Int) - msgStamp msg 16) - ((msgStamp msg 4 : Int) - msgStamp msg 32)
      let x : Int := q.rttSum + rtt - 76 * 4096
      let l : Int := (x + 2048) / 4096
      (q.exchanges < 63 → ∃ t, exec (.measure p ⟨h, msg⟩ at4) s = .next t ∧ others t ∧ (t.port p).exchanges = q.exchanges + 1 ∧
        (t.port p).rttSum = q.rttSum + rtt ∧ (t.port p).state = .rollCall ∧ (t.port p).sent.length = q.sent.length + 1) ∧
      (q.exchanges = 63 → x % 4096 ≠ 2048 → 3 ≤ l → l ≤ 1000 → ∃ t, exec (.measure p ⟨h, msg⟩ at4) s = .next t ∧ others t ∧
        (t.port p).exchanges = 64 ∧ ((t.port p).lengthDm : Int) = l ∧ (t.port p).readySent = true ∧ (t.port p).state = .rollCall) ∧
      (q.exchanges = 63 → x % 4096 ≠ 2048 → l < 3 ∨ 1000 < l → ∃ t, exec (.measure p ⟨h, msg⟩ at4) s = .next t ∧ others t ∧
        (t.port p).state = .failed)) ∧
    (q.readySent = true → fieldOf h 44 37 = q.session.toNat → f 0 2 = 3 → f 2 1 = q.session.toNat →
      (s.chipValid = false → exec (.ready p ⟨h, msg⟩) s = .next s) ∧
      (s.chipValid = true → ∃ t, exec (.ready p ⟨h, msg⟩) s = .next t ∧ ((∀ y ∈ q.queue, y.via = none) → others t) ∧ (t.port p).state = .up ∧
        (t.port p).kept = some q.session ∧ (t.port p).lostLock = false ∧
        (∀ i : Fin 4, (t.port p).window[i] = 1024 * f (4 + i.val) 1) ∧
        (q.resume = false → (t.port p).rxLast = 0xFFF ∧ (q.queue = [] → (t.port p).nextSeq = 0 ∧ (t.port p).replay = []))))

/-- R346, R347, R355: a DATA flit is accepted only in its place: then RX_LAST moves to it; a gap or a bad CRC leaves RX_LAST and asks for a
replay; another session is discarded and counted. An IDLE flit frees what its ACK covers and adds its credit, up to the window. A
whole packet for this chip is delivered. -/
def Obligations.FlitsInOrder : Prop :=
  ∀ (p : PortId) (flit : BitVec 2048) (h : Nat) (a b : List (BitVec 12 × List Byte × BitVec 15 × List (BitVec 16)))
    (e : BitVec 12 × List Byte × BitVec 15 × List (BitVec 16)) (s : State), hears s p = true →
    let q := s.port p
    let seq : BitVec 12 := BitVec.ofNat 12 (bitField h 13 2)
    (checkFlit q flit = .bad →
      exec (.dataFlit p flit) s = .next (s.setPort p ({ q with nak := true } : Port).sendIdle) ∧
      exec (.idleFlit p flit) s = .next (s.setPort p ({ q with nak := true } : Port).sendIdle)) ∧
    (checkFlit q flit = .wrongSession →
      let stale := s.setPort p { q with sessionDiscards := min 0xFF (q.sessionDiscards + 1) }
      (flitKind flit = 1 → exec (.dataFlit p flit) s = .next stale) ∧ (flitKind flit = 0 → exec (.idleFlit p flit) s = .next stale)) ∧
    (checkFlit q flit = .ok h → h.testBit 26 = false → q.sleeping = none →
      (h % 4 = 1 → seq = q.rxLast + 1 → ∃ t, exec (.dataFlit p flit) s = .next t ∧ (t.port p).rxLast = seq ∧ (t.port p).nak = false) ∧
      (h % 4 = 1 → seq ≠ q.rxLast + 1 → ∃ t, exec (.dataFlit p flit) s = .next t ∧ (t.port p).rxLast = q.rxLast ∧ (t.port p).nak = true ∧
        t.inbox = s.inbox) ∧
      (h % 4 = 0 → ∃ t, exec (.idleFlit p flit) s = .next t ∧ (t.port p).rxLast = q.rxLast ∧ t.inbox = s.inbox ∧
        (let i : Fin 4 := (BitVec.ofNat 2 (bitField h 28 27)).toFin
         (t.port p).credit[i] = min q.window[i] (q.credit[i] + bitField h 36 29)) ∧
        (q.replay = a ++ e :: b → e.1.toNat = bitField h 25 14 → (∀ x ∈ a, x.1 ≠ e.1) → (t.port p).replay = b))) ∧
    (checkFlit q flit = .ok h → h.testBit 26 = false → q.sleeping = none → h % 4 = 1 → seq = q.rxLast + 1 → bitField h 59 45 = 1 →
      let n := bitField flit.toNat 191 64
      let pkt := headerOf n
      headerBad n = false → dataChunks pkt.type pkt.len = 0 → pkt.dst = s.chipId → routeOf s s.chipId = 6 → pkt.detour = false →
      ∃ t, exec (.dataFlit p flit) s = .next t ∧ t.inbox = s.inbox ++ [(some p, { pkt with hops := pkt.hops + 1 })])

/-- R157, R326, R349 to R353, R364, R384: the requests of other chips are checked, performed and answered in the order of their channel; a failed
check moves no data; responses complete what asked, and one of status UNROUTABLE leaves it pending; a fragment of a SEND enters its
context's queue, waits at the link, or is discarded. -/
def Obligations.PacketService : Prop :=
  ∀ (n ty : Nat) (ecc : Ecc) (e : Option PortId × Packet) (a : Asked) (l : Load) (y : Posted) (s : State), s.up = true →
    let p := e.2
    let off := p.addr.toNat
    let u := s.takeInbox n e
    let w := (s.packetTurn e).takeInbox n e
    let v : State := { u with asked := s.asked.erase a }
    let k := s.core a.core
    let lost : State := { u with asked := s.asked.map (fun b => if b.tag = p.tag then { b with lost := true } else b) }
    let cause : Nat := if p.sub = 1 then 0x06 else 0x07
    let reads (len : Nat) (o : Host.Outcome State Fault Refusal) : Prop :=
      let z := w.hbmEcc off len ecc
      o = .next (if remoteOk s p len false = false then w.answer p tyReadData 2 []
        else if z.poisoned off len = true then z.answer p tyReadData 1 []
        else (z.count (perfRd off) len).answer p tyReadData 0 (memBytes z.mem off len))
    let adds (type : Nat) (o : Host.Outcome State Fault Refusal) : Prop :=
      o = .next (if remoteOk s p p.data.length true = false then w.answer p tyDone 2 []
        else if s.poisoned off p.data.length = true then w.answer p tyDone 1 []
        else ((w.applyPiece off type false p.data).count (perfDie 0x310 off) 1).answer p tyDone 0 [])
    (inboxAt s n tyRead = some e → packetServed s n false = true → reads (16 * p.len) (exec (.readPacket n ecc) s)) ∧
    (inboxAt s n tyCrumb = some e → packetServed s n false = true → reads 32 (exec (.crumbReadPacket n ecc) s)) ∧
    (inboxAt s n tyWrite = some e → packetServed s n false = true →
      exec (.writePacket n) s = .next (if remoteOk s p p.data.length true = false then w.answer p tyDone 2 []
        else ((w.write off p.data).count (perfWr off) p.data.length).answer p tyDone 0 [])) ∧
    (inboxAt s n tyAtomic = some e → packetServed s n true = true → p.sub.toNat = ty →
      (ty < 4 → adds ty (exec (.atomicAddPacket n) s)) ∧ (4 ≤ ty → exec (.atomicAddPacket n) s = .next (w.answer p tyDone 2 []))) ∧
    (inboxAt s n tyReduce = some e → packetServed s n true = true → adds 4 (exec (.pralineReducePacket n) s)) ∧
    (∀ (t : State) (type st : BitVec 4) (d : List Byte),
      t.answer p type st d = t.route ⟨type, 2, false, p.src, t.chipId, p.ctx, d.length / 16, p.tag, 0, st, 0, d⟩ none) ∧
    (askedBy s p = some a →
      (inboxAt s n tyReadData = some e →
        (p.sub = 3 → exec (.readDataPacket n) s = .next lost) ∧
        (p.sub ≠ 3 → a.what = 1 → k.hold = some (.load l) →
          exec (.readDataPacket n) s = .next (v.setCore a.core { k with hold := some (.load { l with answer := some (p.sub.toNat, p.data) }) })) ∧
        (a.what = 2 → p.sub = 0 → ∃ t, exec (.readDataPacket n) s = .next t ∧
          t.core a.core = (k.modItem a.serial (fun i => { i with got := mapSet i.got a.place p.data })).modItem a.serial (fun i => { i with out := i.out - 1 })) ∧
        (a.what ≠ 1 → a.what ≠ 2 → p.sub = 0 → ∃ t, exec (.readDataPacket n) s = .next t ∧
          t.core a.core = if itemLive s a.core a.serial = true then (k.padWrite a.place p.data).modItem a.serial (fun i => { i with out := i.out - 1 }) else k) ∧
        (a.what ≠ 1 → p.sub ≠ 0 → p.sub ≠ 3 → exec (.readDataPacket n) s = .next (v.itemFault a.core a.serial cause))) ∧
      (inboxAt s n tyDone = some e →
        (p.sub = 3 → exec (.donePacket n) s = .next lost) ∧
        (a.what = 4 → k.posted.find? (fun z => z.tag == some a.tag) = some y →
          (p.sub = 0 → exec (.donePacket n) s =
            .next (v.setCore a.core { k with posted := k.posted.map (fun z => if z = y then { z with tag := none } else z) })) ∧
          (p.sub ≠ 0 → p.sub ≠ 3 → exec (.donePacket n) s =
            .next ((v.setCore a.core { k with posted := k.posted.erase y }).fault a.core cause y.addr []))) ∧
        (a.what = 5 → (p.sub = 0 → exec (.donePacket n) s = .next v) ∧
          (p.sub ≠ 0 → p.sub ≠ 3 → exec (.donePacket n) s = .next (v.faultCtx a.ctx none 0 cause 0 []))) ∧
        (a.what ≠ 4 → a.what ≠ 5 → p.sub ≠ 3 →
          exec (.donePacket n) s = .next (if p.sub = 0 then v.itemLess a.core a.serial else v.itemFault a.core a.serial cause)))) ∧
    (inboxAt s n tyUnroutable = some e → exec (.unroutablePacket n) s = .next lost) ∧
    (inboxAt s n tySend = some e →
      let x := sendAddrOf p.addr
      let die := coreDie x.core
      let arr : Arrival := ⟨p, e.1, none⟩
      (granted s x.dctx p.src p.ctx = false →
        exec (.sendPacket n) s = .next (if x.last = true then
          ({ s with inbox := s.inbox.eraseIdx n } : State).answer p tyDone 2 [] |>.owe e.1 p else u)) ∧
      (granted s x.dctx p.src p.ctx = true →
        ((s.ctx x.dctx).state = .off ∨ (s.ctx x.dctx).state = .teardown → ∃ t, exec (.sendPacket n) s = .next t ∧
          t.log.discardArrival = min (2 ^ 32 - 1) (s.log.discardArrival + 1) ∧ t.heldIn = s.heldIn) ∧
        ((s.ctx x.dctx).state = .active → resident s x.core x.dctx = false → s.heldIn = [] →
          ((s.ctx x.dctx).arrivalRoom die arr = true →
            exec (.sendPacket n) s = .next (u.modCtx x.dctx (fun y => y.setArrivals die (y.arrivals die ++ [arr])))) ∧
          ((s.ctx x.dctx).arrivalRoom die arr = false →
            exec (.sendPacket n) s = .next { s with inbox := s.inbox.eraseIdx n, heldIn := [arr] }))))

/-- R35, R369 to R373: each exchange sends and each BELL message of the port's session measures; the root's bell is never steered, no bell ever
runs backward, the rate is that of a loop of 40 us and stays within 1 000 ppm; a LOCKED module whose offset passes 1.5 ns loses its
lock; BELL_SET steps the root's FREE bell forward and does nothing else but a notice. While the module runs and no command waits, one
bell nanosecond (the model's choice, log 2) raises the bell by one and the count of each watchdog that is on, and changes no memory,
no thread and no queue. -/
def Obligations.BellCommands : Prop :=
  (∀ (p : PortId) (h : BitVec 64) (msg : BitVec 1920) (at4 : Stamp) (v : Word) (s : State), s.up = true → p.toNat < 6 →
      let q := s.port p
      let others (t : State) : Prop := ∀ r, r ≠ p → t.port r = s.port r
      (q.state = .up →
        (∃ t, exec (.bellExchangeTimer p) s = .next t ∧ (t.port p).index = q.index + 1 ∧ (t.port p).sent.length = q.sent.length + 1 ∧
          (t.port p).theta = q.theta ∧ others t ∧ t.bell = s.bell) ∧
        (h.toNat % 4 = 2 → msgField msg 0 2 = 4 → fieldOf h 44 37 ≠ q.session.toNat →
          exec (.bellMessage p ⟨h, msg⟩ at4) s = .next (s.setPort p { q with sessionDiscards := min 0xFF (q.sessionDiscards + 1) })) ∧
        (h.toNat % 4 = 2 → msgField msg 0 2 = 4 → fieldOf h 44 37 = q.session.toNat → h.getLsbD 26 = false → q.sleeping = none →
          msgStamp msg 16 ≠ 0 →
          let theta : Int := ((msgStamp msg 32 : Int) - msgStamp msg 16) - ((stamp64 at4 : Int) - msgStamp msg 4)
          ∃ t, exec (.bellMessage p ⟨h, msg⟩ at4) s = .next t ∧ (t.port p).theta = theta ∧ (t.port p).echoTx = msgStamp msg 4 ∧
            (t.port p).echoRx = stamp64 at4 ∧ (t.port p).partnerRoot = (msgField msg 41 1).testBit 0 ∧
            (t.port p).partnerLocked = (msgField msg 41 1).testBit 1 ∧ others t ∧
            (let i : Fin 4 := (BitVec.ofNat 2 (fieldOf h 28 27)).toFin
             (t.port p).credit[i] = min q.window[i] (q.credit[i] + fieldOf h 36 29)) ∧
            s.bell ≤ t.bell ∧ (s.bellRoot = true ∨ s.bellStepped = true → t.bell = s.bell) ∧
            (s.bellRoot = true → t.bellRate = s.bellRate) ∧
            (s.bellRate.natAbs ≤ 16000 → t.bellRate.natAbs ≤ 16000) ∧
            (s.bellRoot = false → s.bellStepped = true → s.bellSlew = false → (msgField msg 41 1).testBit 0 = true →
              let qs := eligiblePorts t
              ∃ up : Bool, t.bellRate = steerRate up (thetaSum qs) qs.length) ∧
            (s.bellRoot = false → s.bellState = .locked → s.bellStepped = true → 192 < theta.natAbs →
              (msgField msg 41 1).testBit 0 = true → t.bellState = .locking ∧ t.bellLost = min 0xFF (s.bellLost + 1)))) ∧
      (s.bellRoot = true → s.bellState = .free → s.bell ≤ v.toNat → exec (.bellSet v) s = .next { s with bell := v.toNat }) ∧
      (s.bellRoot = false ∨ s.bellState ≠ .free ∨ v.toNat < s.bell →
        ∃ t, exec (.bellSet v) s = .next t ∧ t.bell = s.bell ∧ t = s.notice 2 0x0001 0x0400018 (leBytes 8 v.toNat))) ∧
  (∀ (up : Bool) (sum : Int) (n : Nat), 0 < n → (128 * (n : Int) * steerRate up sum n - 400 * sum).natAbs < 128 * n ∨
      (steerRate up sum n = 16000 ∧ 16000 * (128 * n) ≤ 400 * sum) ∨ (steerRate up sum n = -16000 ∧ 400 * sum ≤ -16000 * (128 * n))) ∧
  (∀ s : State, s.up = true → s.pending = [] →
      ∃ t, step s = .next t ∧ t.bell = s.bell + 1 ∧ t.mem = s.mem ∧ t.memPoison = s.memPoison ∧ t.lib = s.lib ∧ t.net = s.net ∧
        (∀ c : CoreId, t.core c = { s.core c with
          stepcnt := (t.core c).stepcnt,
          late := (s.core c).late + if (s.core c).stop ≠ none ∧ holdsCore (s.core c) = true then 1 else 0 }) ∧
        (∀ cl, t.wdt cl = { s.wdt cl with counted := (s.wdt cl).counted + if (s.wdt cl).en then 1 else 0 }) ∧
        t.slots = s.slots ∧ t.log = { s.log with cdCorr := t.log.cdCorr } ∧ (s.log.cdCorr < 2 ^ 32 → s.log.cdCorr ≤ t.log.cdCorr))

/-! Sleep, power, heat and start-up (spec/17_power_startup_sleep.md, spec/02_self_timed_fabric.md). -/

/-- R438 to R445: DOZE and HIBERNATE end the slices without debt, the ports send SLEEP and then the module sleeps; Doze keeps every core as it
is, Hibernate raises the die epochs; an enabled source wakes the module, which then resumes its threads or revives its cores. A port
whose partner sleeps drains its flits and goes DOWN. -/
def Obligations.SleepAndWake : Prop :=
  ∀ (p : PortId) (h : BitVec 64) (msg : BitVec 1920) (op : Nat) (n : Bool) (w : BitVec 3) (s : State),
    let pw := s.power
    let asks (op : Nat) (o : Host.Outcome State Fault Refusal) : Prop :=
      (pw.entering = none → s.ttBusy = false → s.kvBusy = false → s.libBusy = false → wakeable pw = true →
        ∃ t, o = .next t ∧ t.power = { pw with entering := some op, stateBusy := true, stateResult := false, stateOp := op } ∧ t.mem = s.mem ∧
          ∀ c : CoreId, (t.core c).th = (s.core c).th ∧ (t.core c).seat = (s.core c).seat ∧
            ((s.core c).seat ≠ none → (s.core c).stop = none → (s.core c).leave ≠ .leaving → (t.core c).stop = some .sleep ∧ (t.core c).late = 0)) ∧
      (wakeable pw = false → pw.stateBusy = false → ∃ t, o = .next t ∧ t.power = { pw with stateOp := op, stateResult := true })
    let woken (source : Nat) (o : Host.Outcome State Fault Refusal) : Prop :=
      s.life = .running → pw.wakeKept = none → pw.wakeEn.getLsbD source = true →
      (pw.entering ≠ none → o = .next { s with power := { pw with wakeKept := some (1#3 <<< source) } }) ∧
      (pw.entering = none → s.pstate = .doze ∨ s.pstate = .hibernate →
        o = .next { s with power := { pw with wakeKept := some (1#3 <<< source), wakeCause := 1#3 <<< source } }) ∧
      (pw.entering = none → s.pstate = .active → o = .next s)
    (s.up = true → asks 3 (exec .doze s) ∧ asks 4 (exec .hibernate s)) ∧
    (s.up = true → pw.entering = some op → sleepQuiet s = true →
      ((∃ r : PortId, r.toNat < 6 ∧ (s.port r).replay ≠ [] ∧ (s.port r).inService = true ∧
          ((s.port r).state = .up ∨ (s.port r).state = .training ∨ (s.port r).state = .rollCall)) →
        ∃ t, exec .sleepEntryComplete s = .next t ∧ t.pstate = s.pstate ∧ t.power = pw ∧
          ∀ r : PortId, r.toNat < 6 → (s.port r).state = .up → (t.port r).sleepSent = true ∧ (t.port r).replay = (s.port r).replay) ∧
      ((∀ r : PortId, r.toNat < 6 → draining (s.port r) = false) →
        ∃ t, exec .sleepEntryComplete s = .next t ∧ t.power.entering = none ∧ t.power.stateBusy = false ∧ t.mem = s.mem ∧
          (∀ r : PortId, r.toNat < 6 → (t.port r).state = if (s.port r).state = .disabled then .disabled else .down) ∧
          (op = 3 → t.pstate = .doze ∧ ∀ c : CoreId, t.core c = s.core c) ∧
          (op = 4 → t.pstate = .hibernate ∧ t.epoch0 = s.epoch0 + 1 ∧ t.epoch1 = s.epoch1 + 1 ∧ ∀ c : CoreId, (t.core c).clean = []))) ∧
    ((pw.wakeAt ≠ 0 → pw.wakeAt.toNat ≤ s.bell → woken 0 (exec .wakeTimer s)) ∧
      (pw.wakeAt = 0 ∨ s.bell < pw.wakeAt.toNat → exec .wakeTimer s = .next s) ∧ woken (1 + n.toNat) (exec (.wakeEthernet n) s)) ∧
    (s.life = .running → pw.wakeKept = some w →
      (s.pstate = .doze → ∃ t, exec .sleepExitComplete s = .next t ∧ t.pstate = .active ∧ t.power.wakeKept = none ∧
        ∀ r : PortId, r.toNat < 6 → (s.port r).en = true → (s.port r).inService = true → (s.port r).state = .down →
          ((s.port r).sleeping = none → (t.port r).state = .training ∧ (t.port r).resume = (s.port r).resume) ∧
          ((s.port r).sleeping ≠ none → (t.port r).state = .down ∧ (t.port r).sleeping = (s.port r).sleeping)) ∧
      (s.pstate = .hibernate → ∃ t, exec .sleepExitComplete s = .next t ∧ t.pstate = .active ∧ t.power.wakeKept = none ∧
        ∀ c : CoreId, (s.core c).inService = true →
          (t.core c).epoch = dieEpoch s (coreDie c) ∧ (t.core c).clean = [] ∧ (∀ e, (t.core c).queue e = []) ∧ (t.core c).seats = (s.core c).seats)) ∧
    (s.up = true → p.toNat < 6 → (s.port p).state = .up → h.toNat % 4 = 2 → fieldOf h 44 37 = (s.port p).session.toNat → h.getLsbD 26 = false →
      (s.port p).sleeping = none → msgField msg 0 2 = 5 → msgField msg 2 1 = 3 ∨ msgField msg 2 1 = 4 →
      let q := (s.applyAck p h.toNat).port p
      q.state = .up ∧ q.queue = (s.port p).queue ∧ ∃ t, exec (.sleep p ⟨h, msg⟩) s = .next t ∧ (∀ r, r ≠ p → t.port r = s.port r) ∧
        t.port p = { q with sleeping := some (BitVec.ofNat 8 (msgField msg 2 1)), state := if q.replay = [] then .down else .up })

/-- R31, R33, R340, R428 to R435, R446: one sample of each kind. The rails move by one step at most and fall when the cap is exceeded, a meter
below its guaranteed tempo counts, a stack's throttle level follows Table 13.13, the thermal ceiling moves by 25 mV, an installation
record is copied only if it passes its checks. -/
def Obligations.PowerAndHeat : Prop :=
  ∀ (r : PowerReading) (h : ThermalReading) (steps : List Nat) (v : Word) (j : Fin 8) (s : State), s.up = true →
    let pw := s.power
    let ok (i : Nat) : Prop := railOk (railSet pw i) i (r.railMv.getD i 0) = true
    let cap := if vinBandOf r.vinMv = 0 then pw.cap else min pw.cap 1600
    ((∀ i : Fin 8, ok i.val) → ∃ t, exec (.powerSample r) s = .next t ∧
      t.power.samples = (r :: pw.samples).take 1000 ∧ t.power.peak = max pw.peak (min 0xFFFF r.pinW) ∧ t.power.vinBand = vinBandOf r.vinMv ∧
      t.power.rail0 ≤ pw.rail0 + 1 ∧ pw.rail0 ≤ t.power.rail0 + 1 ∧ t.power.rail1 ≤ pw.rail1 + 1 ∧ pw.rail1 ≤ t.power.rail1 + 1 ∧
      (cap < r.pinW → t.power.rail0 = pw.rail0 - 1 ∧ t.power.rail1 = pw.rail1 - 1 ∧ t.power.capActive = true ∧
        (t.power.capFloor = true ↔ pw.rail0 = 0 ∧ pw.rail1 = 0))) ∧
    ((∀ i : Fin 8, i ≠ j → ok i.val) → ¬ ok j.val → pw.railOut[j] = 9 →
      ∃ t, exec (.powerSample r) s = .next t ∧ t.sec.sensors.getLsbD 3 = true) ∧
    (∃ t, exec (.tempoMeterSample steps) s = .next t ∧ t.power.meters = (tabulate 8 (fun n => min 0xFFFF (steps.getD n 0)) :: pw.meters).take 1024 ∧
      ∀ n : Fin 8, t.power.below[n] =
        if min 0xFFFF (steps.getD n.val 0) < tempoMin (supplyOf s (n.val / 4)) (pw.dies.getD (n.val / 4) 0) then min 0xFF (pw.below[n] + 1) else pw.below[n]) ∧
    (tempDie h = none → ∃ t, exec (.thermalSample h) s = .next t ∧ t.sec.sensors = s.sec.sensors ∧
      (∀ i : Fin 8, t.power.levels[i] = stackLevel pw.levels[i] (h.stackTemps.getD i.val 0)) ∧
      (∀ i : Fin 4, t.power.libLevels[i] = libLevel pw.libLevels[i] (h.libs.getD i.val 0)) ∧
      ((∃ x ∈ h.stackTemps, 1000 ≤ x) ∨ (∃ x ∈ h.dies, 1050 ≤ x) → t.power.throttle = true ∧ t.power.releasing = false ∧
        (pw.throttle = false → t.power.thermCeil0 = pw.rail0 ∧ t.power.thermCeil1 = pw.rail1))) ∧
    (tempDie h ≠ none → s.sec.sensors.getLsbD 5 = false → ∃ t, exec (.thermalSample h) s = .next t ∧ t.sec.sensors.getLsbD 5 = true) ∧
    (∀ (old : Nat) (x : Int), old ≤ 3 → (990 ≤ x → stackLevel old x = 3) ∧ (x < 920 → stackLevel old x = 0) ∧
      (960 ≤ x → x < 970 → stackLevel old x = if old = 3 then 3 else max 1 old) ∧ (920 ≤ x → x < 940 → stackLevel old x = min old 1)) ∧
    (pw.throttle = true →
      (pw.releasing = false → exec .thermalCeilingStep s =
        .next { s with power := { pw with thermCeil0 := pw.thermCeil0 - 5, thermCeil1 := pw.thermCeil1 - 5 } }) ∧
      (pw.releasing = true → ∃ t, exec .thermalCeilingStep s = .next t ∧ t.power.thermCeil0 = min 46 (pw.thermCeil0 + 5) ∧
        t.power.thermCeil1 = min 46 (pw.thermCeil1 + 5) ∧ (t.power.throttle = false ↔ 41 ≤ pw.thermCeil0 ∧ 41 ≤ pw.thermCeil1))) ∧
    (let a := 64 * fieldOf v 38 6
     let b := memBytes s.mem a 256
     (v.toNat.testBit 0 = false → exec (.pwrInstall v) s = .next { s with power := { pw with installBase := a } }) ∧
     (v.toNat.testBit 0 = true → pw.installBusy = false → ∃ t, exec (.pwrInstall v) s = .next t ∧ t.sec.install = s.sec.install ∧
       t.power = if readable s a 256 = true ∧ recordOk b = true
         then { pw with installBase := a, installBusy := true, installCopy := b, installRefused := false }
         else { pw with installBase := a, installRefused := true }) ∧
     (pw.installBusy = true → ∃ t, exec .installCopyDone s = .next t ∧ t.sec.install = some pw.installCopy ∧ t.power.installBusy = false))

/-- R427, R429, R437, R447 to R457, R484: the loss of the input and RESET_N leave nothing of main memory and keep the library tier and the system
area; a start-up whose checks pass brings the cores into service at epoch 0, and STARTUP_DONE starts the master with context 0
ACTIVE; a failed check stops the boot. What RESET_N records after an under-voltage lock is the model's reading (log 88). -/
def Obligations.InputResetAndStartUp : Prop :=
  ∀ (mv : Nat) (r : StartReading) (img : FwImage) (s : State),
    let kept (t : State) : Prop := t.lib = s.lib ∧ t.libPages = s.libPages ∧ t.sec.ownerKey = s.sec.ownerKey ∧ t.sec.floors = s.sec.floors ∧
      t.sec.levels = s.sec.levels ∧ t.sec.install = s.sec.install ∧ t.sec.identity = s.sec.identity ∧ t.sec.copies = s.sec.copies ∧
      t.mem = [] ∧ t.cores = [] ∧ t.ctxs = []
    (38000 < mv → exec (.underVoltage mv) s = .next s) ∧
    (s.life ≠ .off →
      (mv < 30000 → ∃ t, exec (.underVoltage mv) s = .next t ∧ t.life = .off ∧ t.power.lastOff = 1 ∧ t.mem = [] ∧ t.lib = s.lib) ∧
      (30000 ≤ mv → mv ≤ 38000 → s.armed = true → ∃ t, exec (.underVoltage mv) s = .next t ∧ t.power.lastOff = 1 ∧ t.sec.sensors.getLsbD 2 = true) ∧
      (∃ t, exec .overVoltage s = .next t ∧ t.life = .off ∧ t.power.lastOff = 2 ∧ kept t) ∧
      (s.life ≠ .inReset → ∃ t, exec .resetAssert s = .next t ∧ t.life = .inReset ∧ t.resetN = false ∧ kept t ∧
        t.power.lastOff = if s.life = .locked ∧ s.sec.sensors.getLsbD 2 = true then s.power.lastOff else 0) ∧
      exec (.powerGood r) s = .next s) ∧
    (∃ t, exec .powerLoss s = .next t ∧ t.life = .off ∧ t.power.lastOff = 0 ∧ t.tap = Tap.reset ∧ kept t) ∧
    (s.life = .off → (s.resetN = false → exec (.powerGood r) s = .next { s with powerGood := true, life := .inReset }) ∧
      (s.resetN = true → exec (.powerGood r) s = exec (.resetRelease r) { s with powerGood := true, life := .inReset }) ∧
      (s.resetN = false → exec (.resetRelease r) s = .next { s with resetN := true })) ∧
    (s.life = .inReset →
      (StartsWell s r → ∃ t, exec (.resetRelease r) s = .next t ∧ t.life = .starting ∧ t.bell = 0 ∧ t.straps = r.straps ∧ t.reading = some r ∧
        (∀ c : CoreId, (t.core c).inService = true ∧ (t.core c).epoch = 0 ∧ (t.core c).clean = [] ∧ (t.core c).seat = none) ∧
        t.sec.identityOk = true ∧ t.sec.meas[(0 : Fin 8)] = extendWith s.sec.meas[(0 : Fin 8)] 1 (imgDigest r.bootFw.header) ∧
        t.sec.meas[(1 : Fin 8)] = extendWith s.sec.meas[(1 : Fin 8)] 2 (imgDigest r.runFw.header) ∧
        t.sec.svn1.toNat = imgSvn r.bootFw.header ∧ t.sec.svn2.toNat = imgSvn r.runFw.header ∧
        (∀ chip, routeOf t chip = defaultEntry t.chipId t.dims chip) ∧
        ((areaRead s r).sec.install = none → ∀ p : PortId, p.toNat < 6 → (t.port p).state = .disabled)) ∧
      (r.meshOk = true → r.lidOk = true → r.refOk = true → (∀ i, i < 8 → RailGood s r i) → s.sec.erasing = false →
        (s.sec.helper = false → ∃ t, exec (.resetRelease r) s = .next t ∧ t.life = .bootStopped ∧ t.boot = 0xE) ∧
        (s.sec.helper = true → imageOk s 0 r.bootFw = false → ∃ t, exec (.resetRelease r) s = .next t ∧ t.life = .bootStopped ∧ t.boot = 0xD))) ∧
    (s.life = .starting → s.sec.erasing = false → s.reading = some r →
      (masterSlot s r = none → exec .startupDone s = .next { s with life := .bootStopped, boot := 0xD }) ∧
      (masterSlot s r = some img → ∃ t, exec .startupDone s = .next t ∧ t.life = .running ∧ t.pstate = .idle ∧ t.boot = 1 ∧ t.reading = none ∧
        (t.ctx 0).state = .active ∧ t.sec.lockLog = [] ∧ t.power.rcResult.getLsbD 17 = true ∧
        t.sec.floors[(2 : Fin 3)].toNat = max s.sec.floors[(2 : Fin 3)].toNat (imgSvn img.header) ∧
        t.sec.meas[(3 : Fin 8)] = extendWith s.sec.meas[(3 : Fin 8)] 3 (imgDigest img.header)))

/-! Security monitor, control die, registers and devices (spec/16_master_interface.md, spec/18_security_identity.md,
spec/19_errors_reliability.md, spec/20_module_physical.md). -/

/-- R452 to R454, R458, R460, R461, R466: the commands of the security monitor. ATTEST writes its report after the nonce, EXTEND and LOAD extend
their measurement, OWNER_SET takes the first key and later only a signed one; while BUSY a write only records a notice; alarm
levels rise and never fall, and a written item of the system area has four good copies again (R451). -/
def Obligations.SecurityCommands : Prop :=
  ∀ (arg : BitVec 33) (m : BitVec 4) (v : Word) (k : List Byte) (s : State), s.up = true →
    let a := 64 * arg.toNat
    let b := memBytes s.mem a
    let meas (t : State) (j : Fin 8) (x : BitVec 512) : Prop := t.sec.meas = s.sec.meas.set j x
    let busy (op result : Nat) (t : State) : Prop := t.sec.busy = true ∧ t.sec.op = op ∧ t.sec.pendingResult = result
    let refused (op : Nat) (o : Host.Outcome State Fault Refusal) : Prop := ∃ t, o = .next t ∧ t.sec = { s.sec with op := op, result := 1 }
    let fresh (n : Nat) (t : State) : Prop := t.sec.copies = s.sec.copies.filter (fun e => decide (e.1 / 4 ≠ n))
    (s.sec.busy = false →
      (readable s a 64 = true → inCarveOut a 864 = true →
        exec (.attest arg) s = .next ((s.write (a + 64) (reportBody s (b 64) ++ padTo 114 (Config.identitySign (reportBody s (b 64))))).secAccept 1 0) ∧
        (reportBody s (b 64)).length = 686) ∧
      (readable s a 64 = false ∨ inCarveOut a 864 = false → refused 1 (exec (.attest arg) s)) ∧
      (4 ≤ m.toNat → m.toNat < 8 → readable s a 64 = true →
        ∃ t, exec (.extend arg m) s = .next t ∧ busy 2 0 t ∧ t.mem = s.mem ∧
          meas t (Fin.ofNat 8 m.toNat) (extendWith s.sec.meas[Fin.ofNat 8 m.toNat] 0 (b 64))) ∧
      (m.toNat < 4 → refused 2 (exec (.extend arg m) s)) ∧
      (readable s a 256 = true → programHeader (b 256) = true → readable s a (256 + imgLength (b 256)) = true →
        let good := (permittedKeys s).any (fun q => signedBy q (b 256) 16) &&
          imgDigest (b 256) == shake256 (memBytes s.mem (a + 256) (imgLength (b 256))) 64
        ∃ t, exec (.load arg) s = .next t ∧ busy 3 (if good then 0 else 2) t ∧ t.mem = s.mem ∧
          (if good then meas t 4 (extendWith s.sec.meas[(4 : Fin 8)] 4 (imgDigest (b 256))) else t.sec.meas = s.sec.meas)) ∧
      (readable s a 256 = false ∨ programHeader (b 256) = false → refused 3 (exec (.load arg) s)) ∧
      (s.sec.ownerKey = none → readable s a 57 = true →
        ∃ t, exec (.ownerSet arg) s = .next t ∧ busy 4 0 t ∧ t.sec.ownerKey = some (b 57) ∧ fresh 2 t) ∧
      (s.sec.ownerKey = some k → readable s a 256 = true → ownerBlockOk (b 256) = true →
        ∃ t, exec (.ownerSet arg) s = .next t ∧ busy 4 (if signedBy k (b 256) 64 then 0 else 2) t ∧
          t.sec.ownerKey = some (if signedBy k (b 256) 64 then b 57 else k))) ∧
    (s.sec.busy = true → ∀ q : BitVec 4,
      let refusal (x : Word) (o : Host.Outcome State Fault Refusal) : Prop :=
        ∃ t, o = .next t ∧ t.sec = s.sec ∧ t = s.notice 2 0x0002 0x0300008 (leBytes 8 x.toNat)
      refusal (secCmdWord 1 arg 0) (exec (.attest arg) s) ∧ refusal (secCmdWord 2 arg q) (exec (.extend arg q) s) ∧
      refusal (secCmdWord 3 arg 0) (exec (.load arg) s) ∧ refusal (secCmdWord 4 arg 0) (exec (.ownerSet arg) s)) ∧
    (∃ t, exec (.secAlarmCfg v) s = .next t ∧ (∀ n : Fin 9, t.sec.levels[n] = max s.sec.levels[n] (v.toNat / 4 ^ n.val % 4)) ∧
      t.sec = { s.sec with levels := t.sec.levels, copies := t.sec.copies } ∧ fresh 4 t ∧
      ((∀ n : Fin 9, 1 ≤ s.sec.levels[n] ∧ s.sec.levels[n] ≤ v.toNat / 4 ^ n.val % 4) → t.log = s.log)) ∧
    (s.sec.busy = true → s.sec.abandoned = false →
      exec .secCommandDone s = .next { s with sec := { s.sec with busy := false, result := s.sec.pendingResult } }) ∧
    (s.sec.abandoned = true → exec .secCommandDone s = .next s)

/-- R38, R405, R406, R461 to R465, R470, R473, R474: a tripped sensor acts by its level: a notice is recorded and nothing else, a lock stops the
module and its links, an erase destroys the keys at once and, when it completes, leaves no byte of main memory or scratchpad; a
watchdog goes through its stages; errors of the control die and its links are recorded. -/
def Obligations.AlarmsAndControlDie : Prop :=
  ∀ (cl : BitVec 2) (v addr : Word) (hart u : BitVec 4) (s : State),
    let w := s.wdt cl
    let trips (n : Fin 9) (i : Instr) : Prop := s.armed = true →
      ∃ t, exec i s = .next t ∧ t.sec.sensors.getLsbD n.val = true ∧
        (s.sec.levels[n] = 1 → t.life = s.life ∧ t.net = s.net ∧ t.sec.helper = s.sec.helper ∧ t.cores = s.cores) ∧
        (s.sec.levels[n] = 2 → s.sec.erasing = false → s.life ≠ .locked →
          t.life = .locked ∧ t.net = [] ∧ (∀ p, (t.port p).state = .down ∨ (t.port p).state = .disabled) ∧ t.sec.helper = s.sec.helper) ∧
        (s.sec.levels[n] = 3 → s.sec.erasing = false →
          t.sec.erasing = true ∧ t.sec.helper = false ∧ t.sec.wrappedKey = false ∧ t.sec.sessionStore = [] ∧ t.sec.floors = s.sec.floors ∧ t.lib = s.lib)
    let struck : State := { s with hartErr := setAdd s.hartErr hart.toNat }
    trips 0 (.meshCheck true) ∧ trips 1 (.lidCheck true) ∧ trips 4 .clockExcursion ∧
    exec (.meshCheck false) s = .next s ∧ exec (.lidCheck false) s = .next s ∧
    (s.sec.erasing = true → s.life ≠ .off → ∃ t, exec .eraseComplete s = .next t ∧ t.life = .locked ∧ t.sec.erasing = false ∧
      (∀ b, memRead t.mem b = 0) ∧ (∀ c b, memRead (t.core c).pad b = 0) ∧ t.lib = s.lib) ∧
    (s.up = true →
      (v.toNat.testBit 0 = true → exec (.wdtKick cl v) s = .next (s.setWdt cl { w with stage := 0, counted := 0 })) ∧
      (v.toNat.testBit 0 = false → exec (.wdtKick cl v) s = .next s) ∧
      (w.counted < w.timeoutMs * 1000000 → exec (.watchdogExpiry cl) s = .next s) ∧
      (w.en = true → w.timeoutMs * 1000000 ≤ w.counted →
        (w.stage = 0 → ∃ t, exec (.watchdogExpiry cl) s = .next t ∧ t.wdt cl = { w with stage := 1, counted := 0 } ∧
          t.log.cdWatchdog = min 0xFF (s.log.cdWatchdog + 1) ∧ t.hartErr = (hartsOf cl).foldl setAdd s.hartErr ∧ t.life = s.life) ∧
        (w.stage = 1 → (∃ d, d ≠ cl ∧ (s.wdt d).stage ≠ 2) → ∃ t, exec (.watchdogExpiry cl) s = .next t ∧
          t.wdt cl = { w with stage := 2, counted := 0 } ∧ t.hartErr = (hartsOf cl).foldl setDel s.hartErr ∧ t.life = s.life) ∧
        (w.stage = 2 ∨ (w.stage = 1 ∧ ∀ d, d ≠ cl → (s.wdt d).stage = 2) → ∃ t, exec (.watchdogExpiry cl) s = .next t ∧
          t.life = .inReset ∧ t.power.lastOff = 0 ∧ t.mem = [] ∧ t.lib = s.lib)) ∧
      (mainOffset addr = none → exec (.cdUncorr hart addr false) s = .next (struck.error 2 0x010B addr.toNat [])) ∧
      (∀ off, mainOffset addr = some off →
        let t := if s.poisoned off 1 = true then struck else struck.uncorrectable (off / 32)
        exec (.cdUncorr hart addr false) s = .next (if inCarveOut off 1 = true then t.error 2 0x0107 off [0] else t.error 2 0x010B addr.toNat [])) ∧
      (s.sec.erasing = false → s.sec.levels[(7 : Fin 9)] = 2 → ∃ t, exec (.cdUncorr hart addr true) s = .next t ∧ t.life = .locked ∧
        t.sec.sensors.getLsbD 7 = true) ∧
      (s.log.ucieOut.getLsbD u.toNat = false →
        (∃ t, exec (.ucieModuleOut u) s = .next t ∧ t = ({ s with log := { s.log with ucieOut := s.log.ucieOut ||| (1#16 <<< u.toNat) } } : State).error 2 0x0108 u.toNat [] ∧
          t.log.ucieOut = s.log.ucieOut ||| (1#16 <<< u.toNat)) ∧
        exec (.ucieRetry u) s = .next { s with log := { s.log with ucieRetries := min (2 ^ 32 - 1) (s.log.ucieRetries + 1) } }) ∧
      (s.log.ucieOut.getLsbD u.toNat = true → exec (.ucieModuleOut u) s = .next s ∧ exec (.ucieRetry u) s = .next s))

/-- R10 to R13, R19, R401, R404, R412 to R423: a read returns a register's value and clears what its access code says; a write to a read-only or
read-clear register has no effect, W1C clears, a register that holds a value takes it, a field that is a reserved encoding keeps its
value and a notice is recorded, a command register runs its command; a misaligned or short access and a write of no register are not
performed and record a notice; the event log and the performance snapshot; the master's accesses to main memory and to the control
die's SRAM (whose commands the table does not list: log 45). -/
def Obligations.RegisterAccess : Prop :=
  ∀ (c : CoreId) (p : PortId) (n : BitVec 3) (j : BitVec 9) (off : BitVec 26) (size : Nat) (isW : Bool) (v : Word) (e : Event) (s : State), s.up = true →
    let l := s.log
    let q := s.port p
    let k := s.core c
    let pw := s.power
    let wr (off : BitVec 26) : Host.Outcome State Fault Refusal := exec (.registerWrite .window off v) s
    let rd (off : BitVec 26) : Host.Outcome State Fault Refusal := exec (.registerWrite .windowRead off v) s
    let r (x : Nat) : Word := BitVec.ofNat 64 x
    let reserved (s : State) (off : BitVec 26) : State := s.notice 2 0x0001 off.toNat (leBytes 8 v.toNat)
    let bits (hi lo : Nat) : Nat := v.toNat / 2 ^ lo % 2 ^ (hi + 1 - lo)
    let checked (off : BitVec 26) (ok : Prop) (t : State) : Prop := (ok → wr off = .next t) ∧ (¬ ok → wr off = .next (reserved s off))
    (exec .pwrPeak s = .next { s with power := { pw with peak := 0 }, rdata := r pw.peak } ∧
      exec .pwrWakeCause s = .next { s with power := { pw with wakeCause := 0 }, rdata := r pw.wakeCause.toNat } ∧
      exec .bellStatus s = .next { s with bellLost := 0, rdata := r (bellStatusValue s) } ∧
      exec .libEvents s = .next { s with libRetryOk := 0, libRebuilt := 0, libLost := 0, rdata := r (s.libRetryOk + s.libRebuilt * 2 ^ 16 + s.libLost * 2 ^ 32) } ∧
      exec .errLogLost s = .next { s with log := { l with lostNotices := 0, lostOther := 0 }, rdata := r (l.lostNotices + l.lostOther * 2 ^ 16) } ∧
      exec .errHbm s = .next { s with log := { l with hbmCorr := 0, hbmUncorr := 0 }, rdata := r (l.hbmCorr + l.hbmUncorr * 2 ^ 32) } ∧
      exec .errSpad s = .next { s with log := { l with spadCorr := 0, spadUncorr := 0 }, rdata := r (l.spadCorr + l.spadUncorr * 2 ^ 32) } ∧
      exec .errDiscard s = .next { s with log := { l with discardEpoch := 0, discardArrival := 0 }, rdata := r (l.discardEpoch + l.discardArrival * 2 ^ 32) } ∧
      exec .errUcie s = .next { s with log := { l with ucieRetries := 0 }, rdata := r (l.ucieRetries + l.ucieOut.toNat * 2 ^ 32) } ∧
      exec .errCd s = .next { s with log := { l with cdCorr := 0, cdWatchdog := 0 }, rdata := r (l.cdCorr + l.cdWatchdog * 2 ^ 32) } ∧
      (p.toNat < 6 → exec (.lnkPortErr p) s = .next { s.setPort p { q with fecCorr := 0, fecUncorr := 0, replays := 0, retrains := 0, sessionDiscards := 0 } with
        rdata := r (q.fecCorr + q.fecUncorr * 2 ^ 16 + q.replays * 2 ^ 32 + q.retrains * 2 ^ 48 + q.sessionDiscards * 2 ^ 56) }) ∧
      exec (.coreErr c) s = .next { s.setCore c { k with spadCorr := 0, spadUncorr := 0, discards := 0 } with
        rdata := r (k.spadCorr + k.spadUncorr * 2 ^ 16 + k.discards * 2 ^ 32) } ∧
      ∃ t, exec (.thmTempoMeter n) s = .next t ∧ t.rdata = r (tempoMeter pw n.toNat) ∧ t = { s with power := t.power, rdata := t.rdata } ∧
        t.power = { pw with below := t.power.below } ∧ ∀ i : Fin 8, t.power.below[i] = if i.val = n.toNat then 0 else pw.below[i]) ∧
    ((∀ x ∈ clearingReads n p c, p.toNat < 6 → rd x.1 = exec x.2 s) ∧
      (off.toNat % 8 = 0 → clearsOnRead off.toNat = false → rd off = .next { s with rdata := r ((windowReg s off.toNat).getD 0) }) ∧
      (off.toNat % 8 ≠ 0 → rd off = .next (({ s with rdata := 0 } : State).notice 2 0x0007 off.toNat []))) ∧
    (l.buffer = [] → exec (.errLogCons v) s = .next { s with log := { l with cons := v.setWidth 32 } }) ∧
    (l.buffer = [e] → logRoom { l with cons := v.setWidth 32 } = true →
      exec (.errLogCons v) s = .next (({ s with log := { l with cons := v.setWidth 32, buffer := [] } } : State).logWrite e)) ∧
    (logRoom { l with cons := v.setWidth 32 } = false → exec (.errLogCons v) s = .next { s with log := { l with cons := v.setWidth 32 } }) ∧
    (∀ d : Event, memWf s.mem = true → logRoom l = true → l.buffer = [] →
      let t := s.logEvent d
      memBytes t.mem (l.base + 64 * (l.prod.toNat % logSize l)) 64 = eventBytes d l.prod.toNat ∧ (eventBytes d l.prod.toNat).length = 64 ∧
      t.log = { l with prod := l.prod + 1, alert := l.alert || l.mask.getLsbD d.cls } ∧ t.intr = s.intr ||| 1) ∧
    (v.toNat.testBit 0 = true → exec (.errAlert v) s = .next { s with log := { l with alert := false } } ∧
      exec (.perfSnap v) s = .next { s with perfCopy := s.perf, snapValid := false, snapPending := true }) ∧
    (v.toNat.testBit 0 = false → exec (.errAlert v) s = .next s ∧ exec (.perfSnap v) s = .next s) ∧
    (s.snapPending = true → exec .snapValid s = .next { s with snapValid := true, snapPending := false }) ∧
    (s.snapPending = false → exec .snapValid s = .next s) ∧
    (size ≠ 8 ∨ off.toNat % 8 ≠ 0 →
      exec (.accessSize off size isW) s = .next (({ s with rdata := if isW then s.rdata else 0 } : State).notice 2 0x0007 off.toNat [])) ∧
    (size = 8 → off.toNat % 8 = 0 → exec (.accessSize off size isW) s = .next s) ∧
    ((off.toNat % 8 ≠ 0 → wr off = .next (s.notice 2 0x0007 off.toNat [])) ∧
      (off.toNat % 8 = 0 → windowReg s off.toNat = none → wr off = .next (reserved s off)) ∧
      (readOnlyReg off.toNat = true → wr off = .next s) ∧
      wr 0x0000030 = .next { s with devScratch := v } ∧
      wr 0x0000038 = .next { s with intr := s.intr &&& ~~~(v.setWidth 4) } ∧
      wr 0x0000040 = .next { s with intrEn := v.setWidth 4 } ∧
      wr 0x0100010 = .next { s with power := { pw with mode := v.getLsbD 0 } } ∧
      (let a := bits 10 0
       let b := bits 26 16
       let fits (x : Nat) : Prop := 860 ≤ x ∧ x ≤ 1740
       let t : State := { s with power := { pw with target0 := if fits a then a else pw.target0, target1 := if fits b then b else pw.target1 } }
       wr 0x0100018 = .next (if fits a ∧ fits b then t else reserved t 0x0100018)) ∧
      checked 0x0100020 (400 ≤ bits 11 0 ∧ bits 11 0 ≤ 2400) { s with power := { pw with cap := bits 11 0 } } ∧
      wr 0x0100048 = .next { s with power := { pw with wakeAt := v } } ∧
      wr 0x0100050 = .next { s with power := { pw with wakeEn := v.setWidth 3 } } ∧
      wr 0x0400008 = .next ({ s with bellRoot := v.getLsbD 0 } : State).bellCheck ∧
      wr 0x0500000 = .next { s with chipId := v.setWidth 12, chipValid := v.getLsbD 12 } ∧
      (∃ t, wr 0x0500008 = .next t ∧ ∀ d : Nat, d < 3 →
        coordinate t.dims d = if v.toNat.testBit (4 * d) = true then bits (4 * d + 3) (4 * d) else coordinate s.dims d) ∧
      (s.stuck = [] → ∃ t, wr (0x0501000 + 8 * j.setWidth 26) = .next t ∧ t = { s with routes := t.routes } ∧
        ∀ (i : Fin 8) (chip : BitVec 12), (chip.toNat = 8 * j.toNat + i.val → (routeOf t chip).toNat = v.toNat / 256 ^ i.val % 64) ∧
          (chip.toNat / 8 ≠ j.toNat → routeOf t chip = routeOf s chip)) ∧
      checked 0x0600000 (inCarveOut (64 * bits 38 6) 64 = true) { s with wrecBase := 64 * bits 38 6 } ∧
      checked 0x0600008 (bits 19 0 ≤ 983040) { s with wrecCount := bits 19 0 } ∧
      wr (0x0600800 + 8 * c.setWidth 26) = .next { s with ttbase := mapSet s.ttbase c.toNat (v &&& 0x7FFFFE0001) } ∧
      checked 0x0700008 (inCarveOut (2 ^ 21 * bits 38 21) (2 ^ 21) = true) { s with libSrc := bits 38 21 } ∧
      checked 0x0800000 ((∀ x : CtxId, x ≠ 0 → (s.ctx x).state = .off) ∧ inCarveOut (8192 * bits 38 13) 8192 = true) { s with ttCtxBase := 8192 * bits 38 13 } ∧
      wr 0x0900008 = .next { s with kvArg0 := 64 * bits 38 6 } ∧
      (bits 14 0 ≤ 16384 → wr 0x0900010 = .next { s with kvArg1 := v &&& 0xFFF00007FFF }) ∧
      (16384 < bits 14 0 → wr 0x0900010 = .next (reserved { s with kvArg1 := (v &&& 0xFFF00000000) ||| (s.kvArg1 &&& 0x7FFF) } 0x0900010)) ∧
      wr 0x0900018 = .next { s with kvArg2 := v } ∧
      (∀ i : BitVec 4,
        let z := s.pool i
        let at_ (f : Nat) : BitVec 26 := 0x0901000 + 64 * i.setWidth 26 + 8 * BitVec.ofNat 26 f
        let put (f : Nat) (ok : Prop) (z' : Pool) : Prop := checked (at_ f) (z.en = false ∧ ok) (s.setPool i z')
        put 0 (touchesCarveOut (2 ^ 21 * bits 38 21) 1 = false) { z with base := 2 ^ 21 * bits 38 21 } ∧
        put 1 (1 ≤ bits 6 0 ∧ bits 6 0 ≤ 64) { z with frame := bits 6 0 } ∧ put 2 (1 ≤ bits 12 0 ∧ bits 12 0 ≤ 4096) { z with ns := bits 12 0 } ∧
        put 3 (bits 22 0 ≤ 2 ^ 22) { z with sets := bits 22 0 } ∧ put 4 (inCarveOut (64 * bits 38 6) 64 = true) { z with srec := 64 * bits 38 6 } ∧
        put 5 (inCarveOut (64 * bits 38 6) 64 = true) { z with hdr := 64 * bits 38 6 } ∧ put 6 (defHdrOk (bits 19 0) = true) { z with defHdr := bits 19 0 }) ∧
      (let z : KvCtx := { s.kvCtx c with pool := BitVec.ofNat 4 (bits 3 0), domain := BitVec.ofNat 16 (bits 31 16) }
       checked (0x0902000 + 16 * c.setWidth 26) (namesPool s c = false ∨ z = s.kvCtx c) (s.setKvCtx c z)) ∧
      checked 0x0A00000 (logBaseOk l (64 * bits 38 6) = true) { s with log := { l with base := 64 * bits 38 6 } } ∧
      (l.buffer = [] → wr 0x0A00008 = .next { s with log := { l with log2 := bits 3 0, en := v.getLsbD 8, mask := BitVec.ofNat 5 (bits 20 16) } })) ∧
    ((bits 2 0 ≠ 3 → bits 2 0 ≠ 4 → wr 0x0100000 = .next (reserved s 0x0100000)) ∧
      (bits 3 0 = 0 ∨ 4 < bits 3 0 → wr 0x0300008 = .next (reserved s 0x0300008)) ∧
      (bits 2 0 ≠ 1 → bits 2 0 ≠ 2 → wr 0x0500010 = .next (reserved s 0x0500010)) ∧
      (bits 3 0 = 0 ∨ 6 < bits 3 0 → wr 0x0700000 = .next (reserved s 0x0700000)) ∧
      (commandable s = true → s.ttBusy = false → bits 2 0 = 0 ∨ 4 < bits 2 0 → wr 0x0800008 = .next (reserved s 0x0800008)) ∧
      (commandable s = true → s.kvBusy = false → allocatorIn s = true → bits 3 0 = 0 ∨ 7 < bits 3 0 → wr 0x0900000 = .next (reserved s 0x0900000)) ∧
      (∀ (arg : BitVec 33) (m i : BitVec 4) (second on : Bool) (page count : BitVec 20) (x : CtxId) (y : SlotId),
        ∀ z ∈ commandWrites v arg m i second on page count x y p c, p.toNat < 6 → exec (.registerWrite .window z.1 z.2.1) s = exec z.2.2 s)) ∧
    (∀ cl : BitVec 2,
      let at_ : BitVec 26 := 0x100000 + 0x100 * cl.setWidth 26
      let t := bits 15 0
      (10 ≤ t → exec (.registerWrite .watchdog at_ v) s = .next (s.setWdt cl { s.wdt cl with en := v.getLsbD 16, timeoutMs := t })) ∧
      (t < 10 → exec (.registerWrite .watchdog at_ v) s = .next (reserved (s.setWdt cl { s.wdt cl with en := v.getLsbD 16 }) at_)) ∧
      exec (.registerWrite .watchdog (at_ + 8) v) s = exec (.wdtKick cl v) s) ∧
    (∀ (page : BitVec 13) (sz : BitVec 2) (hart : BitVec 4),
      let a := 2 ^ 26 * page.toNat + off.toNat
      let z := 2 ^ sz.toNat
      (a % z = 0 → masterReach s a = true → memWf s.mem = true →
        (∃ t, exec (.registerWrite (.main page sz) off v) s = .next t ∧ memLoad t.mem a z = v.toNat % 256 ^ z ∧
          (∀ b, Outside b (a, z) → memRead t.mem b = memRead s.mem b) ∧ t = { s with mem := t.mem, perf := t.perf }) ∧
        (s.poisoned a z = false → ∃ t, exec (.registerWrite (.mainLoad page sz hart) off v) s = .next t ∧ t.rdata = r (memLoad s.mem a z) ∧
          t = { s with rdata := t.rdata, perf := t.perf }) ∧
        (s.poisoned a z = true → exec (.registerWrite (.mainLoad page sz hart) off v) s = exec (.cdUncorr hart (r (2 ^ 48 + a)) false) s)) ∧
      (a % z ≠ 0 ∨ masterReach s a = false → exec (.registerWrite (.main page sz) off v) s = .next s ∧
        exec (.registerWrite (.mainLoad page sz hart) off v) s = .next s) ∧
      (off.toNat % z = 0 → off.toNat < 2 ^ 24 → exec (.registerWrite (.sram sz) off v) s = .next { s with sram := memStore s.sram off.toNat z v.toNat } ∧
        exec (.registerWrite (.sramLoad sz) off v) s = .next { s with rdata := r (memLoad s.sram off.toNat z) }) ∧
      (off.toNat % z = 0 → off.toNat < 2 ^ 20 →
        exec (.registerWrite (.session sz) off v) s =
          .next { s with sec := { s.sec with sessionStore := memStore s.sec.sessionStore off.toNat z v.toNat } } ∧
        exec (.registerWrite (.sessionLoad sz) off v) s = .next { s with rdata := r (memLoad s.sec.sessionStore off.toNat z) }))

/-- R39, R408 to R411, R463, R484 to R487: the management port takes one dynamic address, reads what it may and raises its interrupt with ALERT_N;
a public test instruction acts on the boundary-scan register and, with RESET_N high outside Evbin test mode, trips PROBE first; frames
go to their rings in order and MAC control frames pause priorities; the PCIe link trains at x16, else x8, else records an error, BAR2
is the carve-out range and BAR4 the register window that the master opens (log 45). -/
def Obligations.Devices : Prop :=
  ∀ (addr dyn : BitVec 7) (won tdi n : Bool) (what : MgtItem) (pins bits : BitVec 9) (block frame : List Byte) (ring vec : BitVec 6) (stamp off : Word)
    (fs : List (List Byte)) (f : RxFrame) (gs : List RxFrame) (tag : Option (BitVec 16)) (x16 x8 : Bool) (rate : BitVec 8) (val : Word) (base len : Nat)
    (win : BitVec 4) (sz : BitVec 2) (o26 : BitVec 26) (s : State),
    (s.armed = true → s.mgtAddr = none →
      exec (.setdasa addr dyn) s = .next (if addr.toNat = (0x48 + s.straps.toNat) % 128 then { s with mgtAddr := some dyn } else s) ∧
      exec (.entdaa dyn won) s = .next (if won then { s with mgtAddr := some dyn } else s)) ∧
    (s.mgtAddr ≠ none → exec (.setdasa addr dyn) s = .next s ∧ exec (.entdaa dyn won) s = .next s) ∧
    (s.armed = true → exec (.mgtRead what) s = .next { s with rdata := BitVec.ofNat 64 (mgtValue s what) } ∧
      mgtValue s .devState = pstateCode s.pstate + (if s.life = .locked then 8 else 0) + s.boot * 16 ∧ mgtValue s .devId = 0x0EB1D016) ∧
    (s.life = .locked → alertAsserted s = true) ∧ (s.log.alert = true → alertAsserted s = true) ∧
    (inBandInterrupt s = true ↔ s.mgtAddr ≠ none ∧ alertAsserted s = true) ∧
    (s.life ≠ .off →
      (s.resetN = false ∨ s.tap.evbin = true →
        exec (.tapBypass tdi) s = .next { s with tap := { s.tap with instr := 0, drive := false, shiftOut := s.tap.bypass, bypass := tdi }, rdata := if s.tap.bypass then 1 else 0 } ∧
        exec .tapIdcode s = .next { s with tap := { s.tap with instr := 1, drive := false }, rdata := Config.idcode.setWidth 64 } ∧
        exec (.tapSamplePreload pins bits) s = .next { s with tap := { s.tap with instr := 2, drive := false, bsr := bits }, rdata := pins.setWidth 64 } ∧
        exec .tapExtest s = .next { s with tap := { s.tap with instr := 3, drive := true } }) ∧
      (s.resetN = true → s.tap.evbin = false → ∃ t, exec .tapIdcode s = .next t ∧ t.sec.sensors.getLsbD 8 = true ∧ t.tap.instr = 1) ∧
      exec (.evbinTestUnlock block) s =
        .next (if s.resetN = false ∧ unlockOk s block = true then { s with tap := { s.tap with evbin := true } } else s)) ∧
    (s.up = true →
      (let y := s.eth n
       (exec (.registerWrite (.ethMac n) o26 val) s = .next (s.setEth n { y with mac := some (val.setWidth 48) }) ∧
        (y.mac ≠ none → exec (.registerWrite (.ethEnable n) o26 val) s = .next (s.setEth n { y with en := val.getLsbD 0 })) ∧
        (y.mac = none → exec (.registerWrite (.ethEnable n) o26 val) s = .next (s.setEth n { y with en := false })) ∧
        (let g := addTag frame tag
         64 ≤ g.length → g.length ≤ 9216 → exec (.registerWrite (.ethPost n ring frame tag false) o26 val) s =
          .next (s.setEth n { y with tx := mapSet y.tx ring.toNat ((mapGet y.tx ring.toNat).getD [] ++ [g]) })) ∧
        (mapGet y.rx ring.toNat = some (f :: gs) → exec (.registerWrite (.ethTake n ring) o26 val) s =
          .next { s.setEth n { y with rx := mapSet y.rx ring.toNat gs } with rdata := f.stamp })) ∧
       (y.en = true →
        (64 ≤ frame.length → frame.length ≤ 9216 →
          (isMacControl frame = false → ∃ t m, exec (.ethFrameRx n frame stamp) s = .next t ∧ m < 64 ∧
            mapGet (t.eth n).rx m = some ((mapGet y.rx m).getD [] ++ [⟨untag frame, stamp, sumsOk (untag frame)⟩]) ∧ (t.eth n).tx = y.tx ∧
            t.eth (!n) = s.eth (!n) ∧ (∀ z, hashInput (untag frame) = some z → m = toeplitz Config.toeplitzKey z % 64)) ∧
          (isMacControl frame = true → exec (.ethFrameRx n frame stamp) s =
            .next (s.setEth n { y with pause := (pauses frame).foldl (fun m e => mapSet m e.1 (s.bell + (64 * e.2 + 99) / 100)) y.pause }))) ∧
        (mapGet y.tx ring.toNat = some (frame :: fs) →
          ((mapGet y.pause (framePriority frame)).getD 0 ≤ s.bell → exec (.ethFrameTx n ring stamp) s =
            .next (s.setEth n { y with tx := mapSet y.tx ring.toNat fs, sent := y.sent ++ [(frame, stamp)] })) ∧
          (s.bell < (mapGet y.pause (framePriority frame)).getD 0 → exec (.ethFrameTx n ring stamp) s = .next s)))) ∧
      (x16 = true → exec (.pcieLinkTraining x16 x8 rate) s = .next { s with pcie := { s.pcie with width := 16, rate := rate.toNat } }) ∧
      (x16 = false → x8 = true → exec (.pcieLinkTraining x16 x8 rate) s = .next { s with pcie := { s.pcie with width := 8, rate := rate.toNat } }) ∧
      (x16 = false → x8 = false → exec (.pcieLinkTraining x16 x8 rate) s =
        .next (({ s with pcie := { s.pcie with width := 0, rate := 0 } } : State).error 2 0x010E 0 (leBytes 1 3 ++ leBytes 1 rate.toNat))) ∧
      exec .pcieHotReset s = .next { s with pcie := Pcie.reset } ∧
      (let open_ := exec (.registerWrite (.pcieBar2 len) o26 (BitVec.ofNat 64 base)) s
       base < 2 ^ 39 →
        (0 < len → len ≤ 2 ^ 34 → base % 2 ^ 21 = 0 → len % 2 ^ 21 = 0 → inCarveOut base len = true →
          open_ = .next { s with pcie := { s.pcie with bar2 := some (base, len) } }) ∧
        (0 < len → 2 ^ 34 < len ∨ base % 2 ^ 21 ≠ 0 ∨ len % 2 ^ 21 ≠ 0 ∨ inCarveOut base len = false → open_ = .next s) ∧
        (len = 0 → open_ = .next { s with pcie := { s.pcie with bar2 := none } })) ∧
      exec (.registerWrite .pcieBar4 o26 val) s = .next { s with pcie := { s.pcie with bar4 := val.getLsbD 0 } } ∧
      exec (.registerWrite (.outWindow win len) o26 val) s = .next { s with pcie := { s.pcie with windows := mapSet s.pcie.windows win.toNat (val.toNat, len) } } ∧
      (s.pcie.width ≠ 0 →
        exec (.registerWrite (.msix vec) o26 val) s = .next { s with pcie := { s.pcie with raised := s.pcie.raised ++ [vec] } } ∧
        (mapGet s.pcie.windows win.toNat = some (base, len) →
          let z := 2 ^ sz.toNat
          (o26.toNat + z ≤ len → exec (.registerWrite (.hostStore win sz) o26 val) s =
            .next { s with pcie := { s.pcie with toHost := s.pcie.toHost ++ [(base + o26.toNat, leBytes z val.toNat)] } }) ∧
          (len < o26.toNat + z → exec (.registerWrite (.hostStore win sz) o26 val) s = .next s ∧ exec (.registerWrite (.hostLoad win sz) o26 val) s = .next s)) ∧
        (s.pcie.bar4 = true → off.toNat < 2 ^ 26 → off.toNat % 8 = 0 →
          exec (.pcieBarAccess 4 off 8 (some val)) s = exec (.registerWrite .window (off.setWidth 26) val) s ∧
          ∃ t, exec (.pcieBarAccess 4 off 8 none) s = .next t ∧ t.rdata = BitVec.ofNat 64 ((windowReg s off.toNat).getD 0)) ∧
        (s.pcie.bar4 = false → exec (.pcieBarAccess 4 off 8 (some val)) s = .next s) ∧
        (s.pcie.bar2 = none → exec (.pcieBarAccess 2 off 8 (some val)) s = .next s ∧
          exec (.pcieBarAccess 2 off 8 none) s = .next { s with rdata := 0 }) ∧
        (s.pcie.bar2 = some (base, len) → off.toNat + 8 ≤ len → masterReach s (base + off.toNat) = true → memWf s.mem = true →
          (∃ t, exec (.pcieBarAccess 2 off 8 (some val)) s = .next t ∧ memLoad t.mem (base + off.toNat) 8 = val.toNat ∧
            (∀ b, Outside b (base + off.toNat, 8) → memRead t.mem b = memRead s.mem b) ∧ t = { s with mem := t.mem }) ∧
          (s.poisoned (base + off.toNat) 8 = false → exec (.pcieBarAccess 2 off 8 none) s =
            .next { s with rdata := BitVec.ofNat 64 (memLoad s.mem (base + off.toNat) 8) })) ∧
        (off.toNat + 8 ≤ 2 ^ 20 → memWf s.pcie.bar0 = true →
          ∃ t, exec (.pcieBarAccess 0 off 8 (some val)) s = .next t ∧ memLoad t.pcie.bar0 off.toNat 8 = val.toNat ∧
            (∀ b, Outside b (off.toNat, 8) → memRead t.pcie.bar0 b = memRead s.pcie.bar0 b) ∧ t = { s with pcie := t.pcie })))
end

