-- ==== Sys2Proof/Laws/Memory.lean ====
section
/-! SUPPORT. The laws of a byte memory: every operation keeps the canonical form; a read after a write gives the value written;
a write leaves every other byte alone. -/
namespace Sys2Proof.Machine

theorem memWfFrom_mono {lo lo' : Nat} (h : lo' ≤ lo) : {m : Mem} → memWfFrom lo m = true → memWfFrom lo' m = true
  | [], _ => rfl
  | (k, b) :: t, hm => by
    simp only [memWfFrom, Bool.and_eq_true, decide_eq_true_eq] at hm ⊢
    exact ⟨⟨by omega, hm.1.2⟩, hm.2⟩

theorem memWfFrom_tail {lo k : Nat} {b : Byte} {t : Mem} (h : memWfFrom lo ((k, b) :: t) = true) :
    lo ≤ k ∧ b ≠ memDefault ∧ memWfFrom (k + 1) t = true := by
  simp only [memWfFrom, Bool.and_eq_true, decide_eq_true_eq] at h
  exact ⟨h.1.1, h.1.2, h.2⟩

theorem memRead_below {m : Mem} : {lo : Nat} → memWfFrom lo m = true → {a : Nat} → a < lo → memRead m a = memDefault := by
  induction m with
  | nil => intro lo _ a _; rfl
  | cons e t ih =>
    obtain ⟨k, b⟩ := e
    intro lo h a ha
    have hk := (memWfFrom_tail h).1
    have h1 : a ≠ k := by omega
    have h2 : a < k := by omega
    simp [memRead, h1, h2]

theorem memWrite_wfFrom {m : Mem} {a : Nat} {x : Byte} :
    {lo : Nat} → memWfFrom lo m = true → lo ≤ a → memWfFrom lo (memWrite m a x) = true := by
  induction m with
  | nil =>
    intro lo _ ha
    by_cases hx : x = memDefault <;> simp [memWrite, hx, memWfFrom, ha]
  | cons e t ih =>
    obtain ⟨k, b⟩ := e
    intro lo h ha
    obtain ⟨h1, h2, h3⟩ := memWfFrom_tail h
    by_cases hk : a < k
    · by_cases hx : x = memDefault
      · simp [memWrite, hk, hx, h]
      · simp [memWrite, hk, hx, memWfFrom, ha, h2, h3]
        all_goals omega
    · by_cases hk' : a = k
      · by_cases hx : x = memDefault
        · simp [memWrite, hk', hx]
          exact memWfFrom_mono (by omega) h3
        · subst hk'; simp [memWrite, hx, memWfFrom, ha, h3]
      · have := ih (lo := k + 1) h3 (by omega)
        simp [memWrite, hk, hk', memWfFrom, h1, h2, this]

/-- A write keeps the canonical form. -/
theorem memWrite_wf {m : Mem} (h : memWf m = true) (a : Nat) (x : Byte) : memWf (memWrite m a x) = true :=
  memWrite_wfFrom h (Nat.zero_le a)

theorem memPut_wf {bs : List Byte} : {m : Mem} → memWf m = true → (a : Nat) → memWf (memPut m a bs) = true := by
  induction bs with
  | nil => intro m h a; exact h
  | cons b t ih => intro m h a; exact ih (memWrite_wf h a b) (a + 1)

theorem memStore_wf {m : Mem} (h : memWf m = true) (a len v : Nat) : memWf (memStore m a len v) = true := memPut_wf h a

theorem memFilter_wfFrom {m : Mem} (p : Host.Cell → Bool) : {lo : Nat} → memWfFrom lo m = true → memWfFrom lo (m.filter p) = true := by
  induction m with
  | nil => intro lo _; rfl
  | cons e t ih =>
    obtain ⟨k, b⟩ := e
    intro lo h
    obtain ⟨h1, h2, h3⟩ := memWfFrom_tail h
    have ht := ih h3
    by_cases hp : p (k, b) = true
    · simp [List.filter, hp, memWfFrom, h1, h2, ht]
    · simp only [Bool.not_eq_true] at hp
      simp only [List.filter, hp]
      exact memWfFrom_mono (by omega) ht

theorem memDrop_wf {m : Mem} (h : memWf m = true) (lo hi : Nat) : memWf (memDrop m lo hi) = true := memFilter_wfFrom _ h

theorem memCopy_wf {dst : Mem} (h : memWf dst = true) (src : Mem) (a b len : Nat) : memWf (memCopy dst src a b len) = true := by
  have key : ∀ (l : List Host.Cell) (m : Mem), memWf m = true →
      memWf (l.foldl (fun m e => memWrite m (b + (e.1 - a)) e.2) m) = true := by
    intro l
    induction l with
    | nil => intro m hm; exact hm
    | cons e t ih => intro m hm; exact ih _ (memWrite_wf hm _ _)
  exact key _ _ (memDrop_wf h b (b + len))

/-! Reads after writes. -/

theorem memRead_memWrite_same {m : Mem} {a : Nat} {x : Byte} : {lo : Nat} → memWfFrom lo m = true → memRead (memWrite m a x) a = x := by
  induction m with
  | nil => intro lo _; by_cases hx : x = memDefault <;> simp [memWrite, hx, memRead]
  | cons e t ih =>
    obtain ⟨k, b⟩ := e
    intro lo h
    obtain ⟨_, _, h3⟩ := memWfFrom_tail h
    by_cases hk : a < k
    · have hne : a ≠ k := by omega
      by_cases hx : x = memDefault <;> simp [memWrite, hk, hx, memRead, hne]
    · by_cases hk' : a = k
      · by_cases hx : x = memDefault
        · subst hk'; simp [memWrite, hx]; exact memRead_below h3 (by omega)
        · simp [memWrite, hk', hx, memRead]
      · simp [memWrite, hk, hk', memRead, ih h3]

theorem memRead_memWrite_other {m : Mem} {a b : Nat} {x : Byte} (hb : b ≠ a) :
    {lo : Nat} → memWfFrom lo m = true → memRead (memWrite m a x) b = memRead m b := by
  induction m with
  | nil =>
    intro lo _
    by_cases hx : x = memDefault
    · simp [memWrite, hx]
    · by_cases h : b < a <;> simp [memWrite, hx, memRead, hb, h]
  | cons e t ih =>
    obtain ⟨k, y⟩ := e
    intro lo h
    obtain ⟨_, _, h3⟩ := memWfFrom_tail h
    by_cases hk : a < k
    · by_cases hx : x = memDefault
      · simp [memWrite, hk, hx]
      · by_cases h2 : b < a
        · have h4 : b ≠ k := by omega
          have h5 : b < k := by omega
          simp [memWrite, hk, hx, memRead, hb, h2, h4, h5]
        · simp [memWrite, hk, hx, memRead, hb, h2]
    · by_cases hk' : a = k
      · subst hk'
        by_cases hx : x = memDefault
        · by_cases h2 : b < a
          · simp [memWrite, hx, memRead, hb, h2]; exact memRead_below h3 (by omega)
          · simp [memWrite, hx, memRead, hb, h2]
        · simp [memWrite, hx, memRead, hb]
      · simp [memWrite, hk, hk', memRead, ih h3]

/-- A put leaves every byte outside its span alone. -/
theorem memRead_memPut_outside {bs : List Byte} : {m : Mem} → memWf m = true → {a b : Nat} → (b < a ∨ a + bs.length ≤ b) →
    memRead (memPut m a bs) b = memRead m b := by
  induction bs with
  | nil => intro m _ a b _; rfl
  | cons x t ih =>
    intro m h a b hb
    simp only [List.length_cons] at hb
    have := ih (memWrite_wf h a x) (a := a + 1) (b := b) (by omega)
    simp only [memPut, this]
    exact memRead_memWrite_other (by omega) h

/-- A put gives each byte of its span. -/
theorem memRead_memPut_inside {bs : List Byte} : {m : Mem} → memWf m = true → {a i : Nat} → (hi : i < bs.length) →
    memRead (memPut m a bs) (a + i) = bs[i] := by
  induction bs with
  | nil => intro m _ a i hi; simp at hi
  | cons x t ih =>
    intro m h a i hi
    cases i with
    | zero =>
      simp only [memPut, Nat.add_zero, List.getElem_cons_zero]
      rw [memRead_memPut_outside (memWrite_wf h a x) (by omega)]
      exact memRead_memWrite_same h
    | succ j =>
      have := ih (memWrite_wf h a x) (a := a + 1) (i := j) (by simpa using hi)
      simp only [memPut, List.getElem_cons_succ]
      rw [show a + (j + 1) = a + 1 + j by omega]
      exact this

/-- The bytes of a span that was put are those put. -/
theorem memBytes_memPut {m : Mem} (h : memWf m = true) (a : Nat) (bs : List Byte) : memBytes (memPut m a bs) a bs.length = bs := by
  have key : ∀ (n k : Nat), k + n = bs.length → memBytes (memPut m a bs) (a + k) n = bs.drop k := by
    intro n
    induction n with
    | zero => intro k hk; simp [memBytes, show k = bs.length by omega]
    | succ n ih =>
      intro k hk
      have hlt : k < bs.length := by omega
      simp only [memBytes]
      rw [memRead_memPut_inside h hlt, show a + k + 1 = a + (k + 1) by omega, ih (k + 1) (by omega)]
      exact (List.drop_eq_getElem_cons hlt).symm
  simpa using key bs.length 0 (by omega)

/-! The memory operations of State. -/

theorem State.write_wf (s : State) (h : memWf s.mem = true) (a : Nat) (bs : List Byte) : memWf (s.write a bs).mem = true := memPut_wf h a
theorem State.store_wf (s : State) (h : memWf s.mem = true) (a n v : Nat) : memWf (s.store a n v).mem = true := memPut_wf h a
theorem State.zero_wf (s : State) (h : memWf s.mem = true) (a n : Nat) : memWf (s.zero a n).mem = true := memDrop_wf h a (a + n)

/-- A write leaves every byte outside its span alone. -/
theorem State.write_outside (s : State) (h : memWf s.mem = true) {a b : Nat} {bs : List Byte} (hb : b < a ∨ a + bs.length ≤ b) :
    memRead (s.write a bs).mem b = memRead s.mem b := memRead_memPut_outside h hb

/-- A read after a write gives the bytes written. -/
theorem State.write_read (s : State) (h : memWf s.mem = true) (a : Nat) (bs : List Byte) :
    memBytes (s.write a bs).mem a bs.length = bs := memBytes_memPut h a bs

theorem reset_memWf : memWf State.reset.mem = true := rfl

end Sys2Proof.Machine
end

