-- ==== Sys2Proof/Laws/State.lean ====
section
/-! SUPPORT. What each update of State leaves alone: one lemma per field, true by rfl, so that no proof unfolds a record update;
and the two laws of each map of State. -/
namespace Sys2Proof.Machine

/-! setCore: every field but cores. -/

@[simp] theorem State.setCore_pending (s : State) (c : CoreId) (x : Core) : (s.setCore c x).pending = s.pending := rfl
@[simp] theorem State.setCore_fresh (s : State) (c : CoreId) (x : Core) : (s.setCore c x).fresh = s.fresh := rfl
@[simp] theorem State.setCore_rdata (s : State) (c : CoreId) (x : Core) : (s.setCore c x).rdata = s.rdata := rfl
@[simp] theorem State.setCore_bell (s : State) (c : CoreId) (x : Core) : (s.setCore c x).bell = s.bell := rfl
@[simp] theorem State.setCore_life (s : State) (c : CoreId) (x : Core) : (s.setCore c x).life = s.life := rfl
@[simp] theorem State.setCore_pstate (s : State) (c : CoreId) (x : Core) : (s.setCore c x).pstate = s.pstate := rfl
@[simp] theorem State.setCore_boot (s : State) (c : CoreId) (x : Core) : (s.setCore c x).boot = s.boot := rfl
@[simp] theorem State.setCore_straps (s : State) (c : CoreId) (x : Core) : (s.setCore c x).straps = s.straps := rfl
@[simp] theorem State.setCore_resetN (s : State) (c : CoreId) (x : Core) : (s.setCore c x).resetN = s.resetN := rfl
@[simp] theorem State.setCore_powerGood (s : State) (c : CoreId) (x : Core) : (s.setCore c x).powerGood = s.powerGood := rfl
@[simp] theorem State.setCore_reading (s : State) (c : CoreId) (x : Core) : (s.setCore c x).reading = s.reading := rfl
@[simp] theorem State.setCore_mem (s : State) (c : CoreId) (x : Core) : (s.setCore c x).mem = s.mem := rfl
@[simp] theorem State.setCore_memPoison (s : State) (c : CoreId) (x : Core) : (s.setCore c x).memPoison = s.memPoison := rfl
@[simp] theorem State.setCore_net (s : State) (c : CoreId) (x : Core) : (s.setCore c x).net = s.net := rfl
@[simp] theorem State.setCore_lastBulk (s : State) (c : CoreId) (x : Core) : (s.setCore c x).lastBulk = s.lastBulk := rfl
@[simp] theorem State.setCore_lastNarrow (s : State) (c : CoreId) (x : Core) : (s.setCore c x).lastNarrow = s.lastNarrow := rfl
@[simp] theorem State.setCore_laneLast (s : State) (c : CoreId) (x : Core) : (s.setCore c x).laneLast = s.laneLast := rfl
@[simp] theorem State.setCore_scrubAt (s : State) (c : CoreId) (x : Core) : (s.setCore c x).scrubAt = s.scrubAt := rfl
@[simp] theorem State.setCore_wrecBase (s : State) (c : CoreId) (x : Core) : (s.setCore c x).wrecBase = s.wrecBase := rfl
@[simp] theorem State.setCore_wrecCount (s : State) (c : CoreId) (x : Core) : (s.setCore c x).wrecCount = s.wrecCount := rfl
@[simp] theorem State.setCore_flushBusy (s : State) (c : CoreId) (x : Core) : (s.setCore c x).flushBusy = s.flushBusy := rfl
@[simp] theorem State.setCore_flushAll (s : State) (c : CoreId) (x : Core) : (s.setCore c x).flushAll = s.flushAll := rfl
@[simp] theorem State.setCore_flushCtx (s : State) (c : CoreId) (x : Core) : (s.setCore c x).flushCtx = s.flushCtx := rfl
@[simp] theorem State.setCore_ttbase (s : State) (c : CoreId) (x : Core) : (s.setCore c x).ttbase = s.ttbase := rfl
@[simp] theorem State.setCore_winA (s : State) (c : CoreId) (x : Core) : (s.setCore c x).winA = s.winA := rfl
@[simp] theorem State.setCore_winB (s : State) (c : CoreId) (x : Core) : (s.setCore c x).winB = s.winB := rfl
@[simp] theorem State.setCore_impA (s : State) (c : CoreId) (x : Core) : (s.setCore c x).impA = s.impA := rfl
@[simp] theorem State.setCore_impB (s : State) (c : CoreId) (x : Core) : (s.setCore c x).impB = s.impB := rfl
@[simp] theorem State.setCore_lib (s : State) (c : CoreId) (x : Core) : (s.setCore c x).lib = s.lib := rfl
@[simp] theorem State.setCore_libPages (s : State) (c : CoreId) (x : Core) : (s.setCore c x).libPages = s.libPages := rfl
@[simp] theorem State.setCore_parity (s : State) (c : CoreId) (x : Core) : (s.setCore c x).parity = s.parity := rfl
@[simp] theorem State.setCore_libSrc (s : State) (c : CoreId) (x : Core) : (s.setCore c x).libSrc = s.libSrc := rfl
@[simp] theorem State.setCore_libBusy (s : State) (c : CoreId) (x : Core) : (s.setCore c x).libBusy = s.libBusy := rfl
@[simp] theorem State.setCore_libOp (s : State) (c : CoreId) (x : Core) : (s.setCore c x).libOp = s.libOp := rfl
@[simp] theorem State.setCore_libResult (s : State) (c : CoreId) (x : Core) : (s.setCore c x).libResult = s.libResult := rfl
@[simp] theorem State.setCore_libPendingResult (s : State) (c : CoreId) (x : Core) : (s.setCore c x).libPendingResult = s.libPendingResult := rfl
@[simp] theorem State.setCore_libRetryOk (s : State) (c : CoreId) (x : Core) : (s.setCore c x).libRetryOk = s.libRetryOk := rfl
@[simp] theorem State.setCore_libRebuilt (s : State) (c : CoreId) (x : Core) : (s.setCore c x).libRebuilt = s.libRebuilt := rfl
@[simp] theorem State.setCore_libLost (s : State) (c : CoreId) (x : Core) : (s.setCore c x).libLost = s.libLost := rfl
@[simp] theorem State.setCore_dropWait (s : State) (c : CoreId) (x : Core) : (s.setCore c x).dropWait = s.dropWait := rfl
@[simp] theorem State.setCore_libRetry (s : State) (c : CoreId) (x : Core) : (s.setCore c x).libRetry = s.libRetry := rfl
@[simp] theorem State.setCore_migs (s : State) (c : CoreId) (x : Core) : (s.setCore c x).migs = s.migs := rfl
@[simp] theorem State.setCore_wlatch (s : State) (c : CoreId) (x : Core) : (s.setCore c x).wlatch = s.wlatch := rfl
@[simp] theorem State.setCore_libPage0 (s : State) (c : CoreId) (x : Core) : (s.setCore c x).libPage0 = s.libPage0 := rfl
@[simp] theorem State.setCore_libCount (s : State) (c : CoreId) (x : Core) : (s.setCore c x).libCount = s.libCount := rfl
@[simp] theorem State.setCore_formLines (s : State) (c : CoreId) (x : Core) : (s.setCore c x).formLines = s.formLines := rfl
@[simp] theorem State.setCore_unitsOut (s : State) (c : CoreId) (x : Core) : (s.setCore c x).unitsOut = s.unitsOut := rfl
@[simp] theorem State.setCore_epoch0 (s : State) (c : CoreId) (x : Core) : (s.setCore c x).epoch0 = s.epoch0 := rfl
@[simp] theorem State.setCore_epoch1 (s : State) (c : CoreId) (x : Core) : (s.setCore c x).epoch1 = s.epoch1 := rfl
@[simp] theorem State.setCore_devScratch (s : State) (c : CoreId) (x : Core) : (s.setCore c x).devScratch = s.devScratch := rfl
@[simp] theorem State.setCore_intr (s : State) (c : CoreId) (x : Core) : (s.setCore c x).intr = s.intr := rfl
@[simp] theorem State.setCore_intrEn (s : State) (c : CoreId) (x : Core) : (s.setCore c x).intrEn = s.intrEn := rfl
@[simp] theorem State.setCore_ctxs (s : State) (c : CoreId) (x : Core) : (s.setCore c x).ctxs = s.ctxs := rfl
@[simp] theorem State.setCore_ttCtxBase (s : State) (c : CoreId) (x : Core) : (s.setCore c x).ttCtxBase = s.ttCtxBase := rfl
@[simp] theorem State.setCore_ttBusy (s : State) (c : CoreId) (x : Core) : (s.setCore c x).ttBusy = s.ttBusy := rfl
@[simp] theorem State.setCore_ttResult (s : State) (c : CoreId) (x : Core) : (s.setCore c x).ttResult = s.ttResult := rfl
@[simp] theorem State.setCore_ttOp (s : State) (c : CoreId) (x : Core) : (s.setCore c x).ttOp = s.ttOp := rfl
@[simp] theorem State.setCore_ttCtx (s : State) (c : CoreId) (x : Core) : (s.setCore c x).ttCtx = s.ttCtx := rfl
@[simp] theorem State.setCore_pools (s : State) (c : CoreId) (x : Core) : (s.setCore c x).pools = s.pools := rfl
@[simp] theorem State.setCore_kvCtxs (s : State) (c : CoreId) (x : Core) : (s.setCore c x).kvCtxs = s.kvCtxs := rfl
@[simp] theorem State.setCore_slots (s : State) (c : CoreId) (x : Core) : (s.setCore c x).slots = s.slots := rfl
@[simp] theorem State.setCore_kvArg0 (s : State) (c : CoreId) (x : Core) : (s.setCore c x).kvArg0 = s.kvArg0 := rfl
@[simp] theorem State.setCore_kvArg1 (s : State) (c : CoreId) (x : Core) : (s.setCore c x).kvArg1 = s.kvArg1 := rfl
@[simp] theorem State.setCore_kvArg2 (s : State) (c : CoreId) (x : Core) : (s.setCore c x).kvArg2 = s.kvArg2 := rfl
@[simp] theorem State.setCore_kvBusy (s : State) (c : CoreId) (x : Core) : (s.setCore c x).kvBusy = s.kvBusy := rfl
@[simp] theorem State.setCore_kvResult (s : State) (c : CoreId) (x : Core) : (s.setCore c x).kvResult = s.kvResult := rfl
@[simp] theorem State.setCore_kvOp (s : State) (c : CoreId) (x : Core) : (s.setCore c x).kvOp = s.kvOp := rfl
@[simp] theorem State.setCore_kvSlot (s : State) (c : CoreId) (x : Core) : (s.setCore c x).kvSlot = s.kvSlot := rfl
@[simp] theorem State.setCore_kvStep (s : State) (c : CoreId) (x : Core) : (s.setCore c x).kvStep = s.kvStep := rfl
@[simp] theorem State.setCore_kvBoundary (s : State) (c : CoreId) (x : Core) : (s.setCore c x).kvBoundary = s.kvBoundary := rfl
@[simp] theorem State.setCore_kvTrans (s : State) (c : CoreId) (x : Core) : (s.setCore c x).kvTrans = s.kvTrans := rfl
@[simp] theorem State.setCore_kvCommitting (s : State) (c : CoreId) (x : Core) : (s.setCore c x).kvCommitting = s.kvCommitting := rfl
@[simp] theorem State.setCore_kvEdit (s : State) (c : CoreId) (x : Core) : (s.setCore c x).kvEdit = s.kvEdit := rfl
@[simp] theorem State.setCore_retired (s : State) (c : CoreId) (x : Core) : (s.setCore c x).retired = s.retired := rfl
@[simp] theorem State.setCore_failedSets (s : State) (c : CoreId) (x : Core) : (s.setCore c x).failedSets = s.failedSets := rfl
@[simp] theorem State.setCore_chipId (s : State) (c : CoreId) (x : Core) : (s.setCore c x).chipId = s.chipId := rfl
@[simp] theorem State.setCore_chipValid (s : State) (c : CoreId) (x : Core) : (s.setCore c x).chipValid = s.chipValid := rfl
@[simp] theorem State.setCore_dims (s : State) (c : CoreId) (x : Core) : (s.setCore c x).dims = s.dims := rfl
@[simp] theorem State.setCore_routes (s : State) (c : CoreId) (x : Core) : (s.setCore c x).routes = s.routes := rfl
@[simp] theorem State.setCore_ports (s : State) (c : CoreId) (x : Core) : (s.setCore c x).ports = s.ports := rfl
@[simp] theorem State.setCore_inbox (s : State) (c : CoreId) (x : Core) : (s.setCore c x).inbox = s.inbox := rfl
@[simp] theorem State.setCore_asked (s : State) (c : CoreId) (x : Core) : (s.setCore c x).asked = s.asked := rfl
@[simp] theorem State.setCore_nextTag (s : State) (c : CoreId) (x : Core) : (s.setCore c x).nextTag = s.nextTag := rfl
@[simp] theorem State.setCore_incoming (s : State) (c : CoreId) (x : Core) : (s.setCore c x).incoming = s.incoming := rfl
@[simp] theorem State.setCore_stuck (s : State) (c : CoreId) (x : Core) : (s.setCore c x).stuck = s.stuck := rfl
@[simp] theorem State.setCore_heldIn (s : State) (c : CoreId) (x : Core) : (s.setCore c x).heldIn = s.heldIn := rfl
@[simp] theorem State.setCore_bellRoot (s : State) (c : CoreId) (x : Core) : (s.setCore c x).bellRoot = s.bellRoot := rfl
@[simp] theorem State.setCore_bellState (s : State) (c : CoreId) (x : Core) : (s.setCore c x).bellState = s.bellState := rfl
@[simp] theorem State.setCore_bellRate (s : State) (c : CoreId) (x : Core) : (s.setCore c x).bellRate = s.bellRate := rfl
@[simp] theorem State.setCore_bellMax (s : State) (c : CoreId) (x : Core) : (s.setCore c x).bellMax = s.bellMax := rfl
@[simp] theorem State.setCore_bellLost (s : State) (c : CoreId) (x : Core) : (s.setCore c x).bellLost = s.bellLost := rfl
@[simp] theorem State.setCore_bellStepped (s : State) (c : CoreId) (x : Core) : (s.setCore c x).bellStepped = s.bellStepped := rfl
@[simp] theorem State.setCore_bellSlew (s : State) (c : CoreId) (x : Core) : (s.setCore c x).bellSlew = s.bellSlew := rfl
@[simp] theorem State.setCore_power (s : State) (c : CoreId) (x : Core) : (s.setCore c x).power = s.power := rfl
@[simp] theorem State.setCore_sec (s : State) (c : CoreId) (x : Core) : (s.setCore c x).sec = s.sec := rfl
@[simp] theorem State.setCore_log (s : State) (c : CoreId) (x : Core) : (s.setCore c x).log = s.log := rfl
@[simp] theorem State.setCore_wdts (s : State) (c : CoreId) (x : Core) : (s.setCore c x).wdts = s.wdts := rfl
@[simp] theorem State.setCore_hartErr (s : State) (c : CoreId) (x : Core) : (s.setCore c x).hartErr = s.hartErr := rfl
@[simp] theorem State.setCore_sram (s : State) (c : CoreId) (x : Core) : (s.setCore c x).sram = s.sram := rfl
@[simp] theorem State.setCore_eths (s : State) (c : CoreId) (x : Core) : (s.setCore c x).eths = s.eths := rfl
@[simp] theorem State.setCore_pcie (s : State) (c : CoreId) (x : Core) : (s.setCore c x).pcie = s.pcie := rfl
@[simp] theorem State.setCore_mgtAddr (s : State) (c : CoreId) (x : Core) : (s.setCore c x).mgtAddr = s.mgtAddr := rfl
@[simp] theorem State.setCore_tap (s : State) (c : CoreId) (x : Core) : (s.setCore c x).tap = s.tap := rfl
@[simp] theorem State.setCore_perf (s : State) (c : CoreId) (x : Core) : (s.setCore c x).perf = s.perf := rfl
@[simp] theorem State.setCore_perfCopy (s : State) (c : CoreId) (x : Core) : (s.setCore c x).perfCopy = s.perfCopy := rfl
@[simp] theorem State.setCore_snapPending (s : State) (c : CoreId) (x : Core) : (s.setCore c x).snapPending = s.snapPending := rfl
@[simp] theorem State.setCore_snapValid (s : State) (c : CoreId) (x : Core) : (s.setCore c x).snapValid = s.snapValid := rfl

/-! setCtx: every field but ctxs. -/

@[simp] theorem State.setCtx_pending (s : State) (c : CtxId) (x : Ctx) : (s.setCtx c x).pending = s.pending := rfl
@[simp] theorem State.setCtx_fresh (s : State) (c : CtxId) (x : Ctx) : (s.setCtx c x).fresh = s.fresh := rfl
@[simp] theorem State.setCtx_rdata (s : State) (c : CtxId) (x : Ctx) : (s.setCtx c x).rdata = s.rdata := rfl
@[simp] theorem State.setCtx_bell (s : State) (c : CtxId) (x : Ctx) : (s.setCtx c x).bell = s.bell := rfl
@[simp] theorem State.setCtx_life (s : State) (c : CtxId) (x : Ctx) : (s.setCtx c x).life = s.life := rfl
@[simp] theorem State.setCtx_pstate (s : State) (c : CtxId) (x : Ctx) : (s.setCtx c x).pstate = s.pstate := rfl
@[simp] theorem State.setCtx_boot (s : State) (c : CtxId) (x : Ctx) : (s.setCtx c x).boot = s.boot := rfl
@[simp] theorem State.setCtx_straps (s : State) (c : CtxId) (x : Ctx) : (s.setCtx c x).straps = s.straps := rfl
@[simp] theorem State.setCtx_resetN (s : State) (c : CtxId) (x : Ctx) : (s.setCtx c x).resetN = s.resetN := rfl
@[simp] theorem State.setCtx_powerGood (s : State) (c : CtxId) (x : Ctx) : (s.setCtx c x).powerGood = s.powerGood := rfl
@[simp] theorem State.setCtx_reading (s : State) (c : CtxId) (x : Ctx) : (s.setCtx c x).reading = s.reading := rfl
@[simp] theorem State.setCtx_cores (s : State) (c : CtxId) (x : Ctx) : (s.setCtx c x).cores = s.cores := rfl
@[simp] theorem State.setCtx_mem (s : State) (c : CtxId) (x : Ctx) : (s.setCtx c x).mem = s.mem := rfl
@[simp] theorem State.setCtx_memPoison (s : State) (c : CtxId) (x : Ctx) : (s.setCtx c x).memPoison = s.memPoison := rfl
@[simp] theorem State.setCtx_net (s : State) (c : CtxId) (x : Ctx) : (s.setCtx c x).net = s.net := rfl
@[simp] theorem State.setCtx_lastBulk (s : State) (c : CtxId) (x : Ctx) : (s.setCtx c x).lastBulk = s.lastBulk := rfl
@[simp] theorem State.setCtx_lastNarrow (s : State) (c : CtxId) (x : Ctx) : (s.setCtx c x).lastNarrow = s.lastNarrow := rfl
@[simp] theorem State.setCtx_laneLast (s : State) (c : CtxId) (x : Ctx) : (s.setCtx c x).laneLast = s.laneLast := rfl
@[simp] theorem State.setCtx_scrubAt (s : State) (c : CtxId) (x : Ctx) : (s.setCtx c x).scrubAt = s.scrubAt := rfl
@[simp] theorem State.setCtx_wrecBase (s : State) (c : CtxId) (x : Ctx) : (s.setCtx c x).wrecBase = s.wrecBase := rfl
@[simp] theorem State.setCtx_wrecCount (s : State) (c : CtxId) (x : Ctx) : (s.setCtx c x).wrecCount = s.wrecCount := rfl
@[simp] theorem State.setCtx_flushBusy (s : State) (c : CtxId) (x : Ctx) : (s.setCtx c x).flushBusy = s.flushBusy := rfl
@[simp] theorem State.setCtx_flushAll (s : State) (c : CtxId) (x : Ctx) : (s.setCtx c x).flushAll = s.flushAll := rfl
@[simp] theorem State.setCtx_flushCtx (s : State) (c : CtxId) (x : Ctx) : (s.setCtx c x).flushCtx = s.flushCtx := rfl
@[simp] theorem State.setCtx_ttbase (s : State) (c : CtxId) (x : Ctx) : (s.setCtx c x).ttbase = s.ttbase := rfl
@[simp] theorem State.setCtx_winA (s : State) (c : CtxId) (x : Ctx) : (s.setCtx c x).winA = s.winA := rfl
@[simp] theorem State.setCtx_winB (s : State) (c : CtxId) (x : Ctx) : (s.setCtx c x).winB = s.winB := rfl
@[simp] theorem State.setCtx_impA (s : State) (c : CtxId) (x : Ctx) : (s.setCtx c x).impA = s.impA := rfl
@[simp] theorem State.setCtx_impB (s : State) (c : CtxId) (x : Ctx) : (s.setCtx c x).impB = s.impB := rfl
@[simp] theorem State.setCtx_lib (s : State) (c : CtxId) (x : Ctx) : (s.setCtx c x).lib = s.lib := rfl
@[simp] theorem State.setCtx_libPages (s : State) (c : CtxId) (x : Ctx) : (s.setCtx c x).libPages = s.libPages := rfl
@[simp] theorem State.setCtx_parity (s : State) (c : CtxId) (x : Ctx) : (s.setCtx c x).parity = s.parity := rfl
@[simp] theorem State.setCtx_libSrc (s : State) (c : CtxId) (x : Ctx) : (s.setCtx c x).libSrc = s.libSrc := rfl
@[simp] theorem State.setCtx_libBusy (s : State) (c : CtxId) (x : Ctx) : (s.setCtx c x).libBusy = s.libBusy := rfl
@[simp] theorem State.setCtx_libOp (s : State) (c : CtxId) (x : Ctx) : (s.setCtx c x).libOp = s.libOp := rfl
@[simp] theorem State.setCtx_libResult (s : State) (c : CtxId) (x : Ctx) : (s.setCtx c x).libResult = s.libResult := rfl
@[simp] theorem State.setCtx_libPendingResult (s : State) (c : CtxId) (x : Ctx) : (s.setCtx c x).libPendingResult = s.libPendingResult := rfl
@[simp] theorem State.setCtx_libRetryOk (s : State) (c : CtxId) (x : Ctx) : (s.setCtx c x).libRetryOk = s.libRetryOk := rfl
@[simp] theorem State.setCtx_libRebuilt (s : State) (c : CtxId) (x : Ctx) : (s.setCtx c x).libRebuilt = s.libRebuilt := rfl
@[simp] theorem State.setCtx_libLost (s : State) (c : CtxId) (x : Ctx) : (s.setCtx c x).libLost = s.libLost := rfl
@[simp] theorem State.setCtx_dropWait (s : State) (c : CtxId) (x : Ctx) : (s.setCtx c x).dropWait = s.dropWait := rfl
@[simp] theorem State.setCtx_libRetry (s : State) (c : CtxId) (x : Ctx) : (s.setCtx c x).libRetry = s.libRetry := rfl
@[simp] theorem State.setCtx_migs (s : State) (c : CtxId) (x : Ctx) : (s.setCtx c x).migs = s.migs := rfl
@[simp] theorem State.setCtx_wlatch (s : State) (c : CtxId) (x : Ctx) : (s.setCtx c x).wlatch = s.wlatch := rfl
@[simp] theorem State.setCtx_libPage0 (s : State) (c : CtxId) (x : Ctx) : (s.setCtx c x).libPage0 = s.libPage0 := rfl
@[simp] theorem State.setCtx_libCount (s : State) (c : CtxId) (x : Ctx) : (s.setCtx c x).libCount = s.libCount := rfl
@[simp] theorem State.setCtx_formLines (s : State) (c : CtxId) (x : Ctx) : (s.setCtx c x).formLines = s.formLines := rfl
@[simp] theorem State.setCtx_unitsOut (s : State) (c : CtxId) (x : Ctx) : (s.setCtx c x).unitsOut = s.unitsOut := rfl
@[simp] theorem State.setCtx_epoch0 (s : State) (c : CtxId) (x : Ctx) : (s.setCtx c x).epoch0 = s.epoch0 := rfl
@[simp] theorem State.setCtx_epoch1 (s : State) (c : CtxId) (x : Ctx) : (s.setCtx c x).epoch1 = s.epoch1 := rfl
@[simp] theorem State.setCtx_devScratch (s : State) (c : CtxId) (x : Ctx) : (s.setCtx c x).devScratch = s.devScratch := rfl
@[simp] theorem State.setCtx_intr (s : State) (c : CtxId) (x : Ctx) : (s.setCtx c x).intr = s.intr := rfl
@[simp] theorem State.setCtx_intrEn (s : State) (c : CtxId) (x : Ctx) : (s.setCtx c x).intrEn = s.intrEn := rfl
@[simp] theorem State.setCtx_ttCtxBase (s : State) (c : CtxId) (x : Ctx) : (s.setCtx c x).ttCtxBase = s.ttCtxBase := rfl
@[simp] theorem State.setCtx_ttBusy (s : State) (c : CtxId) (x : Ctx) : (s.setCtx c x).ttBusy = s.ttBusy := rfl
@[simp] theorem State.setCtx_ttResult (s : State) (c : CtxId) (x : Ctx) : (s.setCtx c x).ttResult = s.ttResult := rfl
@[simp] theorem State.setCtx_ttOp (s : State) (c : CtxId) (x : Ctx) : (s.setCtx c x).ttOp = s.ttOp := rfl
@[simp] theorem State.setCtx_ttCtx (s : State) (c : CtxId) (x : Ctx) : (s.setCtx c x).ttCtx = s.ttCtx := rfl
@[simp] theorem State.setCtx_pools (s : State) (c : CtxId) (x : Ctx) : (s.setCtx c x).pools = s.pools := rfl
@[simp] theorem State.setCtx_kvCtxs (s : State) (c : CtxId) (x : Ctx) : (s.setCtx c x).kvCtxs = s.kvCtxs := rfl
@[simp] theorem State.setCtx_slots (s : State) (c : CtxId) (x : Ctx) : (s.setCtx c x).slots = s.slots := rfl
@[simp] theorem State.setCtx_kvArg0 (s : State) (c : CtxId) (x : Ctx) : (s.setCtx c x).kvArg0 = s.kvArg0 := rfl
@[simp] theorem State.setCtx_kvArg1 (s : State) (c : CtxId) (x : Ctx) : (s.setCtx c x).kvArg1 = s.kvArg1 := rfl
@[simp] theorem State.setCtx_kvArg2 (s : State) (c : CtxId) (x : Ctx) : (s.setCtx c x).kvArg2 = s.kvArg2 := rfl
@[simp] theorem State.setCtx_kvBusy (s : State) (c : CtxId) (x : Ctx) : (s.setCtx c x).kvBusy = s.kvBusy := rfl
@[simp] theorem State.setCtx_kvResult (s : State) (c : CtxId) (x : Ctx) : (s.setCtx c x).kvResult = s.kvResult := rfl
@[simp] theorem State.setCtx_kvOp (s : State) (c : CtxId) (x : Ctx) : (s.setCtx c x).kvOp = s.kvOp := rfl
@[simp] theorem State.setCtx_kvSlot (s : State) (c : CtxId) (x : Ctx) : (s.setCtx c x).kvSlot = s.kvSlot := rfl
@[simp] theorem State.setCtx_kvStep (s : State) (c : CtxId) (x : Ctx) : (s.setCtx c x).kvStep = s.kvStep := rfl
@[simp] theorem State.setCtx_kvBoundary (s : State) (c : CtxId) (x : Ctx) : (s.setCtx c x).kvBoundary = s.kvBoundary := rfl
@[simp] theorem State.setCtx_kvTrans (s : State) (c : CtxId) (x : Ctx) : (s.setCtx c x).kvTrans = s.kvTrans := rfl
@[simp] theorem State.setCtx_kvCommitting (s : State) (c : CtxId) (x : Ctx) : (s.setCtx c x).kvCommitting = s.kvCommitting := rfl
@[simp] theorem State.setCtx_kvEdit (s : State) (c : CtxId) (x : Ctx) : (s.setCtx c x).kvEdit = s.kvEdit := rfl
@[simp] theorem State.setCtx_retired (s : State) (c : CtxId) (x : Ctx) : (s.setCtx c x).retired = s.retired := rfl
@[simp] theorem State.setCtx_failedSets (s : State) (c : CtxId) (x : Ctx) : (s.setCtx c x).failedSets = s.failedSets := rfl
@[simp] theorem State.setCtx_chipId (s : State) (c : CtxId) (x : Ctx) : (s.setCtx c x).chipId = s.chipId := rfl
@[simp] theorem State.setCtx_chipValid (s : State) (c : CtxId) (x : Ctx) : (s.setCtx c x).chipValid = s.chipValid := rfl
@[simp] theorem State.setCtx_dims (s : State) (c : CtxId) (x : Ctx) : (s.setCtx c x).dims = s.dims := rfl
@[simp] theorem State.setCtx_routes (s : State) (c : CtxId) (x : Ctx) : (s.setCtx c x).routes = s.routes := rfl
@[simp] theorem State.setCtx_ports (s : State) (c : CtxId) (x : Ctx) : (s.setCtx c x).ports = s.ports := rfl
@[simp] theorem State.setCtx_inbox (s : State) (c : CtxId) (x : Ctx) : (s.setCtx c x).inbox = s.inbox := rfl
@[simp] theorem State.setCtx_asked (s : State) (c : CtxId) (x : Ctx) : (s.setCtx c x).asked = s.asked := rfl
@[simp] theorem State.setCtx_nextTag (s : State) (c : CtxId) (x : Ctx) : (s.setCtx c x).nextTag = s.nextTag := rfl
@[simp] theorem State.setCtx_incoming (s : State) (c : CtxId) (x : Ctx) : (s.setCtx c x).incoming = s.incoming := rfl
@[simp] theorem State.setCtx_stuck (s : State) (c : CtxId) (x : Ctx) : (s.setCtx c x).stuck = s.stuck := rfl
@[simp] theorem State.setCtx_heldIn (s : State) (c : CtxId) (x : Ctx) : (s.setCtx c x).heldIn = s.heldIn := rfl
@[simp] theorem State.setCtx_bellRoot (s : State) (c : CtxId) (x : Ctx) : (s.setCtx c x).bellRoot = s.bellRoot := rfl
@[simp] theorem State.setCtx_bellState (s : State) (c : CtxId) (x : Ctx) : (s.setCtx c x).bellState = s.bellState := rfl
@[simp] theorem State.setCtx_bellRate (s : State) (c : CtxId) (x : Ctx) : (s.setCtx c x).bellRate = s.bellRate := rfl
@[simp] theorem State.setCtx_bellMax (s : State) (c : CtxId) (x : Ctx) : (s.setCtx c x).bellMax = s.bellMax := rfl
@[simp] theorem State.setCtx_bellLost (s : State) (c : CtxId) (x : Ctx) : (s.setCtx c x).bellLost = s.bellLost := rfl
@[simp] theorem State.setCtx_bellStepped (s : State) (c : CtxId) (x : Ctx) : (s.setCtx c x).bellStepped = s.bellStepped := rfl
@[simp] theorem State.setCtx_bellSlew (s : State) (c : CtxId) (x : Ctx) : (s.setCtx c x).bellSlew = s.bellSlew := rfl
@[simp] theorem State.setCtx_power (s : State) (c : CtxId) (x : Ctx) : (s.setCtx c x).power = s.power := rfl
@[simp] theorem State.setCtx_sec (s : State) (c : CtxId) (x : Ctx) : (s.setCtx c x).sec = s.sec := rfl
@[simp] theorem State.setCtx_log (s : State) (c : CtxId) (x : Ctx) : (s.setCtx c x).log = s.log := rfl
@[simp] theorem State.setCtx_wdts (s : State) (c : CtxId) (x : Ctx) : (s.setCtx c x).wdts = s.wdts := rfl
@[simp] theorem State.setCtx_hartErr (s : State) (c : CtxId) (x : Ctx) : (s.setCtx c x).hartErr = s.hartErr := rfl
@[simp] theorem State.setCtx_sram (s : State) (c : CtxId) (x : Ctx) : (s.setCtx c x).sram = s.sram := rfl
@[simp] theorem State.setCtx_eths (s : State) (c : CtxId) (x : Ctx) : (s.setCtx c x).eths = s.eths := rfl
@[simp] theorem State.setCtx_pcie (s : State) (c : CtxId) (x : Ctx) : (s.setCtx c x).pcie = s.pcie := rfl
@[simp] theorem State.setCtx_mgtAddr (s : State) (c : CtxId) (x : Ctx) : (s.setCtx c x).mgtAddr = s.mgtAddr := rfl
@[simp] theorem State.setCtx_tap (s : State) (c : CtxId) (x : Ctx) : (s.setCtx c x).tap = s.tap := rfl
@[simp] theorem State.setCtx_perf (s : State) (c : CtxId) (x : Ctx) : (s.setCtx c x).perf = s.perf := rfl
@[simp] theorem State.setCtx_perfCopy (s : State) (c : CtxId) (x : Ctx) : (s.setCtx c x).perfCopy = s.perfCopy := rfl
@[simp] theorem State.setCtx_snapPending (s : State) (c : CtxId) (x : Ctx) : (s.setCtx c x).snapPending = s.snapPending := rfl
@[simp] theorem State.setCtx_snapValid (s : State) (c : CtxId) (x : Ctx) : (s.setCtx c x).snapValid = s.snapValid := rfl

/-! setSlot: every field but slots. -/

@[simp] theorem State.setSlot_pending (s : State) (n : SlotId) (x : Slot) : (s.setSlot n x).pending = s.pending := rfl
@[simp] theorem State.setSlot_fresh (s : State) (n : SlotId) (x : Slot) : (s.setSlot n x).fresh = s.fresh := rfl
@[simp] theorem State.setSlot_rdata (s : State) (n : SlotId) (x : Slot) : (s.setSlot n x).rdata = s.rdata := rfl
@[simp] theorem State.setSlot_bell (s : State) (n : SlotId) (x : Slot) : (s.setSlot n x).bell = s.bell := rfl
@[simp] theorem State.setSlot_life (s : State) (n : SlotId) (x : Slot) : (s.setSlot n x).life = s.life := rfl
@[simp] theorem State.setSlot_pstate (s : State) (n : SlotId) (x : Slot) : (s.setSlot n x).pstate = s.pstate := rfl
@[simp] theorem State.setSlot_boot (s : State) (n : SlotId) (x : Slot) : (s.setSlot n x).boot = s.boot := rfl
@[simp] theorem State.setSlot_straps (s : State) (n : SlotId) (x : Slot) : (s.setSlot n x).straps = s.straps := rfl
@[simp] theorem State.setSlot_resetN (s : State) (n : SlotId) (x : Slot) : (s.setSlot n x).resetN = s.resetN := rfl
@[simp] theorem State.setSlot_powerGood (s : State) (n : SlotId) (x : Slot) : (s.setSlot n x).powerGood = s.powerGood := rfl
@[simp] theorem State.setSlot_reading (s : State) (n : SlotId) (x : Slot) : (s.setSlot n x).reading = s.reading := rfl
@[simp] theorem State.setSlot_cores (s : State) (n : SlotId) (x : Slot) : (s.setSlot n x).cores = s.cores := rfl
@[simp] theorem State.setSlot_mem (s : State) (n : SlotId) (x : Slot) : (s.setSlot n x).mem = s.mem := rfl
@[simp] theorem State.setSlot_memPoison (s : State) (n : SlotId) (x : Slot) : (s.setSlot n x).memPoison = s.memPoison := rfl
@[simp] theorem State.setSlot_net (s : State) (n : SlotId) (x : Slot) : (s.setSlot n x).net = s.net := rfl
@[simp] theorem State.setSlot_lastBulk (s : State) (n : SlotId) (x : Slot) : (s.setSlot n x).lastBulk = s.lastBulk := rfl
@[simp] theorem State.setSlot_lastNarrow (s : State) (n : SlotId) (x : Slot) : (s.setSlot n x).lastNarrow = s.lastNarrow := rfl
@[simp] theorem State.setSlot_laneLast (s : State) (n : SlotId) (x : Slot) : (s.setSlot n x).laneLast = s.laneLast := rfl
@[simp] theorem State.setSlot_scrubAt (s : State) (n : SlotId) (x : Slot) : (s.setSlot n x).scrubAt = s.scrubAt := rfl
@[simp] theorem State.setSlot_wrecBase (s : State) (n : SlotId) (x : Slot) : (s.setSlot n x).wrecBase = s.wrecBase := rfl
@[simp] theorem State.setSlot_wrecCount (s : State) (n : SlotId) (x : Slot) : (s.setSlot n x).wrecCount = s.wrecCount := rfl
@[simp] theorem State.setSlot_flushBusy (s : State) (n : SlotId) (x : Slot) : (s.setSlot n x).flushBusy = s.flushBusy := rfl
@[simp] theorem State.setSlot_flushAll (s : State) (n : SlotId) (x : Slot) : (s.setSlot n x).flushAll = s.flushAll := rfl
@[simp] theorem State.setSlot_flushCtx (s : State) (n : SlotId) (x : Slot) : (s.setSlot n x).flushCtx = s.flushCtx := rfl
@[simp] theorem State.setSlot_ttbase (s : State) (n : SlotId) (x : Slot) : (s.setSlot n x).ttbase = s.ttbase := rfl
@[simp] theorem State.setSlot_winA (s : State) (n : SlotId) (x : Slot) : (s.setSlot n x).winA = s.winA := rfl
@[simp] theorem State.setSlot_winB (s : State) (n : SlotId) (x : Slot) : (s.setSlot n x).winB = s.winB := rfl
@[simp] theorem State.setSlot_impA (s : State) (n : SlotId) (x : Slot) : (s.setSlot n x).impA = s.impA := rfl
@[simp] theorem State.setSlot_impB (s : State) (n : SlotId) (x : Slot) : (s.setSlot n x).impB = s.impB := rfl
@[simp] theorem State.setSlot_lib (s : State) (n : SlotId) (x : Slot) : (s.setSlot n x).lib = s.lib := rfl
@[simp] theorem State.setSlot_libPages (s : State) (n : SlotId) (x : Slot) : (s.setSlot n x).libPages = s.libPages := rfl
@[simp] theorem State.setSlot_parity (s : State) (n : SlotId) (x : Slot) : (s.setSlot n x).parity = s.parity := rfl
@[simp] theorem State.setSlot_libSrc (s : State) (n : SlotId) (x : Slot) : (s.setSlot n x).libSrc = s.libSrc := rfl
@[simp] theorem State.setSlot_libBusy (s : State) (n : SlotId) (x : Slot) : (s.setSlot n x).libBusy = s.libBusy := rfl
@[simp] theorem State.setSlot_libOp (s : State) (n : SlotId) (x : Slot) : (s.setSlot n x).libOp = s.libOp := rfl
@[simp] theorem State.setSlot_libResult (s : State) (n : SlotId) (x : Slot) : (s.setSlot n x).libResult = s.libResult := rfl
@[simp] theorem State.setSlot_libPendingResult (s : State) (n : SlotId) (x : Slot) : (s.setSlot n x).libPendingResult = s.libPendingResult := rfl
@[simp] theorem State.setSlot_libRetryOk (s : State) (n : SlotId) (x : Slot) : (s.setSlot n x).libRetryOk = s.libRetryOk := rfl
@[simp] theorem State.setSlot_libRebuilt (s : State) (n : SlotId) (x : Slot) : (s.setSlot n x).libRebuilt = s.libRebuilt := rfl
@[simp] theorem State.setSlot_libLost (s : State) (n : SlotId) (x : Slot) : (s.setSlot n x).libLost = s.libLost := rfl
@[simp] theorem State.setSlot_dropWait (s : State) (n : SlotId) (x : Slot) : (s.setSlot n x).dropWait = s.dropWait := rfl
@[simp] theorem State.setSlot_libRetry (s : State) (n : SlotId) (x : Slot) : (s.setSlot n x).libRetry = s.libRetry := rfl
@[simp] theorem State.setSlot_migs (s : State) (n : SlotId) (x : Slot) : (s.setSlot n x).migs = s.migs := rfl
@[simp] theorem State.setSlot_wlatch (s : State) (n : SlotId) (x : Slot) : (s.setSlot n x).wlatch = s.wlatch := rfl
@[simp] theorem State.setSlot_libPage0 (s : State) (n : SlotId) (x : Slot) : (s.setSlot n x).libPage0 = s.libPage0 := rfl
@[simp] theorem State.setSlot_libCount (s : State) (n : SlotId) (x : Slot) : (s.setSlot n x).libCount = s.libCount := rfl
@[simp] theorem State.setSlot_formLines (s : State) (n : SlotId) (x : Slot) : (s.setSlot n x).formLines = s.formLines := rfl
@[simp] theorem State.setSlot_unitsOut (s : State) (n : SlotId) (x : Slot) : (s.setSlot n x).unitsOut = s.unitsOut := rfl
@[simp] theorem State.setSlot_epoch0 (s : State) (n : SlotId) (x : Slot) : (s.setSlot n x).epoch0 = s.epoch0 := rfl
@[simp] theorem State.setSlot_epoch1 (s : State) (n : SlotId) (x : Slot) : (s.setSlot n x).epoch1 = s.epoch1 := rfl
@[simp] theorem State.setSlot_devScratch (s : State) (n : SlotId) (x : Slot) : (s.setSlot n x).devScratch = s.devScratch := rfl
@[simp] theorem State.setSlot_intr (s : State) (n : SlotId) (x : Slot) : (s.setSlot n x).intr = s.intr := rfl
@[simp] theorem State.setSlot_intrEn (s : State) (n : SlotId) (x : Slot) : (s.setSlot n x).intrEn = s.intrEn := rfl
@[simp] theorem State.setSlot_ctxs (s : State) (n : SlotId) (x : Slot) : (s.setSlot n x).ctxs = s.ctxs := rfl
@[simp] theorem State.setSlot_ttCtxBase (s : State) (n : SlotId) (x : Slot) : (s.setSlot n x).ttCtxBase = s.ttCtxBase := rfl
@[simp] theorem State.setSlot_ttBusy (s : State) (n : SlotId) (x : Slot) : (s.setSlot n x).ttBusy = s.ttBusy := rfl
@[simp] theorem State.setSlot_ttResult (s : State) (n : SlotId) (x : Slot) : (s.setSlot n x).ttResult = s.ttResult := rfl
@[simp] theorem State.setSlot_ttOp (s : State) (n : SlotId) (x : Slot) : (s.setSlot n x).ttOp = s.ttOp := rfl
@[simp] theorem State.setSlot_ttCtx (s : State) (n : SlotId) (x : Slot) : (s.setSlot n x).ttCtx = s.ttCtx := rfl
@[simp] theorem State.setSlot_pools (s : State) (n : SlotId) (x : Slot) : (s.setSlot n x).pools = s.pools := rfl
@[simp] theorem State.setSlot_kvCtxs (s : State) (n : SlotId) (x : Slot) : (s.setSlot n x).kvCtxs = s.kvCtxs := rfl
@[simp] theorem State.setSlot_kvArg0 (s : State) (n : SlotId) (x : Slot) : (s.setSlot n x).kvArg0 = s.kvArg0 := rfl
@[simp] theorem State.setSlot_kvArg1 (s : State) (n : SlotId) (x : Slot) : (s.setSlot n x).kvArg1 = s.kvArg1 := rfl
@[simp] theorem State.setSlot_kvArg2 (s : State) (n : SlotId) (x : Slot) : (s.setSlot n x).kvArg2 = s.kvArg2 := rfl
@[simp] theorem State.setSlot_kvBusy (s : State) (n : SlotId) (x : Slot) : (s.setSlot n x).kvBusy = s.kvBusy := rfl
@[simp] theorem State.setSlot_kvResult (s : State) (n : SlotId) (x : Slot) : (s.setSlot n x).kvResult = s.kvResult := rfl
@[simp] theorem State.setSlot_kvOp (s : State) (n : SlotId) (x : Slot) : (s.setSlot n x).kvOp = s.kvOp := rfl
@[simp] theorem State.setSlot_kvSlot (s : State) (n : SlotId) (x : Slot) : (s.setSlot n x).kvSlot = s.kvSlot := rfl
@[simp] theorem State.setSlot_kvStep (s : State) (n : SlotId) (x : Slot) : (s.setSlot n x).kvStep = s.kvStep := rfl
@[simp] theorem State.setSlot_kvBoundary (s : State) (n : SlotId) (x : Slot) : (s.setSlot n x).kvBoundary = s.kvBoundary := rfl
@[simp] theorem State.setSlot_kvTrans (s : State) (n : SlotId) (x : Slot) : (s.setSlot n x).kvTrans = s.kvTrans := rfl
@[simp] theorem State.setSlot_kvCommitting (s : State) (n : SlotId) (x : Slot) : (s.setSlot n x).kvCommitting = s.kvCommitting := rfl
@[simp] theorem State.setSlot_kvEdit (s : State) (n : SlotId) (x : Slot) : (s.setSlot n x).kvEdit = s.kvEdit := rfl
@[simp] theorem State.setSlot_retired (s : State) (n : SlotId) (x : Slot) : (s.setSlot n x).retired = s.retired := rfl
@[simp] theorem State.setSlot_failedSets (s : State) (n : SlotId) (x : Slot) : (s.setSlot n x).failedSets = s.failedSets := rfl
@[simp] theorem State.setSlot_chipId (s : State) (n : SlotId) (x : Slot) : (s.setSlot n x).chipId = s.chipId := rfl
@[simp] theorem State.setSlot_chipValid (s : State) (n : SlotId) (x : Slot) : (s.setSlot n x).chipValid = s.chipValid := rfl
@[simp] theorem State.setSlot_dims (s : State) (n : SlotId) (x : Slot) : (s.setSlot n x).dims = s.dims := rfl
@[simp] theorem State.setSlot_routes (s : State) (n : SlotId) (x : Slot) : (s.setSlot n x).routes = s.routes := rfl
@[simp] theorem State.setSlot_ports (s : State) (n : SlotId) (x : Slot) : (s.setSlot n x).ports = s.ports := rfl
@[simp] theorem State.setSlot_inbox (s : State) (n : SlotId) (x : Slot) : (s.setSlot n x).inbox = s.inbox := rfl
@[simp] theorem State.setSlot_asked (s : State) (n : SlotId) (x : Slot) : (s.setSlot n x).asked = s.asked := rfl
@[simp] theorem State.setSlot_nextTag (s : State) (n : SlotId) (x : Slot) : (s.setSlot n x).nextTag = s.nextTag := rfl
@[simp] theorem State.setSlot_incoming (s : State) (n : SlotId) (x : Slot) : (s.setSlot n x).incoming = s.incoming := rfl
@[simp] theorem State.setSlot_stuck (s : State) (n : SlotId) (x : Slot) : (s.setSlot n x).stuck = s.stuck := rfl
@[simp] theorem State.setSlot_heldIn (s : State) (n : SlotId) (x : Slot) : (s.setSlot n x).heldIn = s.heldIn := rfl
@[simp] theorem State.setSlot_bellRoot (s : State) (n : SlotId) (x : Slot) : (s.setSlot n x).bellRoot = s.bellRoot := rfl
@[simp] theorem State.setSlot_bellState (s : State) (n : SlotId) (x : Slot) : (s.setSlot n x).bellState = s.bellState := rfl
@[simp] theorem State.setSlot_bellRate (s : State) (n : SlotId) (x : Slot) : (s.setSlot n x).bellRate = s.bellRate := rfl
@[simp] theorem State.setSlot_bellMax (s : State) (n : SlotId) (x : Slot) : (s.setSlot n x).bellMax = s.bellMax := rfl
@[simp] theorem State.setSlot_bellLost (s : State) (n : SlotId) (x : Slot) : (s.setSlot n x).bellLost = s.bellLost := rfl
@[simp] theorem State.setSlot_bellStepped (s : State) (n : SlotId) (x : Slot) : (s.setSlot n x).bellStepped = s.bellStepped := rfl
@[simp] theorem State.setSlot_bellSlew (s : State) (n : SlotId) (x : Slot) : (s.setSlot n x).bellSlew = s.bellSlew := rfl
@[simp] theorem State.setSlot_power (s : State) (n : SlotId) (x : Slot) : (s.setSlot n x).power = s.power := rfl
@[simp] theorem State.setSlot_sec (s : State) (n : SlotId) (x : Slot) : (s.setSlot n x).sec = s.sec := rfl
@[simp] theorem State.setSlot_log (s : State) (n : SlotId) (x : Slot) : (s.setSlot n x).log = s.log := rfl
@[simp] theorem State.setSlot_wdts (s : State) (n : SlotId) (x : Slot) : (s.setSlot n x).wdts = s.wdts := rfl
@[simp] theorem State.setSlot_hartErr (s : State) (n : SlotId) (x : Slot) : (s.setSlot n x).hartErr = s.hartErr := rfl
@[simp] theorem State.setSlot_sram (s : State) (n : SlotId) (x : Slot) : (s.setSlot n x).sram = s.sram := rfl
@[simp] theorem State.setSlot_eths (s : State) (n : SlotId) (x : Slot) : (s.setSlot n x).eths = s.eths := rfl
@[simp] theorem State.setSlot_pcie (s : State) (n : SlotId) (x : Slot) : (s.setSlot n x).pcie = s.pcie := rfl
@[simp] theorem State.setSlot_mgtAddr (s : State) (n : SlotId) (x : Slot) : (s.setSlot n x).mgtAddr = s.mgtAddr := rfl
@[simp] theorem State.setSlot_tap (s : State) (n : SlotId) (x : Slot) : (s.setSlot n x).tap = s.tap := rfl
@[simp] theorem State.setSlot_perf (s : State) (n : SlotId) (x : Slot) : (s.setSlot n x).perf = s.perf := rfl
@[simp] theorem State.setSlot_perfCopy (s : State) (n : SlotId) (x : Slot) : (s.setSlot n x).perfCopy = s.perfCopy := rfl
@[simp] theorem State.setSlot_snapPending (s : State) (n : SlotId) (x : Slot) : (s.setSlot n x).snapPending = s.snapPending := rfl
@[simp] theorem State.setSlot_snapValid (s : State) (n : SlotId) (x : Slot) : (s.setSlot n x).snapValid = s.snapValid := rfl

/-! setPool: every field but pools. -/

@[simp] theorem State.setPool_pending (s : State) (p : BitVec 4) (x : Pool) : (s.setPool p x).pending = s.pending := rfl
@[simp] theorem State.setPool_fresh (s : State) (p : BitVec 4) (x : Pool) : (s.setPool p x).fresh = s.fresh := rfl
@[simp] theorem State.setPool_rdata (s : State) (p : BitVec 4) (x : Pool) : (s.setPool p x).rdata = s.rdata := rfl
@[simp] theorem State.setPool_bell (s : State) (p : BitVec 4) (x : Pool) : (s.setPool p x).bell = s.bell := rfl
@[simp] theorem State.setPool_life (s : State) (p : BitVec 4) (x : Pool) : (s.setPool p x).life = s.life := rfl
@[simp] theorem State.setPool_pstate (s : State) (p : BitVec 4) (x : Pool) : (s.setPool p x).pstate = s.pstate := rfl
@[simp] theorem State.setPool_boot (s : State) (p : BitVec 4) (x : Pool) : (s.setPool p x).boot = s.boot := rfl
@[simp] theorem State.setPool_straps (s : State) (p : BitVec 4) (x : Pool) : (s.setPool p x).straps = s.straps := rfl
@[simp] theorem State.setPool_resetN (s : State) (p : BitVec 4) (x : Pool) : (s.setPool p x).resetN = s.resetN := rfl
@[simp] theorem State.setPool_powerGood (s : State) (p : BitVec 4) (x : Pool) : (s.setPool p x).powerGood = s.powerGood := rfl
@[simp] theorem State.setPool_reading (s : State) (p : BitVec 4) (x : Pool) : (s.setPool p x).reading = s.reading := rfl
@[simp] theorem State.setPool_cores (s : State) (p : BitVec 4) (x : Pool) : (s.setPool p x).cores = s.cores := rfl
@[simp] theorem State.setPool_mem (s : State) (p : BitVec 4) (x : Pool) : (s.setPool p x).mem = s.mem := rfl
@[simp] theorem State.setPool_memPoison (s : State) (p : BitVec 4) (x : Pool) : (s.setPool p x).memPoison = s.memPoison := rfl
@[simp] theorem State.setPool_net (s : State) (p : BitVec 4) (x : Pool) : (s.setPool p x).net = s.net := rfl
@[simp] theorem State.setPool_lastBulk (s : State) (p : BitVec 4) (x : Pool) : (s.setPool p x).lastBulk = s.lastBulk := rfl
@[simp] theorem State.setPool_lastNarrow (s : State) (p : BitVec 4) (x : Pool) : (s.setPool p x).lastNarrow = s.lastNarrow := rfl
@[simp] theorem State.setPool_laneLast (s : State) (p : BitVec 4) (x : Pool) : (s.setPool p x).laneLast = s.laneLast := rfl
@[simp] theorem State.setPool_scrubAt (s : State) (p : BitVec 4) (x : Pool) : (s.setPool p x).scrubAt = s.scrubAt := rfl
@[simp] theorem State.setPool_wrecBase (s : State) (p : BitVec 4) (x : Pool) : (s.setPool p x).wrecBase = s.wrecBase := rfl
@[simp] theorem State.setPool_wrecCount (s : State) (p : BitVec 4) (x : Pool) : (s.setPool p x).wrecCount = s.wrecCount := rfl
@[simp] theorem State.setPool_flushBusy (s : State) (p : BitVec 4) (x : Pool) : (s.setPool p x).flushBusy = s.flushBusy := rfl
@[simp] theorem State.setPool_flushAll (s : State) (p : BitVec 4) (x : Pool) : (s.setPool p x).flushAll = s.flushAll := rfl
@[simp] theorem State.setPool_flushCtx (s : State) (p : BitVec 4) (x : Pool) : (s.setPool p x).flushCtx = s.flushCtx := rfl
@[simp] theorem State.setPool_ttbase (s : State) (p : BitVec 4) (x : Pool) : (s.setPool p x).ttbase = s.ttbase := rfl
@[simp] theorem State.setPool_winA (s : State) (p : BitVec 4) (x : Pool) : (s.setPool p x).winA = s.winA := rfl
@[simp] theorem State.setPool_winB (s : State) (p : BitVec 4) (x : Pool) : (s.setPool p x).winB = s.winB := rfl
@[simp] theorem State.setPool_impA (s : State) (p : BitVec 4) (x : Pool) : (s.setPool p x).impA = s.impA := rfl
@[simp] theorem State.setPool_impB (s : State) (p : BitVec 4) (x : Pool) : (s.setPool p x).impB = s.impB := rfl
@[simp] theorem State.setPool_lib (s : State) (p : BitVec 4) (x : Pool) : (s.setPool p x).lib = s.lib := rfl
@[simp] theorem State.setPool_libPages (s : State) (p : BitVec 4) (x : Pool) : (s.setPool p x).libPages = s.libPages := rfl
@[simp] theorem State.setPool_parity (s : State) (p : BitVec 4) (x : Pool) : (s.setPool p x).parity = s.parity := rfl
@[simp] theorem State.setPool_libSrc (s : State) (p : BitVec 4) (x : Pool) : (s.setPool p x).libSrc = s.libSrc := rfl
@[simp] theorem State.setPool_libBusy (s : State) (p : BitVec 4) (x : Pool) : (s.setPool p x).libBusy = s.libBusy := rfl
@[simp] theorem State.setPool_libOp (s : State) (p : BitVec 4) (x : Pool) : (s.setPool p x).libOp = s.libOp := rfl
@[simp] theorem State.setPool_libResult (s : State) (p : BitVec 4) (x : Pool) : (s.setPool p x).libResult = s.libResult := rfl
@[simp] theorem State.setPool_libPendingResult (s : State) (p : BitVec 4) (x : Pool) : (s.setPool p x).libPendingResult = s.libPendingResult := rfl
@[simp] theorem State.setPool_libRetryOk (s : State) (p : BitVec 4) (x : Pool) : (s.setPool p x).libRetryOk = s.libRetryOk := rfl
@[simp] theorem State.setPool_libRebuilt (s : State) (p : BitVec 4) (x : Pool) : (s.setPool p x).libRebuilt = s.libRebuilt := rfl
@[simp] theorem State.setPool_libLost (s : State) (p : BitVec 4) (x : Pool) : (s.setPool p x).libLost = s.libLost := rfl
@[simp] theorem State.setPool_dropWait (s : State) (p : BitVec 4) (x : Pool) : (s.setPool p x).dropWait = s.dropWait := rfl
@[simp] theorem State.setPool_libRetry (s : State) (p : BitVec 4) (x : Pool) : (s.setPool p x).libRetry = s.libRetry := rfl
@[simp] theorem State.setPool_migs (s : State) (p : BitVec 4) (x : Pool) : (s.setPool p x).migs = s.migs := rfl
@[simp] theorem State.setPool_wlatch (s : State) (p : BitVec 4) (x : Pool) : (s.setPool p x).wlatch = s.wlatch := rfl
@[simp] theorem State.setPool_libPage0 (s : State) (p : BitVec 4) (x : Pool) : (s.setPool p x).libPage0 = s.libPage0 := rfl
@[simp] theorem State.setPool_libCount (s : State) (p : BitVec 4) (x : Pool) : (s.setPool p x).libCount = s.libCount := rfl
@[simp] theorem State.setPool_formLines (s : State) (p : BitVec 4) (x : Pool) : (s.setPool p x).formLines = s.formLines := rfl
@[simp] theorem State.setPool_unitsOut (s : State) (p : BitVec 4) (x : Pool) : (s.setPool p x).unitsOut = s.unitsOut := rfl
@[simp] theorem State.setPool_epoch0 (s : State) (p : BitVec 4) (x : Pool) : (s.setPool p x).epoch0 = s.epoch0 := rfl
@[simp] theorem State.setPool_epoch1 (s : State) (p : BitVec 4) (x : Pool) : (s.setPool p x).epoch1 = s.epoch1 := rfl
@[simp] theorem State.setPool_devScratch (s : State) (p : BitVec 4) (x : Pool) : (s.setPool p x).devScratch = s.devScratch := rfl
@[simp] theorem State.setPool_intr (s : State) (p : BitVec 4) (x : Pool) : (s.setPool p x).intr = s.intr := rfl
@[simp] theorem State.setPool_intrEn (s : State) (p : BitVec 4) (x : Pool) : (s.setPool p x).intrEn = s.intrEn := rfl
@[simp] theorem State.setPool_ctxs (s : State) (p : BitVec 4) (x : Pool) : (s.setPool p x).ctxs = s.ctxs := rfl
@[simp] theorem State.setPool_ttCtxBase (s : State) (p : BitVec 4) (x : Pool) : (s.setPool p x).ttCtxBase = s.ttCtxBase := rfl
@[simp] theorem State.setPool_ttBusy (s : State) (p : BitVec 4) (x : Pool) : (s.setPool p x).ttBusy = s.ttBusy := rfl
@[simp] theorem State.setPool_ttResult (s : State) (p : BitVec 4) (x : Pool) : (s.setPool p x).ttResult = s.ttResult := rfl
@[simp] theorem State.setPool_ttOp (s : State) (p : BitVec 4) (x : Pool) : (s.setPool p x).ttOp = s.ttOp := rfl
@[simp] theorem State.setPool_ttCtx (s : State) (p : BitVec 4) (x : Pool) : (s.setPool p x).ttCtx = s.ttCtx := rfl
@[simp] theorem State.setPool_kvCtxs (s : State) (p : BitVec 4) (x : Pool) : (s.setPool p x).kvCtxs = s.kvCtxs := rfl
@[simp] theorem State.setPool_slots (s : State) (p : BitVec 4) (x : Pool) : (s.setPool p x).slots = s.slots := rfl
@[simp] theorem State.setPool_kvArg0 (s : State) (p : BitVec 4) (x : Pool) : (s.setPool p x).kvArg0 = s.kvArg0 := rfl
@[simp] theorem State.setPool_kvArg1 (s : State) (p : BitVec 4) (x : Pool) : (s.setPool p x).kvArg1 = s.kvArg1 := rfl
@[simp] theorem State.setPool_kvArg2 (s : State) (p : BitVec 4) (x : Pool) : (s.setPool p x).kvArg2 = s.kvArg2 := rfl
@[simp] theorem State.setPool_kvBusy (s : State) (p : BitVec 4) (x : Pool) : (s.setPool p x).kvBusy = s.kvBusy := rfl
@[simp] theorem State.setPool_kvResult (s : State) (p : BitVec 4) (x : Pool) : (s.setPool p x).kvResult = s.kvResult := rfl
@[simp] theorem State.setPool_kvOp (s : State) (p : BitVec 4) (x : Pool) : (s.setPool p x).kvOp = s.kvOp := rfl
@[simp] theorem State.setPool_kvSlot (s : State) (p : BitVec 4) (x : Pool) : (s.setPool p x).kvSlot = s.kvSlot := rfl
@[simp] theorem State.setPool_kvStep (s : State) (p : BitVec 4) (x : Pool) : (s.setPool p x).kvStep = s.kvStep := rfl
@[simp] theorem State.setPool_kvBoundary (s : State) (p : BitVec 4) (x : Pool) : (s.setPool p x).kvBoundary = s.kvBoundary := rfl
@[simp] theorem State.setPool_kvTrans (s : State) (p : BitVec 4) (x : Pool) : (s.setPool p x).kvTrans = s.kvTrans := rfl
@[simp] theorem State.setPool_kvCommitting (s : State) (p : BitVec 4) (x : Pool) : (s.setPool p x).kvCommitting = s.kvCommitting := rfl
@[simp] theorem State.setPool_kvEdit (s : State) (p : BitVec 4) (x : Pool) : (s.setPool p x).kvEdit = s.kvEdit := rfl
@[simp] theorem State.setPool_retired (s : State) (p : BitVec 4) (x : Pool) : (s.setPool p x).retired = s.retired := rfl
@[simp] theorem State.setPool_failedSets (s : State) (p : BitVec 4) (x : Pool) : (s.setPool p x).failedSets = s.failedSets := rfl
@[simp] theorem State.setPool_chipId (s : State) (p : BitVec 4) (x : Pool) : (s.setPool p x).chipId = s.chipId := rfl
@[simp] theorem State.setPool_chipValid (s : State) (p : BitVec 4) (x : Pool) : (s.setPool p x).chipValid = s.chipValid := rfl
@[simp] theorem State.setPool_dims (s : State) (p : BitVec 4) (x : Pool) : (s.setPool p x).dims = s.dims := rfl
@[simp] theorem State.setPool_routes (s : State) (p : BitVec 4) (x : Pool) : (s.setPool p x).routes = s.routes := rfl
@[simp] theorem State.setPool_ports (s : State) (p : BitVec 4) (x : Pool) : (s.setPool p x).ports = s.ports := rfl
@[simp] theorem State.setPool_inbox (s : State) (p : BitVec 4) (x : Pool) : (s.setPool p x).inbox = s.inbox := rfl
@[simp] theorem State.setPool_asked (s : State) (p : BitVec 4) (x : Pool) : (s.setPool p x).asked = s.asked := rfl
@[simp] theorem State.setPool_nextTag (s : State) (p : BitVec 4) (x : Pool) : (s.setPool p x).nextTag = s.nextTag := rfl
@[simp] theorem State.setPool_incoming (s : State) (p : BitVec 4) (x : Pool) : (s.setPool p x).incoming = s.incoming := rfl
@[simp] theorem State.setPool_stuck (s : State) (p : BitVec 4) (x : Pool) : (s.setPool p x).stuck = s.stuck := rfl
@[simp] theorem State.setPool_heldIn (s : State) (p : BitVec 4) (x : Pool) : (s.setPool p x).heldIn = s.heldIn := rfl
@[simp] theorem State.setPool_bellRoot (s : State) (p : BitVec 4) (x : Pool) : (s.setPool p x).bellRoot = s.bellRoot := rfl
@[simp] theorem State.setPool_bellState (s : State) (p : BitVec 4) (x : Pool) : (s.setPool p x).bellState = s.bellState := rfl
@[simp] theorem State.setPool_bellRate (s : State) (p : BitVec 4) (x : Pool) : (s.setPool p x).bellRate = s.bellRate := rfl
@[simp] theorem State.setPool_bellMax (s : State) (p : BitVec 4) (x : Pool) : (s.setPool p x).bellMax = s.bellMax := rfl
@[simp] theorem State.setPool_bellLost (s : State) (p : BitVec 4) (x : Pool) : (s.setPool p x).bellLost = s.bellLost := rfl
@[simp] theorem State.setPool_bellStepped (s : State) (p : BitVec 4) (x : Pool) : (s.setPool p x).bellStepped = s.bellStepped := rfl
@[simp] theorem State.setPool_bellSlew (s : State) (p : BitVec 4) (x : Pool) : (s.setPool p x).bellSlew = s.bellSlew := rfl
@[simp] theorem State.setPool_power (s : State) (p : BitVec 4) (x : Pool) : (s.setPool p x).power = s.power := rfl
@[simp] theorem State.setPool_sec (s : State) (p : BitVec 4) (x : Pool) : (s.setPool p x).sec = s.sec := rfl
@[simp] theorem State.setPool_log (s : State) (p : BitVec 4) (x : Pool) : (s.setPool p x).log = s.log := rfl
@[simp] theorem State.setPool_wdts (s : State) (p : BitVec 4) (x : Pool) : (s.setPool p x).wdts = s.wdts := rfl
@[simp] theorem State.setPool_hartErr (s : State) (p : BitVec 4) (x : Pool) : (s.setPool p x).hartErr = s.hartErr := rfl
@[simp] theorem State.setPool_sram (s : State) (p : BitVec 4) (x : Pool) : (s.setPool p x).sram = s.sram := rfl
@[simp] theorem State.setPool_eths (s : State) (p : BitVec 4) (x : Pool) : (s.setPool p x).eths = s.eths := rfl
@[simp] theorem State.setPool_pcie (s : State) (p : BitVec 4) (x : Pool) : (s.setPool p x).pcie = s.pcie := rfl
@[simp] theorem State.setPool_mgtAddr (s : State) (p : BitVec 4) (x : Pool) : (s.setPool p x).mgtAddr = s.mgtAddr := rfl
@[simp] theorem State.setPool_tap (s : State) (p : BitVec 4) (x : Pool) : (s.setPool p x).tap = s.tap := rfl
@[simp] theorem State.setPool_perf (s : State) (p : BitVec 4) (x : Pool) : (s.setPool p x).perf = s.perf := rfl
@[simp] theorem State.setPool_perfCopy (s : State) (p : BitVec 4) (x : Pool) : (s.setPool p x).perfCopy = s.perfCopy := rfl
@[simp] theorem State.setPool_snapPending (s : State) (p : BitVec 4) (x : Pool) : (s.setPool p x).snapPending = s.snapPending := rfl
@[simp] theorem State.setPool_snapValid (s : State) (p : BitVec 4) (x : Pool) : (s.setPool p x).snapValid = s.snapValid := rfl

/-! setKvCtx: every field but kvCtxs. -/

@[simp] theorem State.setKvCtx_pending (s : State) (c : CtxId) (x : KvCtx) : (s.setKvCtx c x).pending = s.pending := rfl
@[simp] theorem State.setKvCtx_fresh (s : State) (c : CtxId) (x : KvCtx) : (s.setKvCtx c x).fresh = s.fresh := rfl
@[simp] theorem State.setKvCtx_rdata (s : State) (c : CtxId) (x : KvCtx) : (s.setKvCtx c x).rdata = s.rdata := rfl
@[simp] theorem State.setKvCtx_bell (s : State) (c : CtxId) (x : KvCtx) : (s.setKvCtx c x).bell = s.bell := rfl
@[simp] theorem State.setKvCtx_life (s : State) (c : CtxId) (x : KvCtx) : (s.setKvCtx c x).life = s.life := rfl
@[simp] theorem State.setKvCtx_pstate (s : State) (c : CtxId) (x : KvCtx) : (s.setKvCtx c x).pstate = s.pstate := rfl
@[simp] theorem State.setKvCtx_boot (s : State) (c : CtxId) (x : KvCtx) : (s.setKvCtx c x).boot = s.boot := rfl
@[simp] theorem State.setKvCtx_straps (s : State) (c : CtxId) (x : KvCtx) : (s.setKvCtx c x).straps = s.straps := rfl
@[simp] theorem State.setKvCtx_resetN (s : State) (c : CtxId) (x : KvCtx) : (s.setKvCtx c x).resetN = s.resetN := rfl
@[simp] theorem State.setKvCtx_powerGood (s : State) (c : CtxId) (x : KvCtx) : (s.setKvCtx c x).powerGood = s.powerGood := rfl
@[simp] theorem State.setKvCtx_reading (s : State) (c : CtxId) (x : KvCtx) : (s.setKvCtx c x).reading = s.reading := rfl
@[simp] theorem State.setKvCtx_cores (s : State) (c : CtxId) (x : KvCtx) : (s.setKvCtx c x).cores = s.cores := rfl
@[simp] theorem State.setKvCtx_mem (s : State) (c : CtxId) (x : KvCtx) : (s.setKvCtx c x).mem = s.mem := rfl
@[simp] theorem State.setKvCtx_memPoison (s : State) (c : CtxId) (x : KvCtx) : (s.setKvCtx c x).memPoison = s.memPoison := rfl
@[simp] theorem State.setKvCtx_net (s : State) (c : CtxId) (x : KvCtx) : (s.setKvCtx c x).net = s.net := rfl
@[simp] theorem State.setKvCtx_lastBulk (s : State) (c : CtxId) (x : KvCtx) : (s.setKvCtx c x).lastBulk = s.lastBulk := rfl
@[simp] theorem State.setKvCtx_lastNarrow (s : State) (c : CtxId) (x : KvCtx) : (s.setKvCtx c x).lastNarrow = s.lastNarrow := rfl
@[simp] theorem State.setKvCtx_laneLast (s : State) (c : CtxId) (x : KvCtx) : (s.setKvCtx c x).laneLast = s.laneLast := rfl
@[simp] theorem State.setKvCtx_scrubAt (s : State) (c : CtxId) (x : KvCtx) : (s.setKvCtx c x).scrubAt = s.scrubAt := rfl
@[simp] theorem State.setKvCtx_wrecBase (s : State) (c : CtxId) (x : KvCtx) : (s.setKvCtx c x).wrecBase = s.wrecBase := rfl
@[simp] theorem State.setKvCtx_wrecCount (s : State) (c : CtxId) (x : KvCtx) : (s.setKvCtx c x).wrecCount = s.wrecCount := rfl
@[simp] theorem State.setKvCtx_flushBusy (s : State) (c : CtxId) (x : KvCtx) : (s.setKvCtx c x).flushBusy = s.flushBusy := rfl
@[simp] theorem State.setKvCtx_flushAll (s : State) (c : CtxId) (x : KvCtx) : (s.setKvCtx c x).flushAll = s.flushAll := rfl
@[simp] theorem State.setKvCtx_flushCtx (s : State) (c : CtxId) (x : KvCtx) : (s.setKvCtx c x).flushCtx = s.flushCtx := rfl
@[simp] theorem State.setKvCtx_ttbase (s : State) (c : CtxId) (x : KvCtx) : (s.setKvCtx c x).ttbase = s.ttbase := rfl
@[simp] theorem State.setKvCtx_winA (s : State) (c : CtxId) (x : KvCtx) : (s.setKvCtx c x).winA = s.winA := rfl
@[simp] theorem State.setKvCtx_winB (s : State) (c : CtxId) (x : KvCtx) : (s.setKvCtx c x).winB = s.winB := rfl
@[simp] theorem State.setKvCtx_impA (s : State) (c : CtxId) (x : KvCtx) : (s.setKvCtx c x).impA = s.impA := rfl
@[simp] theorem State.setKvCtx_impB (s : State) (c : CtxId) (x : KvCtx) : (s.setKvCtx c x).impB = s.impB := rfl
@[simp] theorem State.setKvCtx_lib (s : State) (c : CtxId) (x : KvCtx) : (s.setKvCtx c x).lib = s.lib := rfl
@[simp] theorem State.setKvCtx_libPages (s : State) (c : CtxId) (x : KvCtx) : (s.setKvCtx c x).libPages = s.libPages := rfl
@[simp] theorem State.setKvCtx_parity (s : State) (c : CtxId) (x : KvCtx) : (s.setKvCtx c x).parity = s.parity := rfl
@[simp] theorem State.setKvCtx_libSrc (s : State) (c : CtxId) (x : KvCtx) : (s.setKvCtx c x).libSrc = s.libSrc := rfl
@[simp] theorem State.setKvCtx_libBusy (s : State) (c : CtxId) (x : KvCtx) : (s.setKvCtx c x).libBusy = s.libBusy := rfl
@[simp] theorem State.setKvCtx_libOp (s : State) (c : CtxId) (x : KvCtx) : (s.setKvCtx c x).libOp = s.libOp := rfl
@[simp] theorem State.setKvCtx_libResult (s : State) (c : CtxId) (x : KvCtx) : (s.setKvCtx c x).libResult = s.libResult := rfl
@[simp] theorem State.setKvCtx_libPendingResult (s : State) (c : CtxId) (x : KvCtx) : (s.setKvCtx c x).libPendingResult = s.libPendingResult := rfl
@[simp] theorem State.setKvCtx_libRetryOk (s : State) (c : CtxId) (x : KvCtx) : (s.setKvCtx c x).libRetryOk = s.libRetryOk := rfl
@[simp] theorem State.setKvCtx_libRebuilt (s : State) (c : CtxId) (x : KvCtx) : (s.setKvCtx c x).libRebuilt = s.libRebuilt := rfl
@[simp] theorem State.setKvCtx_libLost (s : State) (c : CtxId) (x : KvCtx) : (s.setKvCtx c x).libLost = s.libLost := rfl
@[simp] theorem State.setKvCtx_dropWait (s : State) (c : CtxId) (x : KvCtx) : (s.setKvCtx c x).dropWait = s.dropWait := rfl
@[simp] theorem State.setKvCtx_libRetry (s : State) (c : CtxId) (x : KvCtx) : (s.setKvCtx c x).libRetry = s.libRetry := rfl
@[simp] theorem State.setKvCtx_migs (s : State) (c : CtxId) (x : KvCtx) : (s.setKvCtx c x).migs = s.migs := rfl
@[simp] theorem State.setKvCtx_wlatch (s : State) (c : CtxId) (x : KvCtx) : (s.setKvCtx c x).wlatch = s.wlatch := rfl
@[simp] theorem State.setKvCtx_libPage0 (s : State) (c : CtxId) (x : KvCtx) : (s.setKvCtx c x).libPage0 = s.libPage0 := rfl
@[simp] theorem State.setKvCtx_libCount (s : State) (c : CtxId) (x : KvCtx) : (s.setKvCtx c x).libCount = s.libCount := rfl
@[simp] theorem State.setKvCtx_formLines (s : State) (c : CtxId) (x : KvCtx) : (s.setKvCtx c x).formLines = s.formLines := rfl
@[simp] theorem State.setKvCtx_unitsOut (s : State) (c : CtxId) (x : KvCtx) : (s.setKvCtx c x).unitsOut = s.unitsOut := rfl
@[simp] theorem State.setKvCtx_epoch0 (s : State) (c : CtxId) (x : KvCtx) : (s.setKvCtx c x).epoch0 = s.epoch0 := rfl
@[simp] theorem State.setKvCtx_epoch1 (s : State) (c : CtxId) (x : KvCtx) : (s.setKvCtx c x).epoch1 = s.epoch1 := rfl
@[simp] theorem State.setKvCtx_devScratch (s : State) (c : CtxId) (x : KvCtx) : (s.setKvCtx c x).devScratch = s.devScratch := rfl
@[simp] theorem State.setKvCtx_intr (s : State) (c : CtxId) (x : KvCtx) : (s.setKvCtx c x).intr = s.intr := rfl
@[simp] theorem State.setKvCtx_intrEn (s : State) (c : CtxId) (x : KvCtx) : (s.setKvCtx c x).intrEn = s.intrEn := rfl
@[simp] theorem State.setKvCtx_ctxs (s : State) (c : CtxId) (x : KvCtx) : (s.setKvCtx c x).ctxs = s.ctxs := rfl
@[simp] theorem State.setKvCtx_ttCtxBase (s : State) (c : CtxId) (x : KvCtx) : (s.setKvCtx c x).ttCtxBase = s.ttCtxBase := rfl
@[simp] theorem State.setKvCtx_ttBusy (s : State) (c : CtxId) (x : KvCtx) : (s.setKvCtx c x).ttBusy = s.ttBusy := rfl
@[simp] theorem State.setKvCtx_ttResult (s : State) (c : CtxId) (x : KvCtx) : (s.setKvCtx c x).ttResult = s.ttResult := rfl
@[simp] theorem State.setKvCtx_ttOp (s : State) (c : CtxId) (x : KvCtx) : (s.setKvCtx c x).ttOp = s.ttOp := rfl
@[simp] theorem State.setKvCtx_ttCtx (s : State) (c : CtxId) (x : KvCtx) : (s.setKvCtx c x).ttCtx = s.ttCtx := rfl
@[simp] theorem State.setKvCtx_pools (s : State) (c : CtxId) (x : KvCtx) : (s.setKvCtx c x).pools = s.pools := rfl
@[simp] theorem State.setKvCtx_slots (s : State) (c : CtxId) (x : KvCtx) : (s.setKvCtx c x).slots = s.slots := rfl
@[simp] theorem State.setKvCtx_kvArg0 (s : State) (c : CtxId) (x : KvCtx) : (s.setKvCtx c x).kvArg0 = s.kvArg0 := rfl
@[simp] theorem State.setKvCtx_kvArg1 (s : State) (c : CtxId) (x : KvCtx) : (s.setKvCtx c x).kvArg1 = s.kvArg1 := rfl
@[simp] theorem State.setKvCtx_kvArg2 (s : State) (c : CtxId) (x : KvCtx) : (s.setKvCtx c x).kvArg2 = s.kvArg2 := rfl
@[simp] theorem State.setKvCtx_kvBusy (s : State) (c : CtxId) (x : KvCtx) : (s.setKvCtx c x).kvBusy = s.kvBusy := rfl
@[simp] theorem State.setKvCtx_kvResult (s : State) (c : CtxId) (x : KvCtx) : (s.setKvCtx c x).kvResult = s.kvResult := rfl
@[simp] theorem State.setKvCtx_kvOp (s : State) (c : CtxId) (x : KvCtx) : (s.setKvCtx c x).kvOp = s.kvOp := rfl
@[simp] theorem State.setKvCtx_kvSlot (s : State) (c : CtxId) (x : KvCtx) : (s.setKvCtx c x).kvSlot = s.kvSlot := rfl
@[simp] theorem State.setKvCtx_kvStep (s : State) (c : CtxId) (x : KvCtx) : (s.setKvCtx c x).kvStep = s.kvStep := rfl
@[simp] theorem State.setKvCtx_kvBoundary (s : State) (c : CtxId) (x : KvCtx) : (s.setKvCtx c x).kvBoundary = s.kvBoundary := rfl
@[simp] theorem State.setKvCtx_kvTrans (s : State) (c : CtxId) (x : KvCtx) : (s.setKvCtx c x).kvTrans = s.kvTrans := rfl
@[simp] theorem State.setKvCtx_kvCommitting (s : State) (c : CtxId) (x : KvCtx) : (s.setKvCtx c x).kvCommitting = s.kvCommitting := rfl
@[simp] theorem State.setKvCtx_kvEdit (s : State) (c : CtxId) (x : KvCtx) : (s.setKvCtx c x).kvEdit = s.kvEdit := rfl
@[simp] theorem State.setKvCtx_retired (s : State) (c : CtxId) (x : KvCtx) : (s.setKvCtx c x).retired = s.retired := rfl
@[simp] theorem State.setKvCtx_failedSets (s : State) (c : CtxId) (x : KvCtx) : (s.setKvCtx c x).failedSets = s.failedSets := rfl
@[simp] theorem State.setKvCtx_chipId (s : State) (c : CtxId) (x : KvCtx) : (s.setKvCtx c x).chipId = s.chipId := rfl
@[simp] theorem State.setKvCtx_chipValid (s : State) (c : CtxId) (x : KvCtx) : (s.setKvCtx c x).chipValid = s.chipValid := rfl
@[simp] theorem State.setKvCtx_dims (s : State) (c : CtxId) (x : KvCtx) : (s.setKvCtx c x).dims = s.dims := rfl
@[simp] theorem State.setKvCtx_routes (s : State) (c : CtxId) (x : KvCtx) : (s.setKvCtx c x).routes = s.routes := rfl
@[simp] theorem State.setKvCtx_ports (s : State) (c : CtxId) (x : KvCtx) : (s.setKvCtx c x).ports = s.ports := rfl
@[simp] theorem State.setKvCtx_inbox (s : State) (c : CtxId) (x : KvCtx) : (s.setKvCtx c x).inbox = s.inbox := rfl
@[simp] theorem State.setKvCtx_asked (s : State) (c : CtxId) (x : KvCtx) : (s.setKvCtx c x).asked = s.asked := rfl
@[simp] theorem State.setKvCtx_nextTag (s : State) (c : CtxId) (x : KvCtx) : (s.setKvCtx c x).nextTag = s.nextTag := rfl
@[simp] theorem State.setKvCtx_incoming (s : State) (c : CtxId) (x : KvCtx) : (s.setKvCtx c x).incoming = s.incoming := rfl
@[simp] theorem State.setKvCtx_stuck (s : State) (c : CtxId) (x : KvCtx) : (s.setKvCtx c x).stuck = s.stuck := rfl
@[simp] theorem State.setKvCtx_heldIn (s : State) (c : CtxId) (x : KvCtx) : (s.setKvCtx c x).heldIn = s.heldIn := rfl
@[simp] theorem State.setKvCtx_bellRoot (s : State) (c : CtxId) (x : KvCtx) : (s.setKvCtx c x).bellRoot = s.bellRoot := rfl
@[simp] theorem State.setKvCtx_bellState (s : State) (c : CtxId) (x : KvCtx) : (s.setKvCtx c x).bellState = s.bellState := rfl
@[simp] theorem State.setKvCtx_bellRate (s : State) (c : CtxId) (x : KvCtx) : (s.setKvCtx c x).bellRate = s.bellRate := rfl
@[simp] theorem State.setKvCtx_bellMax (s : State) (c : CtxId) (x : KvCtx) : (s.setKvCtx c x).bellMax = s.bellMax := rfl
@[simp] theorem State.setKvCtx_bellLost (s : State) (c : CtxId) (x : KvCtx) : (s.setKvCtx c x).bellLost = s.bellLost := rfl
@[simp] theorem State.setKvCtx_bellStepped (s : State) (c : CtxId) (x : KvCtx) : (s.setKvCtx c x).bellStepped = s.bellStepped := rfl
@[simp] theorem State.setKvCtx_bellSlew (s : State) (c : CtxId) (x : KvCtx) : (s.setKvCtx c x).bellSlew = s.bellSlew := rfl
@[simp] theorem State.setKvCtx_power (s : State) (c : CtxId) (x : KvCtx) : (s.setKvCtx c x).power = s.power := rfl
@[simp] theorem State.setKvCtx_sec (s : State) (c : CtxId) (x : KvCtx) : (s.setKvCtx c x).sec = s.sec := rfl
@[simp] theorem State.setKvCtx_log (s : State) (c : CtxId) (x : KvCtx) : (s.setKvCtx c x).log = s.log := rfl
@[simp] theorem State.setKvCtx_wdts (s : State) (c : CtxId) (x : KvCtx) : (s.setKvCtx c x).wdts = s.wdts := rfl
@[simp] theorem State.setKvCtx_hartErr (s : State) (c : CtxId) (x : KvCtx) : (s.setKvCtx c x).hartErr = s.hartErr := rfl
@[simp] theorem State.setKvCtx_sram (s : State) (c : CtxId) (x : KvCtx) : (s.setKvCtx c x).sram = s.sram := rfl
@[simp] theorem State.setKvCtx_eths (s : State) (c : CtxId) (x : KvCtx) : (s.setKvCtx c x).eths = s.eths := rfl
@[simp] theorem State.setKvCtx_pcie (s : State) (c : CtxId) (x : KvCtx) : (s.setKvCtx c x).pcie = s.pcie := rfl
@[simp] theorem State.setKvCtx_mgtAddr (s : State) (c : CtxId) (x : KvCtx) : (s.setKvCtx c x).mgtAddr = s.mgtAddr := rfl
@[simp] theorem State.setKvCtx_tap (s : State) (c : CtxId) (x : KvCtx) : (s.setKvCtx c x).tap = s.tap := rfl
@[simp] theorem State.setKvCtx_perf (s : State) (c : CtxId) (x : KvCtx) : (s.setKvCtx c x).perf = s.perf := rfl
@[simp] theorem State.setKvCtx_perfCopy (s : State) (c : CtxId) (x : KvCtx) : (s.setKvCtx c x).perfCopy = s.perfCopy := rfl
@[simp] theorem State.setKvCtx_snapPending (s : State) (c : CtxId) (x : KvCtx) : (s.setKvCtx c x).snapPending = s.snapPending := rfl
@[simp] theorem State.setKvCtx_snapValid (s : State) (c : CtxId) (x : KvCtx) : (s.setKvCtx c x).snapValid = s.snapValid := rfl

/-! setPort: every field but ports. -/

@[simp] theorem State.setPort_pending (s : State) (p : PortId) (x : Port) : (s.setPort p x).pending = s.pending := rfl
@[simp] theorem State.setPort_fresh (s : State) (p : PortId) (x : Port) : (s.setPort p x).fresh = s.fresh := rfl
@[simp] theorem State.setPort_rdata (s : State) (p : PortId) (x : Port) : (s.setPort p x).rdata = s.rdata := rfl
@[simp] theorem State.setPort_bell (s : State) (p : PortId) (x : Port) : (s.setPort p x).bell = s.bell := rfl
@[simp] theorem State.setPort_life (s : State) (p : PortId) (x : Port) : (s.setPort p x).life = s.life := rfl
@[simp] theorem State.setPort_pstate (s : State) (p : PortId) (x : Port) : (s.setPort p x).pstate = s.pstate := rfl
@[simp] theorem State.setPort_boot (s : State) (p : PortId) (x : Port) : (s.setPort p x).boot = s.boot := rfl
@[simp] theorem State.setPort_straps (s : State) (p : PortId) (x : Port) : (s.setPort p x).straps = s.straps := rfl
@[simp] theorem State.setPort_resetN (s : State) (p : PortId) (x : Port) : (s.setPort p x).resetN = s.resetN := rfl
@[simp] theorem State.setPort_powerGood (s : State) (p : PortId) (x : Port) : (s.setPort p x).powerGood = s.powerGood := rfl
@[simp] theorem State.setPort_reading (s : State) (p : PortId) (x : Port) : (s.setPort p x).reading = s.reading := rfl
@[simp] theorem State.setPort_cores (s : State) (p : PortId) (x : Port) : (s.setPort p x).cores = s.cores := rfl
@[simp] theorem State.setPort_mem (s : State) (p : PortId) (x : Port) : (s.setPort p x).mem = s.mem := rfl
@[simp] theorem State.setPort_memPoison (s : State) (p : PortId) (x : Port) : (s.setPort p x).memPoison = s.memPoison := rfl
@[simp] theorem State.setPort_net (s : State) (p : PortId) (x : Port) : (s.setPort p x).net = s.net := rfl
@[simp] theorem State.setPort_lastBulk (s : State) (p : PortId) (x : Port) : (s.setPort p x).lastBulk = s.lastBulk := rfl
@[simp] theorem State.setPort_lastNarrow (s : State) (p : PortId) (x : Port) : (s.setPort p x).lastNarrow = s.lastNarrow := rfl
@[simp] theorem State.setPort_laneLast (s : State) (p : PortId) (x : Port) : (s.setPort p x).laneLast = s.laneLast := rfl
@[simp] theorem State.setPort_scrubAt (s : State) (p : PortId) (x : Port) : (s.setPort p x).scrubAt = s.scrubAt := rfl
@[simp] theorem State.setPort_wrecBase (s : State) (p : PortId) (x : Port) : (s.setPort p x).wrecBase = s.wrecBase := rfl
@[simp] theorem State.setPort_wrecCount (s : State) (p : PortId) (x : Port) : (s.setPort p x).wrecCount = s.wrecCount := rfl
@[simp] theorem State.setPort_flushBusy (s : State) (p : PortId) (x : Port) : (s.setPort p x).flushBusy = s.flushBusy := rfl
@[simp] theorem State.setPort_flushAll (s : State) (p : PortId) (x : Port) : (s.setPort p x).flushAll = s.flushAll := rfl
@[simp] theorem State.setPort_flushCtx (s : State) (p : PortId) (x : Port) : (s.setPort p x).flushCtx = s.flushCtx := rfl
@[simp] theorem State.setPort_ttbase (s : State) (p : PortId) (x : Port) : (s.setPort p x).ttbase = s.ttbase := rfl
@[simp] theorem State.setPort_winA (s : State) (p : PortId) (x : Port) : (s.setPort p x).winA = s.winA := rfl
@[simp] theorem State.setPort_winB (s : State) (p : PortId) (x : Port) : (s.setPort p x).winB = s.winB := rfl
@[simp] theorem State.setPort_impA (s : State) (p : PortId) (x : Port) : (s.setPort p x).impA = s.impA := rfl
@[simp] theorem State.setPort_impB (s : State) (p : PortId) (x : Port) : (s.setPort p x).impB = s.impB := rfl
@[simp] theorem State.setPort_lib (s : State) (p : PortId) (x : Port) : (s.setPort p x).lib = s.lib := rfl
@[simp] theorem State.setPort_libPages (s : State) (p : PortId) (x : Port) : (s.setPort p x).libPages = s.libPages := rfl
@[simp] theorem State.setPort_parity (s : State) (p : PortId) (x : Port) : (s.setPort p x).parity = s.parity := rfl
@[simp] theorem State.setPort_libSrc (s : State) (p : PortId) (x : Port) : (s.setPort p x).libSrc = s.libSrc := rfl
@[simp] theorem State.setPort_libBusy (s : State) (p : PortId) (x : Port) : (s.setPort p x).libBusy = s.libBusy := rfl
@[simp] theorem State.setPort_libOp (s : State) (p : PortId) (x : Port) : (s.setPort p x).libOp = s.libOp := rfl
@[simp] theorem State.setPort_libResult (s : State) (p : PortId) (x : Port) : (s.setPort p x).libResult = s.libResult := rfl
@[simp] theorem State.setPort_libPendingResult (s : State) (p : PortId) (x : Port) : (s.setPort p x).libPendingResult = s.libPendingResult := rfl
@[simp] theorem State.setPort_libRetryOk (s : State) (p : PortId) (x : Port) : (s.setPort p x).libRetryOk = s.libRetryOk := rfl
@[simp] theorem State.setPort_libRebuilt (s : State) (p : PortId) (x : Port) : (s.setPort p x).libRebuilt = s.libRebuilt := rfl
@[simp] theorem State.setPort_libLost (s : State) (p : PortId) (x : Port) : (s.setPort p x).libLost = s.libLost := rfl
@[simp] theorem State.setPort_dropWait (s : State) (p : PortId) (x : Port) : (s.setPort p x).dropWait = s.dropWait := rfl
@[simp] theorem State.setPort_libRetry (s : State) (p : PortId) (x : Port) : (s.setPort p x).libRetry = s.libRetry := rfl
@[simp] theorem State.setPort_migs (s : State) (p : PortId) (x : Port) : (s.setPort p x).migs = s.migs := rfl
@[simp] theorem State.setPort_wlatch (s : State) (p : PortId) (x : Port) : (s.setPort p x).wlatch = s.wlatch := rfl
@[simp] theorem State.setPort_libPage0 (s : State) (p : PortId) (x : Port) : (s.setPort p x).libPage0 = s.libPage0 := rfl
@[simp] theorem State.setPort_libCount (s : State) (p : PortId) (x : Port) : (s.setPort p x).libCount = s.libCount := rfl
@[simp] theorem State.setPort_formLines (s : State) (p : PortId) (x : Port) : (s.setPort p x).formLines = s.formLines := rfl
@[simp] theorem State.setPort_unitsOut (s : State) (p : PortId) (x : Port) : (s.setPort p x).unitsOut = s.unitsOut := rfl
@[simp] theorem State.setPort_epoch0 (s : State) (p : PortId) (x : Port) : (s.setPort p x).epoch0 = s.epoch0 := rfl
@[simp] theorem State.setPort_epoch1 (s : State) (p : PortId) (x : Port) : (s.setPort p x).epoch1 = s.epoch1 := rfl
@[simp] theorem State.setPort_devScratch (s : State) (p : PortId) (x : Port) : (s.setPort p x).devScratch = s.devScratch := rfl
@[simp] theorem State.setPort_intr (s : State) (p : PortId) (x : Port) : (s.setPort p x).intr = s.intr := rfl
@[simp] theorem State.setPort_intrEn (s : State) (p : PortId) (x : Port) : (s.setPort p x).intrEn = s.intrEn := rfl
@[simp] theorem State.setPort_ctxs (s : State) (p : PortId) (x : Port) : (s.setPort p x).ctxs = s.ctxs := rfl
@[simp] theorem State.setPort_ttCtxBase (s : State) (p : PortId) (x : Port) : (s.setPort p x).ttCtxBase = s.ttCtxBase := rfl
@[simp] theorem State.setPort_ttBusy (s : State) (p : PortId) (x : Port) : (s.setPort p x).ttBusy = s.ttBusy := rfl
@[simp] theorem State.setPort_ttResult (s : State) (p : PortId) (x : Port) : (s.setPort p x).ttResult = s.ttResult := rfl
@[simp] theorem State.setPort_ttOp (s : State) (p : PortId) (x : Port) : (s.setPort p x).ttOp = s.ttOp := rfl
@[simp] theorem State.setPort_ttCtx (s : State) (p : PortId) (x : Port) : (s.setPort p x).ttCtx = s.ttCtx := rfl
@[simp] theorem State.setPort_pools (s : State) (p : PortId) (x : Port) : (s.setPort p x).pools = s.pools := rfl
@[simp] theorem State.setPort_kvCtxs (s : State) (p : PortId) (x : Port) : (s.setPort p x).kvCtxs = s.kvCtxs := rfl
@[simp] theorem State.setPort_slots (s : State) (p : PortId) (x : Port) : (s.setPort p x).slots = s.slots := rfl
@[simp] theorem State.setPort_kvArg0 (s : State) (p : PortId) (x : Port) : (s.setPort p x).kvArg0 = s.kvArg0 := rfl
@[simp] theorem State.setPort_kvArg1 (s : State) (p : PortId) (x : Port) : (s.setPort p x).kvArg1 = s.kvArg1 := rfl
@[simp] theorem State.setPort_kvArg2 (s : State) (p : PortId) (x : Port) : (s.setPort p x).kvArg2 = s.kvArg2 := rfl
@[simp] theorem State.setPort_kvBusy (s : State) (p : PortId) (x : Port) : (s.setPort p x).kvBusy = s.kvBusy := rfl
@[simp] theorem State.setPort_kvResult (s : State) (p : PortId) (x : Port) : (s.setPort p x).kvResult = s.kvResult := rfl
@[simp] theorem State.setPort_kvOp (s : State) (p : PortId) (x : Port) : (s.setPort p x).kvOp = s.kvOp := rfl
@[simp] theorem State.setPort_kvSlot (s : State) (p : PortId) (x : Port) : (s.setPort p x).kvSlot = s.kvSlot := rfl
@[simp] theorem State.setPort_kvStep (s : State) (p : PortId) (x : Port) : (s.setPort p x).kvStep = s.kvStep := rfl
@[simp] theorem State.setPort_kvBoundary (s : State) (p : PortId) (x : Port) : (s.setPort p x).kvBoundary = s.kvBoundary := rfl
@[simp] theorem State.setPort_kvTrans (s : State) (p : PortId) (x : Port) : (s.setPort p x).kvTrans = s.kvTrans := rfl
@[simp] theorem State.setPort_kvCommitting (s : State) (p : PortId) (x : Port) : (s.setPort p x).kvCommitting = s.kvCommitting := rfl
@[simp] theorem State.setPort_kvEdit (s : State) (p : PortId) (x : Port) : (s.setPort p x).kvEdit = s.kvEdit := rfl
@[simp] theorem State.setPort_retired (s : State) (p : PortId) (x : Port) : (s.setPort p x).retired = s.retired := rfl
@[simp] theorem State.setPort_failedSets (s : State) (p : PortId) (x : Port) : (s.setPort p x).failedSets = s.failedSets := rfl
@[simp] theorem State.setPort_chipId (s : State) (p : PortId) (x : Port) : (s.setPort p x).chipId = s.chipId := rfl
@[simp] theorem State.setPort_chipValid (s : State) (p : PortId) (x : Port) : (s.setPort p x).chipValid = s.chipValid := rfl
@[simp] theorem State.setPort_dims (s : State) (p : PortId) (x : Port) : (s.setPort p x).dims = s.dims := rfl
@[simp] theorem State.setPort_routes (s : State) (p : PortId) (x : Port) : (s.setPort p x).routes = s.routes := rfl
@[simp] theorem State.setPort_inbox (s : State) (p : PortId) (x : Port) : (s.setPort p x).inbox = s.inbox := rfl
@[simp] theorem State.setPort_asked (s : State) (p : PortId) (x : Port) : (s.setPort p x).asked = s.asked := rfl
@[simp] theorem State.setPort_nextTag (s : State) (p : PortId) (x : Port) : (s.setPort p x).nextTag = s.nextTag := rfl
@[simp] theorem State.setPort_incoming (s : State) (p : PortId) (x : Port) : (s.setPort p x).incoming = s.incoming := rfl
@[simp] theorem State.setPort_stuck (s : State) (p : PortId) (x : Port) : (s.setPort p x).stuck = s.stuck := rfl
@[simp] theorem State.setPort_heldIn (s : State) (p : PortId) (x : Port) : (s.setPort p x).heldIn = s.heldIn := rfl
@[simp] theorem State.setPort_bellRoot (s : State) (p : PortId) (x : Port) : (s.setPort p x).bellRoot = s.bellRoot := rfl
@[simp] theorem State.setPort_bellState (s : State) (p : PortId) (x : Port) : (s.setPort p x).bellState = s.bellState := rfl
@[simp] theorem State.setPort_bellRate (s : State) (p : PortId) (x : Port) : (s.setPort p x).bellRate = s.bellRate := rfl
@[simp] theorem State.setPort_bellMax (s : State) (p : PortId) (x : Port) : (s.setPort p x).bellMax = s.bellMax := rfl
@[simp] theorem State.setPort_bellLost (s : State) (p : PortId) (x : Port) : (s.setPort p x).bellLost = s.bellLost := rfl
@[simp] theorem State.setPort_bellStepped (s : State) (p : PortId) (x : Port) : (s.setPort p x).bellStepped = s.bellStepped := rfl
@[simp] theorem State.setPort_bellSlew (s : State) (p : PortId) (x : Port) : (s.setPort p x).bellSlew = s.bellSlew := rfl
@[simp] theorem State.setPort_power (s : State) (p : PortId) (x : Port) : (s.setPort p x).power = s.power := rfl
@[simp] theorem State.setPort_sec (s : State) (p : PortId) (x : Port) : (s.setPort p x).sec = s.sec := rfl
@[simp] theorem State.setPort_log (s : State) (p : PortId) (x : Port) : (s.setPort p x).log = s.log := rfl
@[simp] theorem State.setPort_wdts (s : State) (p : PortId) (x : Port) : (s.setPort p x).wdts = s.wdts := rfl
@[simp] theorem State.setPort_hartErr (s : State) (p : PortId) (x : Port) : (s.setPort p x).hartErr = s.hartErr := rfl
@[simp] theorem State.setPort_sram (s : State) (p : PortId) (x : Port) : (s.setPort p x).sram = s.sram := rfl
@[simp] theorem State.setPort_eths (s : State) (p : PortId) (x : Port) : (s.setPort p x).eths = s.eths := rfl
@[simp] theorem State.setPort_pcie (s : State) (p : PortId) (x : Port) : (s.setPort p x).pcie = s.pcie := rfl
@[simp] theorem State.setPort_mgtAddr (s : State) (p : PortId) (x : Port) : (s.setPort p x).mgtAddr = s.mgtAddr := rfl
@[simp] theorem State.setPort_tap (s : State) (p : PortId) (x : Port) : (s.setPort p x).tap = s.tap := rfl
@[simp] theorem State.setPort_perf (s : State) (p : PortId) (x : Port) : (s.setPort p x).perf = s.perf := rfl
@[simp] theorem State.setPort_perfCopy (s : State) (p : PortId) (x : Port) : (s.setPort p x).perfCopy = s.perfCopy := rfl
@[simp] theorem State.setPort_snapPending (s : State) (p : PortId) (x : Port) : (s.setPort p x).snapPending = s.snapPending := rfl
@[simp] theorem State.setPort_snapValid (s : State) (p : PortId) (x : Port) : (s.setPort p x).snapValid = s.snapValid := rfl

/-! setLibPage: every field but libPages. -/

@[simp] theorem State.setLibPage_pending (s : State) (p : Nat) (x : LibPage) : (s.setLibPage p x).pending = s.pending := rfl
@[simp] theorem State.setLibPage_fresh (s : State) (p : Nat) (x : LibPage) : (s.setLibPage p x).fresh = s.fresh := rfl
@[simp] theorem State.setLibPage_rdata (s : State) (p : Nat) (x : LibPage) : (s.setLibPage p x).rdata = s.rdata := rfl
@[simp] theorem State.setLibPage_bell (s : State) (p : Nat) (x : LibPage) : (s.setLibPage p x).bell = s.bell := rfl
@[simp] theorem State.setLibPage_life (s : State) (p : Nat) (x : LibPage) : (s.setLibPage p x).life = s.life := rfl
@[simp] theorem State.setLibPage_pstate (s : State) (p : Nat) (x : LibPage) : (s.setLibPage p x).pstate = s.pstate := rfl
@[simp] theorem State.setLibPage_boot (s : State) (p : Nat) (x : LibPage) : (s.setLibPage p x).boot = s.boot := rfl
@[simp] theorem State.setLibPage_straps (s : State) (p : Nat) (x : LibPage) : (s.setLibPage p x).straps = s.straps := rfl
@[simp] theorem State.setLibPage_resetN (s : State) (p : Nat) (x : LibPage) : (s.setLibPage p x).resetN = s.resetN := rfl
@[simp] theorem State.setLibPage_powerGood (s : State) (p : Nat) (x : LibPage) : (s.setLibPage p x).powerGood = s.powerGood := rfl
@[simp] theorem State.setLibPage_reading (s : State) (p : Nat) (x : LibPage) : (s.setLibPage p x).reading = s.reading := rfl
@[simp] theorem State.setLibPage_cores (s : State) (p : Nat) (x : LibPage) : (s.setLibPage p x).cores = s.cores := rfl
@[simp] theorem State.setLibPage_mem (s : State) (p : Nat) (x : LibPage) : (s.setLibPage p x).mem = s.mem := rfl
@[simp] theorem State.setLibPage_memPoison (s : State) (p : Nat) (x : LibPage) : (s.setLibPage p x).memPoison = s.memPoison := rfl
@[simp] theorem State.setLibPage_net (s : State) (p : Nat) (x : LibPage) : (s.setLibPage p x).net = s.net := rfl
@[simp] theorem State.setLibPage_lastBulk (s : State) (p : Nat) (x : LibPage) : (s.setLibPage p x).lastBulk = s.lastBulk := rfl
@[simp] theorem State.setLibPage_lastNarrow (s : State) (p : Nat) (x : LibPage) : (s.setLibPage p x).lastNarrow = s.lastNarrow := rfl
@[simp] theorem State.setLibPage_laneLast (s : State) (p : Nat) (x : LibPage) : (s.setLibPage p x).laneLast = s.laneLast := rfl
@[simp] theorem State.setLibPage_scrubAt (s : State) (p : Nat) (x : LibPage) : (s.setLibPage p x).scrubAt = s.scrubAt := rfl
@[simp] theorem State.setLibPage_wrecBase (s : State) (p : Nat) (x : LibPage) : (s.setLibPage p x).wrecBase = s.wrecBase := rfl
@[simp] theorem State.setLibPage_wrecCount (s : State) (p : Nat) (x : LibPage) : (s.setLibPage p x).wrecCount = s.wrecCount := rfl
@[simp] theorem State.setLibPage_flushBusy (s : State) (p : Nat) (x : LibPage) : (s.setLibPage p x).flushBusy = s.flushBusy := rfl
@[simp] theorem State.setLibPage_flushAll (s : State) (p : Nat) (x : LibPage) : (s.setLibPage p x).flushAll = s.flushAll := rfl
@[simp] theorem State.setLibPage_flushCtx (s : State) (p : Nat) (x : LibPage) : (s.setLibPage p x).flushCtx = s.flushCtx := rfl
@[simp] theorem State.setLibPage_ttbase (s : State) (p : Nat) (x : LibPage) : (s.setLibPage p x).ttbase = s.ttbase := rfl
@[simp] theorem State.setLibPage_winA (s : State) (p : Nat) (x : LibPage) : (s.setLibPage p x).winA = s.winA := rfl
@[simp] theorem State.setLibPage_winB (s : State) (p : Nat) (x : LibPage) : (s.setLibPage p x).winB = s.winB := rfl
@[simp] theorem State.setLibPage_impA (s : State) (p : Nat) (x : LibPage) : (s.setLibPage p x).impA = s.impA := rfl
@[simp] theorem State.setLibPage_impB (s : State) (p : Nat) (x : LibPage) : (s.setLibPage p x).impB = s.impB := rfl
@[simp] theorem State.setLibPage_lib (s : State) (p : Nat) (x : LibPage) : (s.setLibPage p x).lib = s.lib := rfl
@[simp] theorem State.setLibPage_parity (s : State) (p : Nat) (x : LibPage) : (s.setLibPage p x).parity = s.parity := rfl
@[simp] theorem State.setLibPage_libSrc (s : State) (p : Nat) (x : LibPage) : (s.setLibPage p x).libSrc = s.libSrc := rfl
@[simp] theorem State.setLibPage_libBusy (s : State) (p : Nat) (x : LibPage) : (s.setLibPage p x).libBusy = s.libBusy := rfl
@[simp] theorem State.setLibPage_libOp (s : State) (p : Nat) (x : LibPage) : (s.setLibPage p x).libOp = s.libOp := rfl
@[simp] theorem State.setLibPage_libResult (s : State) (p : Nat) (x : LibPage) : (s.setLibPage p x).libResult = s.libResult := rfl
@[simp] theorem State.setLibPage_libPendingResult (s : State) (p : Nat) (x : LibPage) : (s.setLibPage p x).libPendingResult = s.libPendingResult := rfl
@[simp] theorem State.setLibPage_libRetryOk (s : State) (p : Nat) (x : LibPage) : (s.setLibPage p x).libRetryOk = s.libRetryOk := rfl
@[simp] theorem State.setLibPage_libRebuilt (s : State) (p : Nat) (x : LibPage) : (s.setLibPage p x).libRebuilt = s.libRebuilt := rfl
@[simp] theorem State.setLibPage_libLost (s : State) (p : Nat) (x : LibPage) : (s.setLibPage p x).libLost = s.libLost := rfl
@[simp] theorem State.setLibPage_dropWait (s : State) (p : Nat) (x : LibPage) : (s.setLibPage p x).dropWait = s.dropWait := rfl
@[simp] theorem State.setLibPage_libRetry (s : State) (p : Nat) (x : LibPage) : (s.setLibPage p x).libRetry = s.libRetry := rfl
@[simp] theorem State.setLibPage_migs (s : State) (p : Nat) (x : LibPage) : (s.setLibPage p x).migs = s.migs := rfl
@[simp] theorem State.setLibPage_wlatch (s : State) (p : Nat) (x : LibPage) : (s.setLibPage p x).wlatch = s.wlatch := rfl
@[simp] theorem State.setLibPage_libPage0 (s : State) (p : Nat) (x : LibPage) : (s.setLibPage p x).libPage0 = s.libPage0 := rfl
@[simp] theorem State.setLibPage_libCount (s : State) (p : Nat) (x : LibPage) : (s.setLibPage p x).libCount = s.libCount := rfl
@[simp] theorem State.setLibPage_formLines (s : State) (p : Nat) (x : LibPage) : (s.setLibPage p x).formLines = s.formLines := rfl
@[simp] theorem State.setLibPage_unitsOut (s : State) (p : Nat) (x : LibPage) : (s.setLibPage p x).unitsOut = s.unitsOut := rfl
@[simp] theorem State.setLibPage_epoch0 (s : State) (p : Nat) (x : LibPage) : (s.setLibPage p x).epoch0 = s.epoch0 := rfl
@[simp] theorem State.setLibPage_epoch1 (s : State) (p : Nat) (x : LibPage) : (s.setLibPage p x).epoch1 = s.epoch1 := rfl
@[simp] theorem State.setLibPage_devScratch (s : State) (p : Nat) (x : LibPage) : (s.setLibPage p x).devScratch = s.devScratch := rfl
@[simp] theorem State.setLibPage_intr (s : State) (p : Nat) (x : LibPage) : (s.setLibPage p x).intr = s.intr := rfl
@[simp] theorem State.setLibPage_intrEn (s : State) (p : Nat) (x : LibPage) : (s.setLibPage p x).intrEn = s.intrEn := rfl
@[simp] theorem State.setLibPage_ctxs (s : State) (p : Nat) (x : LibPage) : (s.setLibPage p x).ctxs = s.ctxs := rfl
@[simp] theorem State.setLibPage_ttCtxBase (s : State) (p : Nat) (x : LibPage) : (s.setLibPage p x).ttCtxBase = s.ttCtxBase := rfl
@[simp] theorem State.setLibPage_ttBusy (s : State) (p : Nat) (x : LibPage) : (s.setLibPage p x).ttBusy = s.ttBusy := rfl
@[simp] theorem State.setLibPage_ttResult (s : State) (p : Nat) (x : LibPage) : (s.setLibPage p x).ttResult = s.ttResult := rfl
@[simp] theorem State.setLibPage_ttOp (s : State) (p : Nat) (x : LibPage) : (s.setLibPage p x).ttOp = s.ttOp := rfl
@[simp] theorem State.setLibPage_ttCtx (s : State) (p : Nat) (x : LibPage) : (s.setLibPage p x).ttCtx = s.ttCtx := rfl
@[simp] theorem State.setLibPage_pools (s : State) (p : Nat) (x : LibPage) : (s.setLibPage p x).pools = s.pools := rfl
@[simp] theorem State.setLibPage_kvCtxs (s : State) (p : Nat) (x : LibPage) : (s.setLibPage p x).kvCtxs = s.kvCtxs := rfl
@[simp] theorem State.setLibPage_slots (s : State) (p : Nat) (x : LibPage) : (s.setLibPage p x).slots = s.slots := rfl
@[simp] theorem State.setLibPage_kvArg0 (s : State) (p : Nat) (x : LibPage) : (s.setLibPage p x).kvArg0 = s.kvArg0 := rfl
@[simp] theorem State.setLibPage_kvArg1 (s : State) (p : Nat) (x : LibPage) : (s.setLibPage p x).kvArg1 = s.kvArg1 := rfl
@[simp] theorem State.setLibPage_kvArg2 (s : State) (p : Nat) (x : LibPage) : (s.setLibPage p x).kvArg2 = s.kvArg2 := rfl
@[simp] theorem State.setLibPage_kvBusy (s : State) (p : Nat) (x : LibPage) : (s.setLibPage p x).kvBusy = s.kvBusy := rfl
@[simp] theorem State.setLibPage_kvResult (s : State) (p : Nat) (x : LibPage) : (s.setLibPage p x).kvResult = s.kvResult := rfl
@[simp] theorem State.setLibPage_kvOp (s : State) (p : Nat) (x : LibPage) : (s.setLibPage p x).kvOp = s.kvOp := rfl
@[simp] theorem State.setLibPage_kvSlot (s : State) (p : Nat) (x : LibPage) : (s.setLibPage p x).kvSlot = s.kvSlot := rfl
@[simp] theorem State.setLibPage_kvStep (s : State) (p : Nat) (x : LibPage) : (s.setLibPage p x).kvStep = s.kvStep := rfl
@[simp] theorem State.setLibPage_kvBoundary (s : State) (p : Nat) (x : LibPage) : (s.setLibPage p x).kvBoundary = s.kvBoundary := rfl
@[simp] theorem State.setLibPage_kvTrans (s : State) (p : Nat) (x : LibPage) : (s.setLibPage p x).kvTrans = s.kvTrans := rfl
@[simp] theorem State.setLibPage_kvCommitting (s : State) (p : Nat) (x : LibPage) : (s.setLibPage p x).kvCommitting = s.kvCommitting := rfl
@[simp] theorem State.setLibPage_kvEdit (s : State) (p : Nat) (x : LibPage) : (s.setLibPage p x).kvEdit = s.kvEdit := rfl
@[simp] theorem State.setLibPage_retired (s : State) (p : Nat) (x : LibPage) : (s.setLibPage p x).retired = s.retired := rfl
@[simp] theorem State.setLibPage_failedSets (s : State) (p : Nat) (x : LibPage) : (s.setLibPage p x).failedSets = s.failedSets := rfl
@[simp] theorem State.setLibPage_chipId (s : State) (p : Nat) (x : LibPage) : (s.setLibPage p x).chipId = s.chipId := rfl
@[simp] theorem State.setLibPage_chipValid (s : State) (p : Nat) (x : LibPage) : (s.setLibPage p x).chipValid = s.chipValid := rfl
@[simp] theorem State.setLibPage_dims (s : State) (p : Nat) (x : LibPage) : (s.setLibPage p x).dims = s.dims := rfl
@[simp] theorem State.setLibPage_routes (s : State) (p : Nat) (x : LibPage) : (s.setLibPage p x).routes = s.routes := rfl
@[simp] theorem State.setLibPage_ports (s : State) (p : Nat) (x : LibPage) : (s.setLibPage p x).ports = s.ports := rfl
@[simp] theorem State.setLibPage_inbox (s : State) (p : Nat) (x : LibPage) : (s.setLibPage p x).inbox = s.inbox := rfl
@[simp] theorem State.setLibPage_asked (s : State) (p : Nat) (x : LibPage) : (s.setLibPage p x).asked = s.asked := rfl
@[simp] theorem State.setLibPage_nextTag (s : State) (p : Nat) (x : LibPage) : (s.setLibPage p x).nextTag = s.nextTag := rfl
@[simp] theorem State.setLibPage_incoming (s : State) (p : Nat) (x : LibPage) : (s.setLibPage p x).incoming = s.incoming := rfl
@[simp] theorem State.setLibPage_stuck (s : State) (p : Nat) (x : LibPage) : (s.setLibPage p x).stuck = s.stuck := rfl
@[simp] theorem State.setLibPage_heldIn (s : State) (p : Nat) (x : LibPage) : (s.setLibPage p x).heldIn = s.heldIn := rfl
@[simp] theorem State.setLibPage_bellRoot (s : State) (p : Nat) (x : LibPage) : (s.setLibPage p x).bellRoot = s.bellRoot := rfl
@[simp] theorem State.setLibPage_bellState (s : State) (p : Nat) (x : LibPage) : (s.setLibPage p x).bellState = s.bellState := rfl
@[simp] theorem State.setLibPage_bellRate (s : State) (p : Nat) (x : LibPage) : (s.setLibPage p x).bellRate = s.bellRate := rfl
@[simp] theorem State.setLibPage_bellMax (s : State) (p : Nat) (x : LibPage) : (s.setLibPage p x).bellMax = s.bellMax := rfl
@[simp] theorem State.setLibPage_bellLost (s : State) (p : Nat) (x : LibPage) : (s.setLibPage p x).bellLost = s.bellLost := rfl
@[simp] theorem State.setLibPage_bellStepped (s : State) (p : Nat) (x : LibPage) : (s.setLibPage p x).bellStepped = s.bellStepped := rfl
@[simp] theorem State.setLibPage_bellSlew (s : State) (p : Nat) (x : LibPage) : (s.setLibPage p x).bellSlew = s.bellSlew := rfl
@[simp] theorem State.setLibPage_power (s : State) (p : Nat) (x : LibPage) : (s.setLibPage p x).power = s.power := rfl
@[simp] theorem State.setLibPage_sec (s : State) (p : Nat) (x : LibPage) : (s.setLibPage p x).sec = s.sec := rfl
@[simp] theorem State.setLibPage_log (s : State) (p : Nat) (x : LibPage) : (s.setLibPage p x).log = s.log := rfl
@[simp] theorem State.setLibPage_wdts (s : State) (p : Nat) (x : LibPage) : (s.setLibPage p x).wdts = s.wdts := rfl
@[simp] theorem State.setLibPage_hartErr (s : State) (p : Nat) (x : LibPage) : (s.setLibPage p x).hartErr = s.hartErr := rfl
@[simp] theorem State.setLibPage_sram (s : State) (p : Nat) (x : LibPage) : (s.setLibPage p x).sram = s.sram := rfl
@[simp] theorem State.setLibPage_eths (s : State) (p : Nat) (x : LibPage) : (s.setLibPage p x).eths = s.eths := rfl
@[simp] theorem State.setLibPage_pcie (s : State) (p : Nat) (x : LibPage) : (s.setLibPage p x).pcie = s.pcie := rfl
@[simp] theorem State.setLibPage_mgtAddr (s : State) (p : Nat) (x : LibPage) : (s.setLibPage p x).mgtAddr = s.mgtAddr := rfl
@[simp] theorem State.setLibPage_tap (s : State) (p : Nat) (x : LibPage) : (s.setLibPage p x).tap = s.tap := rfl
@[simp] theorem State.setLibPage_perf (s : State) (p : Nat) (x : LibPage) : (s.setLibPage p x).perf = s.perf := rfl
@[simp] theorem State.setLibPage_perfCopy (s : State) (p : Nat) (x : LibPage) : (s.setLibPage p x).perfCopy = s.perfCopy := rfl
@[simp] theorem State.setLibPage_snapPending (s : State) (p : Nat) (x : LibPage) : (s.setLibPage p x).snapPending = s.snapPending := rfl
@[simp] theorem State.setLibPage_snapValid (s : State) (p : Nat) (x : LibPage) : (s.setLibPage p x).snapValid = s.snapValid := rfl

/-! setWdt: every field but wdts. -/

@[simp] theorem State.setWdt_pending (s : State) (c : BitVec 2) (x : Watchdog) : (s.setWdt c x).pending = s.pending := rfl
@[simp] theorem State.setWdt_fresh (s : State) (c : BitVec 2) (x : Watchdog) : (s.setWdt c x).fresh = s.fresh := rfl
@[simp] theorem State.setWdt_rdata (s : State) (c : BitVec 2) (x : Watchdog) : (s.setWdt c x).rdata = s.rdata := rfl
@[simp] theorem State.setWdt_bell (s : State) (c : BitVec 2) (x : Watchdog) : (s.setWdt c x).bell = s.bell := rfl
@[simp] theorem State.setWdt_life (s : State) (c : BitVec 2) (x : Watchdog) : (s.setWdt c x).life = s.life := rfl
@[simp] theorem State.setWdt_pstate (s : State) (c : BitVec 2) (x : Watchdog) : (s.setWdt c x).pstate = s.pstate := rfl
@[simp] theorem State.setWdt_boot (s : State) (c : BitVec 2) (x : Watchdog) : (s.setWdt c x).boot = s.boot := rfl
@[simp] theorem State.setWdt_straps (s : State) (c : BitVec 2) (x : Watchdog) : (s.setWdt c x).straps = s.straps := rfl
@[simp] theorem State.setWdt_resetN (s : State) (c : BitVec 2) (x : Watchdog) : (s.setWdt c x).resetN = s.resetN := rfl
@[simp] theorem State.setWdt_powerGood (s : State) (c : BitVec 2) (x : Watchdog) : (s.setWdt c x).powerGood = s.powerGood := rfl
@[simp] theorem State.setWdt_reading (s : State) (c : BitVec 2) (x : Watchdog) : (s.setWdt c x).reading = s.reading := rfl
@[simp] theorem State.setWdt_cores (s : State) (c : BitVec 2) (x : Watchdog) : (s.setWdt c x).cores = s.cores := rfl
@[simp] theorem State.setWdt_mem (s : State) (c : BitVec 2) (x : Watchdog) : (s.setWdt c x).mem = s.mem := rfl
@[simp] theorem State.setWdt_memPoison (s : State) (c : BitVec 2) (x : Watchdog) : (s.setWdt c x).memPoison = s.memPoison := rfl
@[simp] theorem State.setWdt_net (s : State) (c : BitVec 2) (x : Watchdog) : (s.setWdt c x).net = s.net := rfl
@[simp] theorem State.setWdt_lastBulk (s : State) (c : BitVec 2) (x : Watchdog) : (s.setWdt c x).lastBulk = s.lastBulk := rfl
@[simp] theorem State.setWdt_lastNarrow (s : State) (c : BitVec 2) (x : Watchdog) : (s.setWdt c x).lastNarrow = s.lastNarrow := rfl
@[simp] theorem State.setWdt_laneLast (s : State) (c : BitVec 2) (x : Watchdog) : (s.setWdt c x).laneLast = s.laneLast := rfl
@[simp] theorem State.setWdt_scrubAt (s : State) (c : BitVec 2) (x : Watchdog) : (s.setWdt c x).scrubAt = s.scrubAt := rfl
@[simp] theorem State.setWdt_wrecBase (s : State) (c : BitVec 2) (x : Watchdog) : (s.setWdt c x).wrecBase = s.wrecBase := rfl
@[simp] theorem State.setWdt_wrecCount (s : State) (c : BitVec 2) (x : Watchdog) : (s.setWdt c x).wrecCount = s.wrecCount := rfl
@[simp] theorem State.setWdt_flushBusy (s : State) (c : BitVec 2) (x : Watchdog) : (s.setWdt c x).flushBusy = s.flushBusy := rfl
@[simp] theorem State.setWdt_flushAll (s : State) (c : BitVec 2) (x : Watchdog) : (s.setWdt c x).flushAll = s.flushAll := rfl
@[simp] theorem State.setWdt_flushCtx (s : State) (c : BitVec 2) (x : Watchdog) : (s.setWdt c x).flushCtx = s.flushCtx := rfl
@[simp] theorem State.setWdt_ttbase (s : State) (c : BitVec 2) (x : Watchdog) : (s.setWdt c x).ttbase = s.ttbase := rfl
@[simp] theorem State.setWdt_winA (s : State) (c : BitVec 2) (x : Watchdog) : (s.setWdt c x).winA = s.winA := rfl
@[simp] theorem State.setWdt_winB (s : State) (c : BitVec 2) (x : Watchdog) : (s.setWdt c x).winB = s.winB := rfl
@[simp] theorem State.setWdt_impA (s : State) (c : BitVec 2) (x : Watchdog) : (s.setWdt c x).impA = s.impA := rfl
@[simp] theorem State.setWdt_impB (s : State) (c : BitVec 2) (x : Watchdog) : (s.setWdt c x).impB = s.impB := rfl
@[simp] theorem State.setWdt_lib (s : State) (c : BitVec 2) (x : Watchdog) : (s.setWdt c x).lib = s.lib := rfl
@[simp] theorem State.setWdt_libPages (s : State) (c : BitVec 2) (x : Watchdog) : (s.setWdt c x).libPages = s.libPages := rfl
@[simp] theorem State.setWdt_parity (s : State) (c : BitVec 2) (x : Watchdog) : (s.setWdt c x).parity = s.parity := rfl
@[simp] theorem State.setWdt_libSrc (s : State) (c : BitVec 2) (x : Watchdog) : (s.setWdt c x).libSrc = s.libSrc := rfl
@[simp] theorem State.setWdt_libBusy (s : State) (c : BitVec 2) (x : Watchdog) : (s.setWdt c x).libBusy = s.libBusy := rfl
@[simp] theorem State.setWdt_libOp (s : State) (c : BitVec 2) (x : Watchdog) : (s.setWdt c x).libOp = s.libOp := rfl
@[simp] theorem State.setWdt_libResult (s : State) (c : BitVec 2) (x : Watchdog) : (s.setWdt c x).libResult = s.libResult := rfl
@[simp] theorem State.setWdt_libPendingResult (s : State) (c : BitVec 2) (x : Watchdog) : (s.setWdt c x).libPendingResult = s.libPendingResult := rfl
@[simp] theorem State.setWdt_libRetryOk (s : State) (c : BitVec 2) (x : Watchdog) : (s.setWdt c x).libRetryOk = s.libRetryOk := rfl
@[simp] theorem State.setWdt_libRebuilt (s : State) (c : BitVec 2) (x : Watchdog) : (s.setWdt c x).libRebuilt = s.libRebuilt := rfl
@[simp] theorem State.setWdt_libLost (s : State) (c : BitVec 2) (x : Watchdog) : (s.setWdt c x).libLost = s.libLost := rfl
@[simp] theorem State.setWdt_dropWait (s : State) (c : BitVec 2) (x : Watchdog) : (s.setWdt c x).dropWait = s.dropWait := rfl
@[simp] theorem State.setWdt_libRetry (s : State) (c : BitVec 2) (x : Watchdog) : (s.setWdt c x).libRetry = s.libRetry := rfl
@[simp] theorem State.setWdt_migs (s : State) (c : BitVec 2) (x : Watchdog) : (s.setWdt c x).migs = s.migs := rfl
@[simp] theorem State.setWdt_wlatch (s : State) (c : BitVec 2) (x : Watchdog) : (s.setWdt c x).wlatch = s.wlatch := rfl
@[simp] theorem State.setWdt_libPage0 (s : State) (c : BitVec 2) (x : Watchdog) : (s.setWdt c x).libPage0 = s.libPage0 := rfl
@[simp] theorem State.setWdt_libCount (s : State) (c : BitVec 2) (x : Watchdog) : (s.setWdt c x).libCount = s.libCount := rfl
@[simp] theorem State.setWdt_formLines (s : State) (c : BitVec 2) (x : Watchdog) : (s.setWdt c x).formLines = s.formLines := rfl
@[simp] theorem State.setWdt_unitsOut (s : State) (c : BitVec 2) (x : Watchdog) : (s.setWdt c x).unitsOut = s.unitsOut := rfl
@[simp] theorem State.setWdt_epoch0 (s : State) (c : BitVec 2) (x : Watchdog) : (s.setWdt c x).epoch0 = s.epoch0 := rfl
@[simp] theorem State.setWdt_epoch1 (s : State) (c : BitVec 2) (x : Watchdog) : (s.setWdt c x).epoch1 = s.epoch1 := rfl
@[simp] theorem State.setWdt_devScratch (s : State) (c : BitVec 2) (x : Watchdog) : (s.setWdt c x).devScratch = s.devScratch := rfl
@[simp] theorem State.setWdt_intr (s : State) (c : BitVec 2) (x : Watchdog) : (s.setWdt c x).intr = s.intr := rfl
@[simp] theorem State.setWdt_intrEn (s : State) (c : BitVec 2) (x : Watchdog) : (s.setWdt c x).intrEn = s.intrEn := rfl
@[simp] theorem State.setWdt_ctxs (s : State) (c : BitVec 2) (x : Watchdog) : (s.setWdt c x).ctxs = s.ctxs := rfl
@[simp] theorem State.setWdt_ttCtxBase (s : State) (c : BitVec 2) (x : Watchdog) : (s.setWdt c x).ttCtxBase = s.ttCtxBase := rfl
@[simp] theorem State.setWdt_ttBusy (s : State) (c : BitVec 2) (x : Watchdog) : (s.setWdt c x).ttBusy = s.ttBusy := rfl
@[simp] theorem State.setWdt_ttResult (s : State) (c : BitVec 2) (x : Watchdog) : (s.setWdt c x).ttResult = s.ttResult := rfl
@[simp] theorem State.setWdt_ttOp (s : State) (c : BitVec 2) (x : Watchdog) : (s.setWdt c x).ttOp = s.ttOp := rfl
@[simp] theorem State.setWdt_ttCtx (s : State) (c : BitVec 2) (x : Watchdog) : (s.setWdt c x).ttCtx = s.ttCtx := rfl
@[simp] theorem State.setWdt_pools (s : State) (c : BitVec 2) (x : Watchdog) : (s.setWdt c x).pools = s.pools := rfl
@[simp] theorem State.setWdt_kvCtxs (s : State) (c : BitVec 2) (x : Watchdog) : (s.setWdt c x).kvCtxs = s.kvCtxs := rfl
@[simp] theorem State.setWdt_slots (s : State) (c : BitVec 2) (x : Watchdog) : (s.setWdt c x).slots = s.slots := rfl
@[simp] theorem State.setWdt_kvArg0 (s : State) (c : BitVec 2) (x : Watchdog) : (s.setWdt c x).kvArg0 = s.kvArg0 := rfl
@[simp] theorem State.setWdt_kvArg1 (s : State) (c : BitVec 2) (x : Watchdog) : (s.setWdt c x).kvArg1 = s.kvArg1 := rfl
@[simp] theorem State.setWdt_kvArg2 (s : State) (c : BitVec 2) (x : Watchdog) : (s.setWdt c x).kvArg2 = s.kvArg2 := rfl
@[simp] theorem State.setWdt_kvBusy (s : State) (c : BitVec 2) (x : Watchdog) : (s.setWdt c x).kvBusy = s.kvBusy := rfl
@[simp] theorem State.setWdt_kvResult (s : State) (c : BitVec 2) (x : Watchdog) : (s.setWdt c x).kvResult = s.kvResult := rfl
@[simp] theorem State.setWdt_kvOp (s : State) (c : BitVec 2) (x : Watchdog) : (s.setWdt c x).kvOp = s.kvOp := rfl
@[simp] theorem State.setWdt_kvSlot (s : State) (c : BitVec 2) (x : Watchdog) : (s.setWdt c x).kvSlot = s.kvSlot := rfl
@[simp] theorem State.setWdt_kvStep (s : State) (c : BitVec 2) (x : Watchdog) : (s.setWdt c x).kvStep = s.kvStep := rfl
@[simp] theorem State.setWdt_kvBoundary (s : State) (c : BitVec 2) (x : Watchdog) : (s.setWdt c x).kvBoundary = s.kvBoundary := rfl
@[simp] theorem State.setWdt_kvTrans (s : State) (c : BitVec 2) (x : Watchdog) : (s.setWdt c x).kvTrans = s.kvTrans := rfl
@[simp] theorem State.setWdt_kvCommitting (s : State) (c : BitVec 2) (x : Watchdog) : (s.setWdt c x).kvCommitting = s.kvCommitting := rfl
@[simp] theorem State.setWdt_kvEdit (s : State) (c : BitVec 2) (x : Watchdog) : (s.setWdt c x).kvEdit = s.kvEdit := rfl
@[simp] theorem State.setWdt_retired (s : State) (c : BitVec 2) (x : Watchdog) : (s.setWdt c x).retired = s.retired := rfl
@[simp] theorem State.setWdt_failedSets (s : State) (c : BitVec 2) (x : Watchdog) : (s.setWdt c x).failedSets = s.failedSets := rfl
@[simp] theorem State.setWdt_chipId (s : State) (c : BitVec 2) (x : Watchdog) : (s.setWdt c x).chipId = s.chipId := rfl
@[simp] theorem State.setWdt_chipValid (s : State) (c : BitVec 2) (x : Watchdog) : (s.setWdt c x).chipValid = s.chipValid := rfl
@[simp] theorem State.setWdt_dims (s : State) (c : BitVec 2) (x : Watchdog) : (s.setWdt c x).dims = s.dims := rfl
@[simp] theorem State.setWdt_routes (s : State) (c : BitVec 2) (x : Watchdog) : (s.setWdt c x).routes = s.routes := rfl
@[simp] theorem State.setWdt_ports (s : State) (c : BitVec 2) (x : Watchdog) : (s.setWdt c x).ports = s.ports := rfl
@[simp] theorem State.setWdt_inbox (s : State) (c : BitVec 2) (x : Watchdog) : (s.setWdt c x).inbox = s.inbox := rfl
@[simp] theorem State.setWdt_asked (s : State) (c : BitVec 2) (x : Watchdog) : (s.setWdt c x).asked = s.asked := rfl
@[simp] theorem State.setWdt_nextTag (s : State) (c : BitVec 2) (x : Watchdog) : (s.setWdt c x).nextTag = s.nextTag := rfl
@[simp] theorem State.setWdt_incoming (s : State) (c : BitVec 2) (x : Watchdog) : (s.setWdt c x).incoming = s.incoming := rfl
@[simp] theorem State.setWdt_stuck (s : State) (c : BitVec 2) (x : Watchdog) : (s.setWdt c x).stuck = s.stuck := rfl
@[simp] theorem State.setWdt_heldIn (s : State) (c : BitVec 2) (x : Watchdog) : (s.setWdt c x).heldIn = s.heldIn := rfl
@[simp] theorem State.setWdt_bellRoot (s : State) (c : BitVec 2) (x : Watchdog) : (s.setWdt c x).bellRoot = s.bellRoot := rfl
@[simp] theorem State.setWdt_bellState (s : State) (c : BitVec 2) (x : Watchdog) : (s.setWdt c x).bellState = s.bellState := rfl
@[simp] theorem State.setWdt_bellRate (s : State) (c : BitVec 2) (x : Watchdog) : (s.setWdt c x).bellRate = s.bellRate := rfl
@[simp] theorem State.setWdt_bellMax (s : State) (c : BitVec 2) (x : Watchdog) : (s.setWdt c x).bellMax = s.bellMax := rfl
@[simp] theorem State.setWdt_bellLost (s : State) (c : BitVec 2) (x : Watchdog) : (s.setWdt c x).bellLost = s.bellLost := rfl
@[simp] theorem State.setWdt_bellStepped (s : State) (c : BitVec 2) (x : Watchdog) : (s.setWdt c x).bellStepped = s.bellStepped := rfl
@[simp] theorem State.setWdt_bellSlew (s : State) (c : BitVec 2) (x : Watchdog) : (s.setWdt c x).bellSlew = s.bellSlew := rfl
@[simp] theorem State.setWdt_power (s : State) (c : BitVec 2) (x : Watchdog) : (s.setWdt c x).power = s.power := rfl
@[simp] theorem State.setWdt_sec (s : State) (c : BitVec 2) (x : Watchdog) : (s.setWdt c x).sec = s.sec := rfl
@[simp] theorem State.setWdt_log (s : State) (c : BitVec 2) (x : Watchdog) : (s.setWdt c x).log = s.log := rfl
@[simp] theorem State.setWdt_hartErr (s : State) (c : BitVec 2) (x : Watchdog) : (s.setWdt c x).hartErr = s.hartErr := rfl
@[simp] theorem State.setWdt_sram (s : State) (c : BitVec 2) (x : Watchdog) : (s.setWdt c x).sram = s.sram := rfl
@[simp] theorem State.setWdt_eths (s : State) (c : BitVec 2) (x : Watchdog) : (s.setWdt c x).eths = s.eths := rfl
@[simp] theorem State.setWdt_pcie (s : State) (c : BitVec 2) (x : Watchdog) : (s.setWdt c x).pcie = s.pcie := rfl
@[simp] theorem State.setWdt_mgtAddr (s : State) (c : BitVec 2) (x : Watchdog) : (s.setWdt c x).mgtAddr = s.mgtAddr := rfl
@[simp] theorem State.setWdt_tap (s : State) (c : BitVec 2) (x : Watchdog) : (s.setWdt c x).tap = s.tap := rfl
@[simp] theorem State.setWdt_perf (s : State) (c : BitVec 2) (x : Watchdog) : (s.setWdt c x).perf = s.perf := rfl
@[simp] theorem State.setWdt_perfCopy (s : State) (c : BitVec 2) (x : Watchdog) : (s.setWdt c x).perfCopy = s.perfCopy := rfl
@[simp] theorem State.setWdt_snapPending (s : State) (c : BitVec 2) (x : Watchdog) : (s.setWdt c x).snapPending = s.snapPending := rfl
@[simp] theorem State.setWdt_snapValid (s : State) (c : BitVec 2) (x : Watchdog) : (s.setWdt c x).snapValid = s.snapValid := rfl

/-! setEth: every field but eths. -/

@[simp] theorem State.setEth_pending (s : State) (n : Bool) (x : Eth) : (s.setEth n x).pending = s.pending := rfl
@[simp] theorem State.setEth_fresh (s : State) (n : Bool) (x : Eth) : (s.setEth n x).fresh = s.fresh := rfl
@[simp] theorem State.setEth_rdata (s : State) (n : Bool) (x : Eth) : (s.setEth n x).rdata = s.rdata := rfl
@[simp] theorem State.setEth_bell (s : State) (n : Bool) (x : Eth) : (s.setEth n x).bell = s.bell := rfl
@[simp] theorem State.setEth_life (s : State) (n : Bool) (x : Eth) : (s.setEth n x).life = s.life := rfl
@[simp] theorem State.setEth_pstate (s : State) (n : Bool) (x : Eth) : (s.setEth n x).pstate = s.pstate := rfl
@[simp] theorem State.setEth_boot (s : State) (n : Bool) (x : Eth) : (s.setEth n x).boot = s.boot := rfl
@[simp] theorem State.setEth_straps (s : State) (n : Bool) (x : Eth) : (s.setEth n x).straps = s.straps := rfl
@[simp] theorem State.setEth_resetN (s : State) (n : Bool) (x : Eth) : (s.setEth n x).resetN = s.resetN := rfl
@[simp] theorem State.setEth_powerGood (s : State) (n : Bool) (x : Eth) : (s.setEth n x).powerGood = s.powerGood := rfl
@[simp] theorem State.setEth_reading (s : State) (n : Bool) (x : Eth) : (s.setEth n x).reading = s.reading := rfl
@[simp] theorem State.setEth_cores (s : State) (n : Bool) (x : Eth) : (s.setEth n x).cores = s.cores := rfl
@[simp] theorem State.setEth_mem (s : State) (n : Bool) (x : Eth) : (s.setEth n x).mem = s.mem := rfl
@[simp] theorem State.setEth_memPoison (s : State) (n : Bool) (x : Eth) : (s.setEth n x).memPoison = s.memPoison := rfl
@[simp] theorem State.setEth_net (s : State) (n : Bool) (x : Eth) : (s.setEth n x).net = s.net := rfl
@[simp] theorem State.setEth_lastBulk (s : State) (n : Bool) (x : Eth) : (s.setEth n x).lastBulk = s.lastBulk := rfl
@[simp] theorem State.setEth_lastNarrow (s : State) (n : Bool) (x : Eth) : (s.setEth n x).lastNarrow = s.lastNarrow := rfl
@[simp] theorem State.setEth_laneLast (s : State) (n : Bool) (x : Eth) : (s.setEth n x).laneLast = s.laneLast := rfl
@[simp] theorem State.setEth_scrubAt (s : State) (n : Bool) (x : Eth) : (s.setEth n x).scrubAt = s.scrubAt := rfl
@[simp] theorem State.setEth_wrecBase (s : State) (n : Bool) (x : Eth) : (s.setEth n x).wrecBase = s.wrecBase := rfl
@[simp] theorem State.setEth_wrecCount (s : State) (n : Bool) (x : Eth) : (s.setEth n x).wrecCount = s.wrecCount := rfl
@[simp] theorem State.setEth_flushBusy (s : State) (n : Bool) (x : Eth) : (s.setEth n x).flushBusy = s.flushBusy := rfl
@[simp] theorem State.setEth_flushAll (s : State) (n : Bool) (x : Eth) : (s.setEth n x).flushAll = s.flushAll := rfl
@[simp] theorem State.setEth_flushCtx (s : State) (n : Bool) (x : Eth) : (s.setEth n x).flushCtx = s.flushCtx := rfl
@[simp] theorem State.setEth_ttbase (s : State) (n : Bool) (x : Eth) : (s.setEth n x).ttbase = s.ttbase := rfl
@[simp] theorem State.setEth_winA (s : State) (n : Bool) (x : Eth) : (s.setEth n x).winA = s.winA := rfl
@[simp] theorem State.setEth_winB (s : State) (n : Bool) (x : Eth) : (s.setEth n x).winB = s.winB := rfl
@[simp] theorem State.setEth_impA (s : State) (n : Bool) (x : Eth) : (s.setEth n x).impA = s.impA := rfl
@[simp] theorem State.setEth_impB (s : State) (n : Bool) (x : Eth) : (s.setEth n x).impB = s.impB := rfl
@[simp] theorem State.setEth_lib (s : State) (n : Bool) (x : Eth) : (s.setEth n x).lib = s.lib := rfl
@[simp] theorem State.setEth_libPages (s : State) (n : Bool) (x : Eth) : (s.setEth n x).libPages = s.libPages := rfl
@[simp] theorem State.setEth_parity (s : State) (n : Bool) (x : Eth) : (s.setEth n x).parity = s.parity := rfl
@[simp] theorem State.setEth_libSrc (s : State) (n : Bool) (x : Eth) : (s.setEth n x).libSrc = s.libSrc := rfl
@[simp] theorem State.setEth_libBusy (s : State) (n : Bool) (x : Eth) : (s.setEth n x).libBusy = s.libBusy := rfl
@[simp] theorem State.setEth_libOp (s : State) (n : Bool) (x : Eth) : (s.setEth n x).libOp = s.libOp := rfl
@[simp] theorem State.setEth_libResult (s : State) (n : Bool) (x : Eth) : (s.setEth n x).libResult = s.libResult := rfl
@[simp] theorem State.setEth_libPendingResult (s : State) (n : Bool) (x : Eth) : (s.setEth n x).libPendingResult = s.libPendingResult := rfl
@[simp] theorem State.setEth_libRetryOk (s : State) (n : Bool) (x : Eth) : (s.setEth n x).libRetryOk = s.libRetryOk := rfl
@[simp] theorem State.setEth_libRebuilt (s : State) (n : Bool) (x : Eth) : (s.setEth n x).libRebuilt = s.libRebuilt := rfl
@[simp] theorem State.setEth_libLost (s : State) (n : Bool) (x : Eth) : (s.setEth n x).libLost = s.libLost := rfl
@[simp] theorem State.setEth_dropWait (s : State) (n : Bool) (x : Eth) : (s.setEth n x).dropWait = s.dropWait := rfl
@[simp] theorem State.setEth_libRetry (s : State) (n : Bool) (x : Eth) : (s.setEth n x).libRetry = s.libRetry := rfl
@[simp] theorem State.setEth_migs (s : State) (n : Bool) (x : Eth) : (s.setEth n x).migs = s.migs := rfl
@[simp] theorem State.setEth_wlatch (s : State) (n : Bool) (x : Eth) : (s.setEth n x).wlatch = s.wlatch := rfl
@[simp] theorem State.setEth_libPage0 (s : State) (n : Bool) (x : Eth) : (s.setEth n x).libPage0 = s.libPage0 := rfl
@[simp] theorem State.setEth_libCount (s : State) (n : Bool) (x : Eth) : (s.setEth n x).libCount = s.libCount := rfl
@[simp] theorem State.setEth_formLines (s : State) (n : Bool) (x : Eth) : (s.setEth n x).formLines = s.formLines := rfl
@[simp] theorem State.setEth_unitsOut (s : State) (n : Bool) (x : Eth) : (s.setEth n x).unitsOut = s.unitsOut := rfl
@[simp] theorem State.setEth_epoch0 (s : State) (n : Bool) (x : Eth) : (s.setEth n x).epoch0 = s.epoch0 := rfl
@[simp] theorem State.setEth_epoch1 (s : State) (n : Bool) (x : Eth) : (s.setEth n x).epoch1 = s.epoch1 := rfl
@[simp] theorem State.setEth_devScratch (s : State) (n : Bool) (x : Eth) : (s.setEth n x).devScratch = s.devScratch := rfl
@[simp] theorem State.setEth_intr (s : State) (n : Bool) (x : Eth) : (s.setEth n x).intr = s.intr := rfl
@[simp] theorem State.setEth_intrEn (s : State) (n : Bool) (x : Eth) : (s.setEth n x).intrEn = s.intrEn := rfl
@[simp] theorem State.setEth_ctxs (s : State) (n : Bool) (x : Eth) : (s.setEth n x).ctxs = s.ctxs := rfl
@[simp] theorem State.setEth_ttCtxBase (s : State) (n : Bool) (x : Eth) : (s.setEth n x).ttCtxBase = s.ttCtxBase := rfl
@[simp] theorem State.setEth_ttBusy (s : State) (n : Bool) (x : Eth) : (s.setEth n x).ttBusy = s.ttBusy := rfl
@[simp] theorem State.setEth_ttResult (s : State) (n : Bool) (x : Eth) : (s.setEth n x).ttResult = s.ttResult := rfl
@[simp] theorem State.setEth_ttOp (s : State) (n : Bool) (x : Eth) : (s.setEth n x).ttOp = s.ttOp := rfl
@[simp] theorem State.setEth_ttCtx (s : State) (n : Bool) (x : Eth) : (s.setEth n x).ttCtx = s.ttCtx := rfl
@[simp] theorem State.setEth_pools (s : State) (n : Bool) (x : Eth) : (s.setEth n x).pools = s.pools := rfl
@[simp] theorem State.setEth_kvCtxs (s : State) (n : Bool) (x : Eth) : (s.setEth n x).kvCtxs = s.kvCtxs := rfl
@[simp] theorem State.setEth_slots (s : State) (n : Bool) (x : Eth) : (s.setEth n x).slots = s.slots := rfl
@[simp] theorem State.setEth_kvArg0 (s : State) (n : Bool) (x : Eth) : (s.setEth n x).kvArg0 = s.kvArg0 := rfl
@[simp] theorem State.setEth_kvArg1 (s : State) (n : Bool) (x : Eth) : (s.setEth n x).kvArg1 = s.kvArg1 := rfl
@[simp] theorem State.setEth_kvArg2 (s : State) (n : Bool) (x : Eth) : (s.setEth n x).kvArg2 = s.kvArg2 := rfl
@[simp] theorem State.setEth_kvBusy (s : State) (n : Bool) (x : Eth) : (s.setEth n x).kvBusy = s.kvBusy := rfl
@[simp] theorem State.setEth_kvResult (s : State) (n : Bool) (x : Eth) : (s.setEth n x).kvResult = s.kvResult := rfl
@[simp] theorem State.setEth_kvOp (s : State) (n : Bool) (x : Eth) : (s.setEth n x).kvOp = s.kvOp := rfl
@[simp] theorem State.setEth_kvSlot (s : State) (n : Bool) (x : Eth) : (s.setEth n x).kvSlot = s.kvSlot := rfl
@[simp] theorem State.setEth_kvStep (s : State) (n : Bool) (x : Eth) : (s.setEth n x).kvStep = s.kvStep := rfl
@[simp] theorem State.setEth_kvBoundary (s : State) (n : Bool) (x : Eth) : (s.setEth n x).kvBoundary = s.kvBoundary := rfl
@[simp] theorem State.setEth_kvTrans (s : State) (n : Bool) (x : Eth) : (s.setEth n x).kvTrans = s.kvTrans := rfl
@[simp] theorem State.setEth_kvCommitting (s : State) (n : Bool) (x : Eth) : (s.setEth n x).kvCommitting = s.kvCommitting := rfl
@[simp] theorem State.setEth_kvEdit (s : State) (n : Bool) (x : Eth) : (s.setEth n x).kvEdit = s.kvEdit := rfl
@[simp] theorem State.setEth_retired (s : State) (n : Bool) (x : Eth) : (s.setEth n x).retired = s.retired := rfl
@[simp] theorem State.setEth_failedSets (s : State) (n : Bool) (x : Eth) : (s.setEth n x).failedSets = s.failedSets := rfl
@[simp] theorem State.setEth_chipId (s : State) (n : Bool) (x : Eth) : (s.setEth n x).chipId = s.chipId := rfl
@[simp] theorem State.setEth_chipValid (s : State) (n : Bool) (x : Eth) : (s.setEth n x).chipValid = s.chipValid := rfl
@[simp] theorem State.setEth_dims (s : State) (n : Bool) (x : Eth) : (s.setEth n x).dims = s.dims := rfl
@[simp] theorem State.setEth_routes (s : State) (n : Bool) (x : Eth) : (s.setEth n x).routes = s.routes := rfl
@[simp] theorem State.setEth_ports (s : State) (n : Bool) (x : Eth) : (s.setEth n x).ports = s.ports := rfl
@[simp] theorem State.setEth_inbox (s : State) (n : Bool) (x : Eth) : (s.setEth n x).inbox = s.inbox := rfl
@[simp] theorem State.setEth_asked (s : State) (n : Bool) (x : Eth) : (s.setEth n x).asked = s.asked := rfl
@[simp] theorem State.setEth_nextTag (s : State) (n : Bool) (x : Eth) : (s.setEth n x).nextTag = s.nextTag := rfl
@[simp] theorem State.setEth_incoming (s : State) (n : Bool) (x : Eth) : (s.setEth n x).incoming = s.incoming := rfl
@[simp] theorem State.setEth_stuck (s : State) (n : Bool) (x : Eth) : (s.setEth n x).stuck = s.stuck := rfl
@[simp] theorem State.setEth_heldIn (s : State) (n : Bool) (x : Eth) : (s.setEth n x).heldIn = s.heldIn := rfl
@[simp] theorem State.setEth_bellRoot (s : State) (n : Bool) (x : Eth) : (s.setEth n x).bellRoot = s.bellRoot := rfl
@[simp] theorem State.setEth_bellState (s : State) (n : Bool) (x : Eth) : (s.setEth n x).bellState = s.bellState := rfl
@[simp] theorem State.setEth_bellRate (s : State) (n : Bool) (x : Eth) : (s.setEth n x).bellRate = s.bellRate := rfl
@[simp] theorem State.setEth_bellMax (s : State) (n : Bool) (x : Eth) : (s.setEth n x).bellMax = s.bellMax := rfl
@[simp] theorem State.setEth_bellLost (s : State) (n : Bool) (x : Eth) : (s.setEth n x).bellLost = s.bellLost := rfl
@[simp] theorem State.setEth_bellStepped (s : State) (n : Bool) (x : Eth) : (s.setEth n x).bellStepped = s.bellStepped := rfl
@[simp] theorem State.setEth_bellSlew (s : State) (n : Bool) (x : Eth) : (s.setEth n x).bellSlew = s.bellSlew := rfl
@[simp] theorem State.setEth_power (s : State) (n : Bool) (x : Eth) : (s.setEth n x).power = s.power := rfl
@[simp] theorem State.setEth_sec (s : State) (n : Bool) (x : Eth) : (s.setEth n x).sec = s.sec := rfl
@[simp] theorem State.setEth_log (s : State) (n : Bool) (x : Eth) : (s.setEth n x).log = s.log := rfl
@[simp] theorem State.setEth_wdts (s : State) (n : Bool) (x : Eth) : (s.setEth n x).wdts = s.wdts := rfl
@[simp] theorem State.setEth_hartErr (s : State) (n : Bool) (x : Eth) : (s.setEth n x).hartErr = s.hartErr := rfl
@[simp] theorem State.setEth_sram (s : State) (n : Bool) (x : Eth) : (s.setEth n x).sram = s.sram := rfl
@[simp] theorem State.setEth_pcie (s : State) (n : Bool) (x : Eth) : (s.setEth n x).pcie = s.pcie := rfl
@[simp] theorem State.setEth_mgtAddr (s : State) (n : Bool) (x : Eth) : (s.setEth n x).mgtAddr = s.mgtAddr := rfl
@[simp] theorem State.setEth_tap (s : State) (n : Bool) (x : Eth) : (s.setEth n x).tap = s.tap := rfl
@[simp] theorem State.setEth_perf (s : State) (n : Bool) (x : Eth) : (s.setEth n x).perf = s.perf := rfl
@[simp] theorem State.setEth_perfCopy (s : State) (n : Bool) (x : Eth) : (s.setEth n x).perfCopy = s.perfCopy := rfl
@[simp] theorem State.setEth_snapPending (s : State) (n : Bool) (x : Eth) : (s.setEth n x).snapPending = s.snapPending := rfl
@[simp] theorem State.setEth_snapValid (s : State) (n : Bool) (x : Eth) : (s.setEth n x).snapValid = s.snapValid := rfl

/-! modCore: every field but cores. -/

@[simp] theorem State.modCore_pending (s : State) (c : CoreId) (f : Core → Core) : (s.modCore c f).pending = s.pending := rfl
@[simp] theorem State.modCore_fresh (s : State) (c : CoreId) (f : Core → Core) : (s.modCore c f).fresh = s.fresh := rfl
@[simp] theorem State.modCore_rdata (s : State) (c : CoreId) (f : Core → Core) : (s.modCore c f).rdata = s.rdata := rfl
@[simp] theorem State.modCore_bell (s : State) (c : CoreId) (f : Core → Core) : (s.modCore c f).bell = s.bell := rfl
@[simp] theorem State.modCore_life (s : State) (c : CoreId) (f : Core → Core) : (s.modCore c f).life = s.life := rfl
@[simp] theorem State.modCore_pstate (s : State) (c : CoreId) (f : Core → Core) : (s.modCore c f).pstate = s.pstate := rfl
@[simp] theorem State.modCore_boot (s : State) (c : CoreId) (f : Core → Core) : (s.modCore c f).boot = s.boot := rfl
@[simp] theorem State.modCore_straps (s : State) (c : CoreId) (f : Core → Core) : (s.modCore c f).straps = s.straps := rfl
@[simp] theorem State.modCore_resetN (s : State) (c : CoreId) (f : Core → Core) : (s.modCore c f).resetN = s.resetN := rfl
@[simp] theorem State.modCore_powerGood (s : State) (c : CoreId) (f : Core → Core) : (s.modCore c f).powerGood = s.powerGood := rfl
@[simp] theorem State.modCore_reading (s : State) (c : CoreId) (f : Core → Core) : (s.modCore c f).reading = s.reading := rfl
@[simp] theorem State.modCore_mem (s : State) (c : CoreId) (f : Core → Core) : (s.modCore c f).mem = s.mem := rfl
@[simp] theorem State.modCore_memPoison (s : State) (c : CoreId) (f : Core → Core) : (s.modCore c f).memPoison = s.memPoison := rfl
@[simp] theorem State.modCore_net (s : State) (c : CoreId) (f : Core → Core) : (s.modCore c f).net = s.net := rfl
@[simp] theorem State.modCore_lastBulk (s : State) (c : CoreId) (f : Core → Core) : (s.modCore c f).lastBulk = s.lastBulk := rfl
@[simp] theorem State.modCore_lastNarrow (s : State) (c : CoreId) (f : Core → Core) : (s.modCore c f).lastNarrow = s.lastNarrow := rfl
@[simp] theorem State.modCore_laneLast (s : State) (c : CoreId) (f : Core → Core) : (s.modCore c f).laneLast = s.laneLast := rfl
@[simp] theorem State.modCore_scrubAt (s : State) (c : CoreId) (f : Core → Core) : (s.modCore c f).scrubAt = s.scrubAt := rfl
@[simp] theorem State.modCore_wrecBase (s : State) (c : CoreId) (f : Core → Core) : (s.modCore c f).wrecBase = s.wrecBase := rfl
@[simp] theorem State.modCore_wrecCount (s : State) (c : CoreId) (f : Core → Core) : (s.modCore c f).wrecCount = s.wrecCount := rfl
@[simp] theorem State.modCore_flushBusy (s : State) (c : CoreId) (f : Core → Core) : (s.modCore c f).flushBusy = s.flushBusy := rfl
@[simp] theorem State.modCore_flushAll (s : State) (c : CoreId) (f : Core → Core) : (s.modCore c f).flushAll = s.flushAll := rfl
@[simp] theorem State.modCore_flushCtx (s : State) (c : CoreId) (f : Core → Core) : (s.modCore c f).flushCtx = s.flushCtx := rfl
@[simp] theorem State.modCore_ttbase (s : State) (c : CoreId) (f : Core → Core) : (s.modCore c f).ttbase = s.ttbase := rfl
@[simp] theorem State.modCore_winA (s : State) (c : CoreId) (f : Core → Core) : (s.modCore c f).winA = s.winA := rfl
@[simp] theorem State.modCore_winB (s : State) (c : CoreId) (f : Core → Core) : (s.modCore c f).winB = s.winB := rfl
@[simp] theorem State.modCore_impA (s : State) (c : CoreId) (f : Core → Core) : (s.modCore c f).impA = s.impA := rfl
@[simp] theorem State.modCore_impB (s : State) (c : CoreId) (f : Core → Core) : (s.modCore c f).impB = s.impB := rfl
@[simp] theorem State.modCore_lib (s : State) (c : CoreId) (f : Core → Core) : (s.modCore c f).lib = s.lib := rfl
@[simp] theorem State.modCore_libPages (s : State) (c : CoreId) (f : Core → Core) : (s.modCore c f).libPages = s.libPages := rfl
@[simp] theorem State.modCore_parity (s : State) (c : CoreId) (f : Core → Core) : (s.modCore c f).parity = s.parity := rfl
@[simp] theorem State.modCore_libSrc (s : State) (c : CoreId) (f : Core → Core) : (s.modCore c f).libSrc = s.libSrc := rfl
@[simp] theorem State.modCore_libBusy (s : State) (c : CoreId) (f : Core → Core) : (s.modCore c f).libBusy = s.libBusy := rfl
@[simp] theorem State.modCore_libOp (s : State) (c : CoreId) (f : Core → Core) : (s.modCore c f).libOp = s.libOp := rfl
@[simp] theorem State.modCore_libResult (s : State) (c : CoreId) (f : Core → Core) : (s.modCore c f).libResult = s.libResult := rfl
@[simp] theorem State.modCore_libPendingResult (s : State) (c : CoreId) (f : Core → Core) : (s.modCore c f).libPendingResult = s.libPendingResult := rfl
@[simp] theorem State.modCore_libRetryOk (s : State) (c : CoreId) (f : Core → Core) : (s.modCore c f).libRetryOk = s.libRetryOk := rfl
@[simp] theorem State.modCore_libRebuilt (s : State) (c : CoreId) (f : Core → Core) : (s.modCore c f).libRebuilt = s.libRebuilt := rfl
@[simp] theorem State.modCore_libLost (s : State) (c : CoreId) (f : Core → Core) : (s.modCore c f).libLost = s.libLost := rfl
@[simp] theorem State.modCore_dropWait (s : State) (c : CoreId) (f : Core → Core) : (s.modCore c f).dropWait = s.dropWait := rfl
@[simp] theorem State.modCore_libRetry (s : State) (c : CoreId) (f : Core → Core) : (s.modCore c f).libRetry = s.libRetry := rfl
@[simp] theorem State.modCore_migs (s : State) (c : CoreId) (f : Core → Core) : (s.modCore c f).migs = s.migs := rfl
@[simp] theorem State.modCore_wlatch (s : State) (c : CoreId) (f : Core → Core) : (s.modCore c f).wlatch = s.wlatch := rfl
@[simp] theorem State.modCore_libPage0 (s : State) (c : CoreId) (f : Core → Core) : (s.modCore c f).libPage0 = s.libPage0 := rfl
@[simp] theorem State.modCore_libCount (s : State) (c : CoreId) (f : Core → Core) : (s.modCore c f).libCount = s.libCount := rfl
@[simp] theorem State.modCore_formLines (s : State) (c : CoreId) (f : Core → Core) : (s.modCore c f).formLines = s.formLines := rfl
@[simp] theorem State.modCore_unitsOut (s : State) (c : CoreId) (f : Core → Core) : (s.modCore c f).unitsOut = s.unitsOut := rfl
@[simp] theorem State.modCore_epoch0 (s : State) (c : CoreId) (f : Core → Core) : (s.modCore c f).epoch0 = s.epoch0 := rfl
@[simp] theorem State.modCore_epoch1 (s : State) (c : CoreId) (f : Core → Core) : (s.modCore c f).epoch1 = s.epoch1 := rfl
@[simp] theorem State.modCore_devScratch (s : State) (c : CoreId) (f : Core → Core) : (s.modCore c f).devScratch = s.devScratch := rfl
@[simp] theorem State.modCore_intr (s : State) (c : CoreId) (f : Core → Core) : (s.modCore c f).intr = s.intr := rfl
@[simp] theorem State.modCore_intrEn (s : State) (c : CoreId) (f : Core → Core) : (s.modCore c f).intrEn = s.intrEn := rfl
@[simp] theorem State.modCore_ctxs (s : State) (c : CoreId) (f : Core → Core) : (s.modCore c f).ctxs = s.ctxs := rfl
@[simp] theorem State.modCore_ttCtxBase (s : State) (c : CoreId) (f : Core → Core) : (s.modCore c f).ttCtxBase = s.ttCtxBase := rfl
@[simp] theorem State.modCore_ttBusy (s : State) (c : CoreId) (f : Core → Core) : (s.modCore c f).ttBusy = s.ttBusy := rfl
@[simp] theorem State.modCore_ttResult (s : State) (c : CoreId) (f : Core → Core) : (s.modCore c f).ttResult = s.ttResult := rfl
@[simp] theorem State.modCore_ttOp (s : State) (c : CoreId) (f : Core → Core) : (s.modCore c f).ttOp = s.ttOp := rfl
@[simp] theorem State.modCore_ttCtx (s : State) (c : CoreId) (f : Core → Core) : (s.modCore c f).ttCtx = s.ttCtx := rfl
@[simp] theorem State.modCore_pools (s : State) (c : CoreId) (f : Core → Core) : (s.modCore c f).pools = s.pools := rfl
@[simp] theorem State.modCore_kvCtxs (s : State) (c : CoreId) (f : Core → Core) : (s.modCore c f).kvCtxs = s.kvCtxs := rfl
@[simp] theorem State.modCore_slots (s : State) (c : CoreId) (f : Core → Core) : (s.modCore c f).slots = s.slots := rfl
@[simp] theorem State.modCore_kvArg0 (s : State) (c : CoreId) (f : Core → Core) : (s.modCore c f).kvArg0 = s.kvArg0 := rfl
@[simp] theorem State.modCore_kvArg1 (s : State) (c : CoreId) (f : Core → Core) : (s.modCore c f).kvArg1 = s.kvArg1 := rfl
@[simp] theorem State.modCore_kvArg2 (s : State) (c : CoreId) (f : Core → Core) : (s.modCore c f).kvArg2 = s.kvArg2 := rfl
@[simp] theorem State.modCore_kvBusy (s : State) (c : CoreId) (f : Core → Core) : (s.modCore c f).kvBusy = s.kvBusy := rfl
@[simp] theorem State.modCore_kvResult (s : State) (c : CoreId) (f : Core → Core) : (s.modCore c f).kvResult = s.kvResult := rfl
@[simp] theorem State.modCore_kvOp (s : State) (c : CoreId) (f : Core → Core) : (s.modCore c f).kvOp = s.kvOp := rfl
@[simp] theorem State.modCore_kvSlot (s : State) (c : CoreId) (f : Core → Core) : (s.modCore c f).kvSlot = s.kvSlot := rfl
@[simp] theorem State.modCore_kvStep (s : State) (c : CoreId) (f : Core → Core) : (s.modCore c f).kvStep = s.kvStep := rfl
@[simp] theorem State.modCore_kvBoundary (s : State) (c : CoreId) (f : Core → Core) : (s.modCore c f).kvBoundary = s.kvBoundary := rfl
@[simp] theorem State.modCore_kvTrans (s : State) (c : CoreId) (f : Core → Core) : (s.modCore c f).kvTrans = s.kvTrans := rfl
@[simp] theorem State.modCore_kvCommitting (s : State) (c : CoreId) (f : Core → Core) : (s.modCore c f).kvCommitting = s.kvCommitting := rfl
@[simp] theorem State.modCore_kvEdit (s : State) (c : CoreId) (f : Core → Core) : (s.modCore c f).kvEdit = s.kvEdit := rfl
@[simp] theorem State.modCore_retired (s : State) (c : CoreId) (f : Core → Core) : (s.modCore c f).retired = s.retired := rfl
@[simp] theorem State.modCore_failedSets (s : State) (c : CoreId) (f : Core → Core) : (s.modCore c f).failedSets = s.failedSets := rfl
@[simp] theorem State.modCore_chipId (s : State) (c : CoreId) (f : Core → Core) : (s.modCore c f).chipId = s.chipId := rfl
@[simp] theorem State.modCore_chipValid (s : State) (c : CoreId) (f : Core → Core) : (s.modCore c f).chipValid = s.chipValid := rfl
@[simp] theorem State.modCore_dims (s : State) (c : CoreId) (f : Core → Core) : (s.modCore c f).dims = s.dims := rfl
@[simp] theorem State.modCore_routes (s : State) (c : CoreId) (f : Core → Core) : (s.modCore c f).routes = s.routes := rfl
@[simp] theorem State.modCore_ports (s : State) (c : CoreId) (f : Core → Core) : (s.modCore c f).ports = s.ports := rfl
@[simp] theorem State.modCore_inbox (s : State) (c : CoreId) (f : Core → Core) : (s.modCore c f).inbox = s.inbox := rfl
@[simp] theorem State.modCore_asked (s : State) (c : CoreId) (f : Core → Core) : (s.modCore c f).asked = s.asked := rfl
@[simp] theorem State.modCore_nextTag (s : State) (c : CoreId) (f : Core → Core) : (s.modCore c f).nextTag = s.nextTag := rfl
@[simp] theorem State.modCore_incoming (s : State) (c : CoreId) (f : Core → Core) : (s.modCore c f).incoming = s.incoming := rfl
@[simp] theorem State.modCore_stuck (s : State) (c : CoreId) (f : Core → Core) : (s.modCore c f).stuck = s.stuck := rfl
@[simp] theorem State.modCore_heldIn (s : State) (c : CoreId) (f : Core → Core) : (s.modCore c f).heldIn = s.heldIn := rfl
@[simp] theorem State.modCore_bellRoot (s : State) (c : CoreId) (f : Core → Core) : (s.modCore c f).bellRoot = s.bellRoot := rfl
@[simp] theorem State.modCore_bellState (s : State) (c : CoreId) (f : Core → Core) : (s.modCore c f).bellState = s.bellState := rfl
@[simp] theorem State.modCore_bellRate (s : State) (c : CoreId) (f : Core → Core) : (s.modCore c f).bellRate = s.bellRate := rfl
@[simp] theorem State.modCore_bellMax (s : State) (c : CoreId) (f : Core → Core) : (s.modCore c f).bellMax = s.bellMax := rfl
@[simp] theorem State.modCore_bellLost (s : State) (c : CoreId) (f : Core → Core) : (s.modCore c f).bellLost = s.bellLost := rfl
@[simp] theorem State.modCore_bellStepped (s : State) (c : CoreId) (f : Core → Core) : (s.modCore c f).bellStepped = s.bellStepped := rfl
@[simp] theorem State.modCore_bellSlew (s : State) (c : CoreId) (f : Core → Core) : (s.modCore c f).bellSlew = s.bellSlew := rfl
@[simp] theorem State.modCore_power (s : State) (c : CoreId) (f : Core → Core) : (s.modCore c f).power = s.power := rfl
@[simp] theorem State.modCore_sec (s : State) (c : CoreId) (f : Core → Core) : (s.modCore c f).sec = s.sec := rfl
@[simp] theorem State.modCore_log (s : State) (c : CoreId) (f : Core → Core) : (s.modCore c f).log = s.log := rfl
@[simp] theorem State.modCore_wdts (s : State) (c : CoreId) (f : Core → Core) : (s.modCore c f).wdts = s.wdts := rfl
@[simp] theorem State.modCore_hartErr (s : State) (c : CoreId) (f : Core → Core) : (s.modCore c f).hartErr = s.hartErr := rfl
@[simp] theorem State.modCore_sram (s : State) (c : CoreId) (f : Core → Core) : (s.modCore c f).sram = s.sram := rfl
@[simp] theorem State.modCore_eths (s : State) (c : CoreId) (f : Core → Core) : (s.modCore c f).eths = s.eths := rfl
@[simp] theorem State.modCore_pcie (s : State) (c : CoreId) (f : Core → Core) : (s.modCore c f).pcie = s.pcie := rfl
@[simp] theorem State.modCore_mgtAddr (s : State) (c : CoreId) (f : Core → Core) : (s.modCore c f).mgtAddr = s.mgtAddr := rfl
@[simp] theorem State.modCore_tap (s : State) (c : CoreId) (f : Core → Core) : (s.modCore c f).tap = s.tap := rfl
@[simp] theorem State.modCore_perf (s : State) (c : CoreId) (f : Core → Core) : (s.modCore c f).perf = s.perf := rfl
@[simp] theorem State.modCore_perfCopy (s : State) (c : CoreId) (f : Core → Core) : (s.modCore c f).perfCopy = s.perfCopy := rfl
@[simp] theorem State.modCore_snapPending (s : State) (c : CoreId) (f : Core → Core) : (s.modCore c f).snapPending = s.snapPending := rfl
@[simp] theorem State.modCore_snapValid (s : State) (c : CoreId) (f : Core → Core) : (s.modCore c f).snapValid = s.snapValid := rfl

/-! modCtx: every field but ctxs. -/

@[simp] theorem State.modCtx_pending (s : State) (c : CtxId) (f : Ctx → Ctx) : (s.modCtx c f).pending = s.pending := rfl
@[simp] theorem State.modCtx_fresh (s : State) (c : CtxId) (f : Ctx → Ctx) : (s.modCtx c f).fresh = s.fresh := rfl
@[simp] theorem State.modCtx_rdata (s : State) (c : CtxId) (f : Ctx → Ctx) : (s.modCtx c f).rdata = s.rdata := rfl
@[simp] theorem State.modCtx_bell (s : State) (c : CtxId) (f : Ctx → Ctx) : (s.modCtx c f).bell = s.bell := rfl
@[simp] theorem State.modCtx_life (s : State) (c : CtxId) (f : Ctx → Ctx) : (s.modCtx c f).life = s.life := rfl
@[simp] theorem State.modCtx_pstate (s : State) (c : CtxId) (f : Ctx → Ctx) : (s.modCtx c f).pstate = s.pstate := rfl
@[simp] theorem State.modCtx_boot (s : State) (c : CtxId) (f : Ctx → Ctx) : (s.modCtx c f).boot = s.boot := rfl
@[simp] theorem State.modCtx_straps (s : State) (c : CtxId) (f : Ctx → Ctx) : (s.modCtx c f).straps = s.straps := rfl
@[simp] theorem State.modCtx_resetN (s : State) (c : CtxId) (f : Ctx → Ctx) : (s.modCtx c f).resetN = s.resetN := rfl
@[simp] theorem State.modCtx_powerGood (s : State) (c : CtxId) (f : Ctx → Ctx) : (s.modCtx c f).powerGood = s.powerGood := rfl
@[simp] theorem State.modCtx_reading (s : State) (c : CtxId) (f : Ctx → Ctx) : (s.modCtx c f).reading = s.reading := rfl
@[simp] theorem State.modCtx_cores (s : State) (c : CtxId) (f : Ctx → Ctx) : (s.modCtx c f).cores = s.cores := rfl
@[simp] theorem State.modCtx_mem (s : State) (c : CtxId) (f : Ctx → Ctx) : (s.modCtx c f).mem = s.mem := rfl
@[simp] theorem State.modCtx_memPoison (s : State) (c : CtxId) (f : Ctx → Ctx) : (s.modCtx c f).memPoison = s.memPoison := rfl
@[simp] theorem State.modCtx_net (s : State) (c : CtxId) (f : Ctx → Ctx) : (s.modCtx c f).net = s.net := rfl
@[simp] theorem State.modCtx_lastBulk (s : State) (c : CtxId) (f : Ctx → Ctx) : (s.modCtx c f).lastBulk = s.lastBulk := rfl
@[simp] theorem State.modCtx_lastNarrow (s : State) (c : CtxId) (f : Ctx → Ctx) : (s.modCtx c f).lastNarrow = s.lastNarrow := rfl
@[simp] theorem State.modCtx_laneLast (s : State) (c : CtxId) (f : Ctx → Ctx) : (s.modCtx c f).laneLast = s.laneLast := rfl
@[simp] theorem State.modCtx_scrubAt (s : State) (c : CtxId) (f : Ctx → Ctx) : (s.modCtx c f).scrubAt = s.scrubAt := rfl
@[simp] theorem State.modCtx_wrecBase (s : State) (c : CtxId) (f : Ctx → Ctx) : (s.modCtx c f).wrecBase = s.wrecBase := rfl
@[simp] theorem State.modCtx_wrecCount (s : State) (c : CtxId) (f : Ctx → Ctx) : (s.modCtx c f).wrecCount = s.wrecCount := rfl
@[simp] theorem State.modCtx_flushBusy (s : State) (c : CtxId) (f : Ctx → Ctx) : (s.modCtx c f).flushBusy = s.flushBusy := rfl
@[simp] theorem State.modCtx_flushAll (s : State) (c : CtxId) (f : Ctx → Ctx) : (s.modCtx c f).flushAll = s.flushAll := rfl
@[simp] theorem State.modCtx_flushCtx (s : State) (c : CtxId) (f : Ctx → Ctx) : (s.modCtx c f).flushCtx = s.flushCtx := rfl
@[simp] theorem State.modCtx_ttbase (s : State) (c : CtxId) (f : Ctx → Ctx) : (s.modCtx c f).ttbase = s.ttbase := rfl
@[simp] theorem State.modCtx_winA (s : State) (c : CtxId) (f : Ctx → Ctx) : (s.modCtx c f).winA = s.winA := rfl
@[simp] theorem State.modCtx_winB (s : State) (c : CtxId) (f : Ctx → Ctx) : (s.modCtx c f).winB = s.winB := rfl
@[simp] theorem State.modCtx_impA (s : State) (c : CtxId) (f : Ctx → Ctx) : (s.modCtx c f).impA = s.impA := rfl
@[simp] theorem State.modCtx_impB (s : State) (c : CtxId) (f : Ctx → Ctx) : (s.modCtx c f).impB = s.impB := rfl
@[simp] theorem State.modCtx_lib (s : State) (c : CtxId) (f : Ctx → Ctx) : (s.modCtx c f).lib = s.lib := rfl
@[simp] theorem State.modCtx_libPages (s : State) (c : CtxId) (f : Ctx → Ctx) : (s.modCtx c f).libPages = s.libPages := rfl
@[simp] theorem State.modCtx_parity (s : State) (c : CtxId) (f : Ctx → Ctx) : (s.modCtx c f).parity = s.parity := rfl
@[simp] theorem State.modCtx_libSrc (s : State) (c : CtxId) (f : Ctx → Ctx) : (s.modCtx c f).libSrc = s.libSrc := rfl
@[simp] theorem State.modCtx_libBusy (s : State) (c : CtxId) (f : Ctx → Ctx) : (s.modCtx c f).libBusy = s.libBusy := rfl
@[simp] theorem State.modCtx_libOp (s : State) (c : CtxId) (f : Ctx → Ctx) : (s.modCtx c f).libOp = s.libOp := rfl
@[simp] theorem State.modCtx_libResult (s : State) (c : CtxId) (f : Ctx → Ctx) : (s.modCtx c f).libResult = s.libResult := rfl
@[simp] theorem State.modCtx_libPendingResult (s : State) (c : CtxId) (f : Ctx → Ctx) : (s.modCtx c f).libPendingResult = s.libPendingResult := rfl
@[simp] theorem State.modCtx_libRetryOk (s : State) (c : CtxId) (f : Ctx → Ctx) : (s.modCtx c f).libRetryOk = s.libRetryOk := rfl
@[simp] theorem State.modCtx_libRebuilt (s : State) (c : CtxId) (f : Ctx → Ctx) : (s.modCtx c f).libRebuilt = s.libRebuilt := rfl
@[simp] theorem State.modCtx_libLost (s : State) (c : CtxId) (f : Ctx → Ctx) : (s.modCtx c f).libLost = s.libLost := rfl
@[simp] theorem State.modCtx_dropWait (s : State) (c : CtxId) (f : Ctx → Ctx) : (s.modCtx c f).dropWait = s.dropWait := rfl
@[simp] theorem State.modCtx_libRetry (s : State) (c : CtxId) (f : Ctx → Ctx) : (s.modCtx c f).libRetry = s.libRetry := rfl
@[simp] theorem State.modCtx_migs (s : State) (c : CtxId) (f : Ctx → Ctx) : (s.modCtx c f).migs = s.migs := rfl
@[simp] theorem State.modCtx_wlatch (s : State) (c : CtxId) (f : Ctx → Ctx) : (s.modCtx c f).wlatch = s.wlatch := rfl
@[simp] theorem State.modCtx_libPage0 (s : State) (c : CtxId) (f : Ctx → Ctx) : (s.modCtx c f).libPage0 = s.libPage0 := rfl
@[simp] theorem State.modCtx_libCount (s : State) (c : CtxId) (f : Ctx → Ctx) : (s.modCtx c f).libCount = s.libCount := rfl
@[simp] theorem State.modCtx_formLines (s : State) (c : CtxId) (f : Ctx → Ctx) : (s.modCtx c f).formLines = s.formLines := rfl
@[simp] theorem State.modCtx_unitsOut (s : State) (c : CtxId) (f : Ctx → Ctx) : (s.modCtx c f).unitsOut = s.unitsOut := rfl
@[simp] theorem State.modCtx_epoch0 (s : State) (c : CtxId) (f : Ctx → Ctx) : (s.modCtx c f).epoch0 = s.epoch0 := rfl
@[simp] theorem State.modCtx_epoch1 (s : State) (c : CtxId) (f : Ctx → Ctx) : (s.modCtx c f).epoch1 = s.epoch1 := rfl
@[simp] theorem State.modCtx_devScratch (s : State) (c : CtxId) (f : Ctx → Ctx) : (s.modCtx c f).devScratch = s.devScratch := rfl
@[simp] theorem State.modCtx_intr (s : State) (c : CtxId) (f : Ctx → Ctx) : (s.modCtx c f).intr = s.intr := rfl
@[simp] theorem State.modCtx_intrEn (s : State) (c : CtxId) (f : Ctx → Ctx) : (s.modCtx c f).intrEn = s.intrEn := rfl
@[simp] theorem State.modCtx_ttCtxBase (s : State) (c : CtxId) (f : Ctx → Ctx) : (s.modCtx c f).ttCtxBase = s.ttCtxBase := rfl
@[simp] theorem State.modCtx_ttBusy (s : State) (c : CtxId) (f : Ctx → Ctx) : (s.modCtx c f).ttBusy = s.ttBusy := rfl
@[simp] theorem State.modCtx_ttResult (s : State) (c : CtxId) (f : Ctx → Ctx) : (s.modCtx c f).ttResult = s.ttResult := rfl
@[simp] theorem State.modCtx_ttOp (s : State) (c : CtxId) (f : Ctx → Ctx) : (s.modCtx c f).ttOp = s.ttOp := rfl
@[simp] theorem State.modCtx_ttCtx (s : State) (c : CtxId) (f : Ctx → Ctx) : (s.modCtx c f).ttCtx = s.ttCtx := rfl
@[simp] theorem State.modCtx_pools (s : State) (c : CtxId) (f : Ctx → Ctx) : (s.modCtx c f).pools = s.pools := rfl
@[simp] theorem State.modCtx_kvCtxs (s : State) (c : CtxId) (f : Ctx → Ctx) : (s.modCtx c f).kvCtxs = s.kvCtxs := rfl
@[simp] theorem State.modCtx_slots (s : State) (c : CtxId) (f : Ctx → Ctx) : (s.modCtx c f).slots = s.slots := rfl
@[simp] theorem State.modCtx_kvArg0 (s : State) (c : CtxId) (f : Ctx → Ctx) : (s.modCtx c f).kvArg0 = s.kvArg0 := rfl
@[simp] theorem State.modCtx_kvArg1 (s : State) (c : CtxId) (f : Ctx → Ctx) : (s.modCtx c f).kvArg1 = s.kvArg1 := rfl
@[simp] theorem State.modCtx_kvArg2 (s : State) (c : CtxId) (f : Ctx → Ctx) : (s.modCtx c f).kvArg2 = s.kvArg2 := rfl
@[simp] theorem State.modCtx_kvBusy (s : State) (c : CtxId) (f : Ctx → Ctx) : (s.modCtx c f).kvBusy = s.kvBusy := rfl
@[simp] theorem State.modCtx_kvResult (s : State) (c : CtxId) (f : Ctx → Ctx) : (s.modCtx c f).kvResult = s.kvResult := rfl
@[simp] theorem State.modCtx_kvOp (s : State) (c : CtxId) (f : Ctx → Ctx) : (s.modCtx c f).kvOp = s.kvOp := rfl
@[simp] theorem State.modCtx_kvSlot (s : State) (c : CtxId) (f : Ctx → Ctx) : (s.modCtx c f).kvSlot = s.kvSlot := rfl
@[simp] theorem State.modCtx_kvStep (s : State) (c : CtxId) (f : Ctx → Ctx) : (s.modCtx c f).kvStep = s.kvStep := rfl
@[simp] theorem State.modCtx_kvBoundary (s : State) (c : CtxId) (f : Ctx → Ctx) : (s.modCtx c f).kvBoundary = s.kvBoundary := rfl
@[simp] theorem State.modCtx_kvTrans (s : State) (c : CtxId) (f : Ctx → Ctx) : (s.modCtx c f).kvTrans = s.kvTrans := rfl
@[simp] theorem State.modCtx_kvCommitting (s : State) (c : CtxId) (f : Ctx → Ctx) : (s.modCtx c f).kvCommitting = s.kvCommitting := rfl
@[simp] theorem State.modCtx_kvEdit (s : State) (c : CtxId) (f : Ctx → Ctx) : (s.modCtx c f).kvEdit = s.kvEdit := rfl
@[simp] theorem State.modCtx_retired (s : State) (c : CtxId) (f : Ctx → Ctx) : (s.modCtx c f).retired = s.retired := rfl
@[simp] theorem State.modCtx_failedSets (s : State) (c : CtxId) (f : Ctx → Ctx) : (s.modCtx c f).failedSets = s.failedSets := rfl
@[simp] theorem State.modCtx_chipId (s : State) (c : CtxId) (f : Ctx → Ctx) : (s.modCtx c f).chipId = s.chipId := rfl
@[simp] theorem State.modCtx_chipValid (s : State) (c : CtxId) (f : Ctx → Ctx) : (s.modCtx c f).chipValid = s.chipValid := rfl
@[simp] theorem State.modCtx_dims (s : State) (c : CtxId) (f : Ctx → Ctx) : (s.modCtx c f).dims = s.dims := rfl
@[simp] theorem State.modCtx_routes (s : State) (c : CtxId) (f : Ctx → Ctx) : (s.modCtx c f).routes = s.routes := rfl
@[simp] theorem State.modCtx_ports (s : State) (c : CtxId) (f : Ctx → Ctx) : (s.modCtx c f).ports = s.ports := rfl
@[simp] theorem State.modCtx_inbox (s : State) (c : CtxId) (f : Ctx → Ctx) : (s.modCtx c f).inbox = s.inbox := rfl
@[simp] theorem State.modCtx_asked (s : State) (c : CtxId) (f : Ctx → Ctx) : (s.modCtx c f).asked = s.asked := rfl
@[simp] theorem State.modCtx_nextTag (s : State) (c : CtxId) (f : Ctx → Ctx) : (s.modCtx c f).nextTag = s.nextTag := rfl
@[simp] theorem State.modCtx_incoming (s : State) (c : CtxId) (f : Ctx → Ctx) : (s.modCtx c f).incoming = s.incoming := rfl
@[simp] theorem State.modCtx_stuck (s : State) (c : CtxId) (f : Ctx → Ctx) : (s.modCtx c f).stuck = s.stuck := rfl
@[simp] theorem State.modCtx_heldIn (s : State) (c : CtxId) (f : Ctx → Ctx) : (s.modCtx c f).heldIn = s.heldIn := rfl
@[simp] theorem State.modCtx_bellRoot (s : State) (c : CtxId) (f : Ctx → Ctx) : (s.modCtx c f).bellRoot = s.bellRoot := rfl
@[simp] theorem State.modCtx_bellState (s : State) (c : CtxId) (f : Ctx → Ctx) : (s.modCtx c f).bellState = s.bellState := rfl
@[simp] theorem State.modCtx_bellRate (s : State) (c : CtxId) (f : Ctx → Ctx) : (s.modCtx c f).bellRate = s.bellRate := rfl
@[simp] theorem State.modCtx_bellMax (s : State) (c : CtxId) (f : Ctx → Ctx) : (s.modCtx c f).bellMax = s.bellMax := rfl
@[simp] theorem State.modCtx_bellLost (s : State) (c : CtxId) (f : Ctx → Ctx) : (s.modCtx c f).bellLost = s.bellLost := rfl
@[simp] theorem State.modCtx_bellStepped (s : State) (c : CtxId) (f : Ctx → Ctx) : (s.modCtx c f).bellStepped = s.bellStepped := rfl
@[simp] theorem State.modCtx_bellSlew (s : State) (c : CtxId) (f : Ctx → Ctx) : (s.modCtx c f).bellSlew = s.bellSlew := rfl
@[simp] theorem State.modCtx_power (s : State) (c : CtxId) (f : Ctx → Ctx) : (s.modCtx c f).power = s.power := rfl
@[simp] theorem State.modCtx_sec (s : State) (c : CtxId) (f : Ctx → Ctx) : (s.modCtx c f).sec = s.sec := rfl
@[simp] theorem State.modCtx_log (s : State) (c : CtxId) (f : Ctx → Ctx) : (s.modCtx c f).log = s.log := rfl
@[simp] theorem State.modCtx_wdts (s : State) (c : CtxId) (f : Ctx → Ctx) : (s.modCtx c f).wdts = s.wdts := rfl
@[simp] theorem State.modCtx_hartErr (s : State) (c : CtxId) (f : Ctx → Ctx) : (s.modCtx c f).hartErr = s.hartErr := rfl
@[simp] theorem State.modCtx_sram (s : State) (c : CtxId) (f : Ctx → Ctx) : (s.modCtx c f).sram = s.sram := rfl
@[simp] theorem State.modCtx_eths (s : State) (c : CtxId) (f : Ctx → Ctx) : (s.modCtx c f).eths = s.eths := rfl
@[simp] theorem State.modCtx_pcie (s : State) (c : CtxId) (f : Ctx → Ctx) : (s.modCtx c f).pcie = s.pcie := rfl
@[simp] theorem State.modCtx_mgtAddr (s : State) (c : CtxId) (f : Ctx → Ctx) : (s.modCtx c f).mgtAddr = s.mgtAddr := rfl
@[simp] theorem State.modCtx_tap (s : State) (c : CtxId) (f : Ctx → Ctx) : (s.modCtx c f).tap = s.tap := rfl
@[simp] theorem State.modCtx_perf (s : State) (c : CtxId) (f : Ctx → Ctx) : (s.modCtx c f).perf = s.perf := rfl
@[simp] theorem State.modCtx_perfCopy (s : State) (c : CtxId) (f : Ctx → Ctx) : (s.modCtx c f).perfCopy = s.perfCopy := rfl
@[simp] theorem State.modCtx_snapPending (s : State) (c : CtxId) (f : Ctx → Ctx) : (s.modCtx c f).snapPending = s.snapPending := rfl
@[simp] theorem State.modCtx_snapValid (s : State) (c : CtxId) (f : Ctx → Ctx) : (s.modCtx c f).snapValid = s.snapValid := rfl

/-! modSlot: every field but slots. -/

@[simp] theorem State.modSlot_pending (s : State) (n : SlotId) (f : Slot → Slot) : (s.modSlot n f).pending = s.pending := rfl
@[simp] theorem State.modSlot_fresh (s : State) (n : SlotId) (f : Slot → Slot) : (s.modSlot n f).fresh = s.fresh := rfl
@[simp] theorem State.modSlot_rdata (s : State) (n : SlotId) (f : Slot → Slot) : (s.modSlot n f).rdata = s.rdata := rfl
@[simp] theorem State.modSlot_bell (s : State) (n : SlotId) (f : Slot → Slot) : (s.modSlot n f).bell = s.bell := rfl
@[simp] theorem State.modSlot_life (s : State) (n : SlotId) (f : Slot → Slot) : (s.modSlot n f).life = s.life := rfl
@[simp] theorem State.modSlot_pstate (s : State) (n : SlotId) (f : Slot → Slot) : (s.modSlot n f).pstate = s.pstate := rfl
@[simp] theorem State.modSlot_boot (s : State) (n : SlotId) (f : Slot → Slot) : (s.modSlot n f).boot = s.boot := rfl
@[simp] theorem State.modSlot_straps (s : State) (n : SlotId) (f : Slot → Slot) : (s.modSlot n f).straps = s.straps := rfl
@[simp] theorem State.modSlot_resetN (s : State) (n : SlotId) (f : Slot → Slot) : (s.modSlot n f).resetN = s.resetN := rfl
@[simp] theorem State.modSlot_powerGood (s : State) (n : SlotId) (f : Slot → Slot) : (s.modSlot n f).powerGood = s.powerGood := rfl
@[simp] theorem State.modSlot_reading (s : State) (n : SlotId) (f : Slot → Slot) : (s.modSlot n f).reading = s.reading := rfl
@[simp] theorem State.modSlot_cores (s : State) (n : SlotId) (f : Slot → Slot) : (s.modSlot n f).cores = s.cores := rfl
@[simp] theorem State.modSlot_mem (s : State) (n : SlotId) (f : Slot → Slot) : (s.modSlot n f).mem = s.mem := rfl
@[simp] theorem State.modSlot_memPoison (s : State) (n : SlotId) (f : Slot → Slot) : (s.modSlot n f).memPoison = s.memPoison := rfl
@[simp] theorem State.modSlot_net (s : State) (n : SlotId) (f : Slot → Slot) : (s.modSlot n f).net = s.net := rfl
@[simp] theorem State.modSlot_lastBulk (s : State) (n : SlotId) (f : Slot → Slot) : (s.modSlot n f).lastBulk = s.lastBulk := rfl
@[simp] theorem State.modSlot_lastNarrow (s : State) (n : SlotId) (f : Slot → Slot) : (s.modSlot n f).lastNarrow = s.lastNarrow := rfl
@[simp] theorem State.modSlot_laneLast (s : State) (n : SlotId) (f : Slot → Slot) : (s.modSlot n f).laneLast = s.laneLast := rfl
@[simp] theorem State.modSlot_scrubAt (s : State) (n : SlotId) (f : Slot → Slot) : (s.modSlot n f).scrubAt = s.scrubAt := rfl
@[simp] theorem State.modSlot_wrecBase (s : State) (n : SlotId) (f : Slot → Slot) : (s.modSlot n f).wrecBase = s.wrecBase := rfl
@[simp] theorem State.modSlot_wrecCount (s : State) (n : SlotId) (f : Slot → Slot) : (s.modSlot n f).wrecCount = s.wrecCount := rfl
@[simp] theorem State.modSlot_flushBusy (s : State) (n : SlotId) (f : Slot → Slot) : (s.modSlot n f).flushBusy = s.flushBusy := rfl
@[simp] theorem State.modSlot_flushAll (s : State) (n : SlotId) (f : Slot → Slot) : (s.modSlot n f).flushAll = s.flushAll := rfl
@[simp] theorem State.modSlot_flushCtx (s : State) (n : SlotId) (f : Slot → Slot) : (s.modSlot n f).flushCtx = s.flushCtx := rfl
@[simp] theorem State.modSlot_ttbase (s : State) (n : SlotId) (f : Slot → Slot) : (s.modSlot n f).ttbase = s.ttbase := rfl
@[simp] theorem State.modSlot_winA (s : State) (n : SlotId) (f : Slot → Slot) : (s.modSlot n f).winA = s.winA := rfl
@[simp] theorem State.modSlot_winB (s : State) (n : SlotId) (f : Slot → Slot) : (s.modSlot n f).winB = s.winB := rfl
@[simp] theorem State.modSlot_impA (s : State) (n : SlotId) (f : Slot → Slot) : (s.modSlot n f).impA = s.impA := rfl
@[simp] theorem State.modSlot_impB (s : State) (n : SlotId) (f : Slot → Slot) : (s.modSlot n f).impB = s.impB := rfl
@[simp] theorem State.modSlot_lib (s : State) (n : SlotId) (f : Slot → Slot) : (s.modSlot n f).lib = s.lib := rfl
@[simp] theorem State.modSlot_libPages (s : State) (n : SlotId) (f : Slot → Slot) : (s.modSlot n f).libPages = s.libPages := rfl
@[simp] theorem State.modSlot_parity (s : State) (n : SlotId) (f : Slot → Slot) : (s.modSlot n f).parity = s.parity := rfl
@[simp] theorem State.modSlot_libSrc (s : State) (n : SlotId) (f : Slot → Slot) : (s.modSlot n f).libSrc = s.libSrc := rfl
@[simp] theorem State.modSlot_libBusy (s : State) (n : SlotId) (f : Slot → Slot) : (s.modSlot n f).libBusy = s.libBusy := rfl
@[simp] theorem State.modSlot_libOp (s : State) (n : SlotId) (f : Slot → Slot) : (s.modSlot n f).libOp = s.libOp := rfl
@[simp] theorem State.modSlot_libResult (s : State) (n : SlotId) (f : Slot → Slot) : (s.modSlot n f).libResult = s.libResult := rfl
@[simp] theorem State.modSlot_libPendingResult (s : State) (n : SlotId) (f : Slot → Slot) : (s.modSlot n f).libPendingResult = s.libPendingResult := rfl
@[simp] theorem State.modSlot_libRetryOk (s : State) (n : SlotId) (f : Slot → Slot) : (s.modSlot n f).libRetryOk = s.libRetryOk := rfl
@[simp] theorem State.modSlot_libRebuilt (s : State) (n : SlotId) (f : Slot → Slot) : (s.modSlot n f).libRebuilt = s.libRebuilt := rfl
@[simp] theorem State.modSlot_libLost (s : State) (n : SlotId) (f : Slot → Slot) : (s.modSlot n f).libLost = s.libLost := rfl
@[simp] theorem State.modSlot_dropWait (s : State) (n : SlotId) (f : Slot → Slot) : (s.modSlot n f).dropWait = s.dropWait := rfl
@[simp] theorem State.modSlot_libRetry (s : State) (n : SlotId) (f : Slot → Slot) : (s.modSlot n f).libRetry = s.libRetry := rfl
@[simp] theorem State.modSlot_migs (s : State) (n : SlotId) (f : Slot → Slot) : (s.modSlot n f).migs = s.migs := rfl
@[simp] theorem State.modSlot_wlatch (s : State) (n : SlotId) (f : Slot → Slot) : (s.modSlot n f).wlatch = s.wlatch := rfl
@[simp] theorem State.modSlot_libPage0 (s : State) (n : SlotId) (f : Slot → Slot) : (s.modSlot n f).libPage0 = s.libPage0 := rfl
@[simp] theorem State.modSlot_libCount (s : State) (n : SlotId) (f : Slot → Slot) : (s.modSlot n f).libCount = s.libCount := rfl
@[simp] theorem State.modSlot_formLines (s : State) (n : SlotId) (f : Slot → Slot) : (s.modSlot n f).formLines = s.formLines := rfl
@[simp] theorem State.modSlot_unitsOut (s : State) (n : SlotId) (f : Slot → Slot) : (s.modSlot n f).unitsOut = s.unitsOut := rfl
@[simp] theorem State.modSlot_epoch0 (s : State) (n : SlotId) (f : Slot → Slot) : (s.modSlot n f).epoch0 = s.epoch0 := rfl
@[simp] theorem State.modSlot_epoch1 (s : State) (n : SlotId) (f : Slot → Slot) : (s.modSlot n f).epoch1 = s.epoch1 := rfl
@[simp] theorem State.modSlot_devScratch (s : State) (n : SlotId) (f : Slot → Slot) : (s.modSlot n f).devScratch = s.devScratch := rfl
@[simp] theorem State.modSlot_intr (s : State) (n : SlotId) (f : Slot → Slot) : (s.modSlot n f).intr = s.intr := rfl
@[simp] theorem State.modSlot_intrEn (s : State) (n : SlotId) (f : Slot → Slot) : (s.modSlot n f).intrEn = s.intrEn := rfl
@[simp] theorem State.modSlot_ctxs (s : State) (n : SlotId) (f : Slot → Slot) : (s.modSlot n f).ctxs = s.ctxs := rfl
@[simp] theorem State.modSlot_ttCtxBase (s : State) (n : SlotId) (f : Slot → Slot) : (s.modSlot n f).ttCtxBase = s.ttCtxBase := rfl
@[simp] theorem State.modSlot_ttBusy (s : State) (n : SlotId) (f : Slot → Slot) : (s.modSlot n f).ttBusy = s.ttBusy := rfl
@[simp] theorem State.modSlot_ttResult (s : State) (n : SlotId) (f : Slot → Slot) : (s.modSlot n f).ttResult = s.ttResult := rfl
@[simp] theorem State.modSlot_ttOp (s : State) (n : SlotId) (f : Slot → Slot) : (s.modSlot n f).ttOp = s.ttOp := rfl
@[simp] theorem State.modSlot_ttCtx (s : State) (n : SlotId) (f : Slot → Slot) : (s.modSlot n f).ttCtx = s.ttCtx := rfl
@[simp] theorem State.modSlot_pools (s : State) (n : SlotId) (f : Slot → Slot) : (s.modSlot n f).pools = s.pools := rfl
@[simp] theorem State.modSlot_kvCtxs (s : State) (n : SlotId) (f : Slot → Slot) : (s.modSlot n f).kvCtxs = s.kvCtxs := rfl
@[simp] theorem State.modSlot_kvArg0 (s : State) (n : SlotId) (f : Slot → Slot) : (s.modSlot n f).kvArg0 = s.kvArg0 := rfl
@[simp] theorem State.modSlot_kvArg1 (s : State) (n : SlotId) (f : Slot → Slot) : (s.modSlot n f).kvArg1 = s.kvArg1 := rfl
@[simp] theorem State.modSlot_kvArg2 (s : State) (n : SlotId) (f : Slot → Slot) : (s.modSlot n f).kvArg2 = s.kvArg2 := rfl
@[simp] theorem State.modSlot_kvBusy (s : State) (n : SlotId) (f : Slot → Slot) : (s.modSlot n f).kvBusy = s.kvBusy := rfl
@[simp] theorem State.modSlot_kvResult (s : State) (n : SlotId) (f : Slot → Slot) : (s.modSlot n f).kvResult = s.kvResult := rfl
@[simp] theorem State.modSlot_kvOp (s : State) (n : SlotId) (f : Slot → Slot) : (s.modSlot n f).kvOp = s.kvOp := rfl
@[simp] theorem State.modSlot_kvSlot (s : State) (n : SlotId) (f : Slot → Slot) : (s.modSlot n f).kvSlot = s.kvSlot := rfl
@[simp] theorem State.modSlot_kvStep (s : State) (n : SlotId) (f : Slot → Slot) : (s.modSlot n f).kvStep = s.kvStep := rfl
@[simp] theorem State.modSlot_kvBoundary (s : State) (n : SlotId) (f : Slot → Slot) : (s.modSlot n f).kvBoundary = s.kvBoundary := rfl
@[simp] theorem State.modSlot_kvTrans (s : State) (n : SlotId) (f : Slot → Slot) : (s.modSlot n f).kvTrans = s.kvTrans := rfl
@[simp] theorem State.modSlot_kvCommitting (s : State) (n : SlotId) (f : Slot → Slot) : (s.modSlot n f).kvCommitting = s.kvCommitting := rfl
@[simp] theorem State.modSlot_kvEdit (s : State) (n : SlotId) (f : Slot → Slot) : (s.modSlot n f).kvEdit = s.kvEdit := rfl
@[simp] theorem State.modSlot_retired (s : State) (n : SlotId) (f : Slot → Slot) : (s.modSlot n f).retired = s.retired := rfl
@[simp] theorem State.modSlot_failedSets (s : State) (n : SlotId) (f : Slot → Slot) : (s.modSlot n f).failedSets = s.failedSets := rfl
@[simp] theorem State.modSlot_chipId (s : State) (n : SlotId) (f : Slot → Slot) : (s.modSlot n f).chipId = s.chipId := rfl
@[simp] theorem State.modSlot_chipValid (s : State) (n : SlotId) (f : Slot → Slot) : (s.modSlot n f).chipValid = s.chipValid := rfl
@[simp] theorem State.modSlot_dims (s : State) (n : SlotId) (f : Slot → Slot) : (s.modSlot n f).dims = s.dims := rfl
@[simp] theorem State.modSlot_routes (s : State) (n : SlotId) (f : Slot → Slot) : (s.modSlot n f).routes = s.routes := rfl
@[simp] theorem State.modSlot_ports (s : State) (n : SlotId) (f : Slot → Slot) : (s.modSlot n f).ports = s.ports := rfl
@[simp] theorem State.modSlot_inbox (s : State) (n : SlotId) (f : Slot → Slot) : (s.modSlot n f).inbox = s.inbox := rfl
@[simp] theorem State.modSlot_asked (s : State) (n : SlotId) (f : Slot → Slot) : (s.modSlot n f).asked = s.asked := rfl
@[simp] theorem State.modSlot_nextTag (s : State) (n : SlotId) (f : Slot → Slot) : (s.modSlot n f).nextTag = s.nextTag := rfl
@[simp] theorem State.modSlot_incoming (s : State) (n : SlotId) (f : Slot → Slot) : (s.modSlot n f).incoming = s.incoming := rfl
@[simp] theorem State.modSlot_stuck (s : State) (n : SlotId) (f : Slot → Slot) : (s.modSlot n f).stuck = s.stuck := rfl
@[simp] theorem State.modSlot_heldIn (s : State) (n : SlotId) (f : Slot → Slot) : (s.modSlot n f).heldIn = s.heldIn := rfl
@[simp] theorem State.modSlot_bellRoot (s : State) (n : SlotId) (f : Slot → Slot) : (s.modSlot n f).bellRoot = s.bellRoot := rfl
@[simp] theorem State.modSlot_bellState (s : State) (n : SlotId) (f : Slot → Slot) : (s.modSlot n f).bellState = s.bellState := rfl
@[simp] theorem State.modSlot_bellRate (s : State) (n : SlotId) (f : Slot → Slot) : (s.modSlot n f).bellRate = s.bellRate := rfl
@[simp] theorem State.modSlot_bellMax (s : State) (n : SlotId) (f : Slot → Slot) : (s.modSlot n f).bellMax = s.bellMax := rfl
@[simp] theorem State.modSlot_bellLost (s : State) (n : SlotId) (f : Slot → Slot) : (s.modSlot n f).bellLost = s.bellLost := rfl
@[simp] theorem State.modSlot_bellStepped (s : State) (n : SlotId) (f : Slot → Slot) : (s.modSlot n f).bellStepped = s.bellStepped := rfl
@[simp] theorem State.modSlot_bellSlew (s : State) (n : SlotId) (f : Slot → Slot) : (s.modSlot n f).bellSlew = s.bellSlew := rfl
@[simp] theorem State.modSlot_power (s : State) (n : SlotId) (f : Slot → Slot) : (s.modSlot n f).power = s.power := rfl
@[simp] theorem State.modSlot_sec (s : State) (n : SlotId) (f : Slot → Slot) : (s.modSlot n f).sec = s.sec := rfl
@[simp] theorem State.modSlot_log (s : State) (n : SlotId) (f : Slot → Slot) : (s.modSlot n f).log = s.log := rfl
@[simp] theorem State.modSlot_wdts (s : State) (n : SlotId) (f : Slot → Slot) : (s.modSlot n f).wdts = s.wdts := rfl
@[simp] theorem State.modSlot_hartErr (s : State) (n : SlotId) (f : Slot → Slot) : (s.modSlot n f).hartErr = s.hartErr := rfl
@[simp] theorem State.modSlot_sram (s : State) (n : SlotId) (f : Slot → Slot) : (s.modSlot n f).sram = s.sram := rfl
@[simp] theorem State.modSlot_eths (s : State) (n : SlotId) (f : Slot → Slot) : (s.modSlot n f).eths = s.eths := rfl
@[simp] theorem State.modSlot_pcie (s : State) (n : SlotId) (f : Slot → Slot) : (s.modSlot n f).pcie = s.pcie := rfl
@[simp] theorem State.modSlot_mgtAddr (s : State) (n : SlotId) (f : Slot → Slot) : (s.modSlot n f).mgtAddr = s.mgtAddr := rfl
@[simp] theorem State.modSlot_tap (s : State) (n : SlotId) (f : Slot → Slot) : (s.modSlot n f).tap = s.tap := rfl
@[simp] theorem State.modSlot_perf (s : State) (n : SlotId) (f : Slot → Slot) : (s.modSlot n f).perf = s.perf := rfl
@[simp] theorem State.modSlot_perfCopy (s : State) (n : SlotId) (f : Slot → Slot) : (s.modSlot n f).perfCopy = s.perfCopy := rfl
@[simp] theorem State.modSlot_snapPending (s : State) (n : SlotId) (f : Slot → Slot) : (s.modSlot n f).snapPending = s.snapPending := rfl
@[simp] theorem State.modSlot_snapValid (s : State) (n : SlotId) (f : Slot → Slot) : (s.modSlot n f).snapValid = s.snapValid := rfl

/-! modPort: every field but ports. -/

@[simp] theorem State.modPort_pending (s : State) (p : PortId) (f : Port → Port) : (s.modPort p f).pending = s.pending := rfl
@[simp] theorem State.modPort_fresh (s : State) (p : PortId) (f : Port → Port) : (s.modPort p f).fresh = s.fresh := rfl
@[simp] theorem State.modPort_rdata (s : State) (p : PortId) (f : Port → Port) : (s.modPort p f).rdata = s.rdata := rfl
@[simp] theorem State.modPort_bell (s : State) (p : PortId) (f : Port → Port) : (s.modPort p f).bell = s.bell := rfl
@[simp] theorem State.modPort_life (s : State) (p : PortId) (f : Port → Port) : (s.modPort p f).life = s.life := rfl
@[simp] theorem State.modPort_pstate (s : State) (p : PortId) (f : Port → Port) : (s.modPort p f).pstate = s.pstate := rfl
@[simp] theorem State.modPort_boot (s : State) (p : PortId) (f : Port → Port) : (s.modPort p f).boot = s.boot := rfl
@[simp] theorem State.modPort_straps (s : State) (p : PortId) (f : Port → Port) : (s.modPort p f).straps = s.straps := rfl
@[simp] theorem State.modPort_resetN (s : State) (p : PortId) (f : Port → Port) : (s.modPort p f).resetN = s.resetN := rfl
@[simp] theorem State.modPort_powerGood (s : State) (p : PortId) (f : Port → Port) : (s.modPort p f).powerGood = s.powerGood := rfl
@[simp] theorem State.modPort_reading (s : State) (p : PortId) (f : Port → Port) : (s.modPort p f).reading = s.reading := rfl
@[simp] theorem State.modPort_cores (s : State) (p : PortId) (f : Port → Port) : (s.modPort p f).cores = s.cores := rfl
@[simp] theorem State.modPort_mem (s : State) (p : PortId) (f : Port → Port) : (s.modPort p f).mem = s.mem := rfl
@[simp] theorem State.modPort_memPoison (s : State) (p : PortId) (f : Port → Port) : (s.modPort p f).memPoison = s.memPoison := rfl
@[simp] theorem State.modPort_net (s : State) (p : PortId) (f : Port → Port) : (s.modPort p f).net = s.net := rfl
@[simp] theorem State.modPort_lastBulk (s : State) (p : PortId) (f : Port → Port) : (s.modPort p f).lastBulk = s.lastBulk := rfl
@[simp] theorem State.modPort_lastNarrow (s : State) (p : PortId) (f : Port → Port) : (s.modPort p f).lastNarrow = s.lastNarrow := rfl
@[simp] theorem State.modPort_laneLast (s : State) (p : PortId) (f : Port → Port) : (s.modPort p f).laneLast = s.laneLast := rfl
@[simp] theorem State.modPort_scrubAt (s : State) (p : PortId) (f : Port → Port) : (s.modPort p f).scrubAt = s.scrubAt := rfl
@[simp] theorem State.modPort_wrecBase (s : State) (p : PortId) (f : Port → Port) : (s.modPort p f).wrecBase = s.wrecBase := rfl
@[simp] theorem State.modPort_wrecCount (s : State) (p : PortId) (f : Port → Port) : (s.modPort p f).wrecCount = s.wrecCount := rfl
@[simp] theorem State.modPort_flushBusy (s : State) (p : PortId) (f : Port → Port) : (s.modPort p f).flushBusy = s.flushBusy := rfl
@[simp] theorem State.modPort_flushAll (s : State) (p : PortId) (f : Port → Port) : (s.modPort p f).flushAll = s.flushAll := rfl
@[simp] theorem State.modPort_flushCtx (s : State) (p : PortId) (f : Port → Port) : (s.modPort p f).flushCtx = s.flushCtx := rfl
@[simp] theorem State.modPort_ttbase (s : State) (p : PortId) (f : Port → Port) : (s.modPort p f).ttbase = s.ttbase := rfl
@[simp] theorem State.modPort_winA (s : State) (p : PortId) (f : Port → Port) : (s.modPort p f).winA = s.winA := rfl
@[simp] theorem State.modPort_winB (s : State) (p : PortId) (f : Port → Port) : (s.modPort p f).winB = s.winB := rfl
@[simp] theorem State.modPort_impA (s : State) (p : PortId) (f : Port → Port) : (s.modPort p f).impA = s.impA := rfl
@[simp] theorem State.modPort_impB (s : State) (p : PortId) (f : Port → Port) : (s.modPort p f).impB = s.impB := rfl
@[simp] theorem State.modPort_lib (s : State) (p : PortId) (f : Port → Port) : (s.modPort p f).lib = s.lib := rfl
@[simp] theorem State.modPort_libPages (s : State) (p : PortId) (f : Port → Port) : (s.modPort p f).libPages = s.libPages := rfl
@[simp] theorem State.modPort_parity (s : State) (p : PortId) (f : Port → Port) : (s.modPort p f).parity = s.parity := rfl
@[simp] theorem State.modPort_libSrc (s : State) (p : PortId) (f : Port → Port) : (s.modPort p f).libSrc = s.libSrc := rfl
@[simp] theorem State.modPort_libBusy (s : State) (p : PortId) (f : Port → Port) : (s.modPort p f).libBusy = s.libBusy := rfl
@[simp] theorem State.modPort_libOp (s : State) (p : PortId) (f : Port → Port) : (s.modPort p f).libOp = s.libOp := rfl
@[simp] theorem State.modPort_libResult (s : State) (p : PortId) (f : Port → Port) : (s.modPort p f).libResult = s.libResult := rfl
@[simp] theorem State.modPort_libPendingResult (s : State) (p : PortId) (f : Port → Port) : (s.modPort p f).libPendingResult = s.libPendingResult := rfl
@[simp] theorem State.modPort_libRetryOk (s : State) (p : PortId) (f : Port → Port) : (s.modPort p f).libRetryOk = s.libRetryOk := rfl
@[simp] theorem State.modPort_libRebuilt (s : State) (p : PortId) (f : Port → Port) : (s.modPort p f).libRebuilt = s.libRebuilt := rfl
@[simp] theorem State.modPort_libLost (s : State) (p : PortId) (f : Port → Port) : (s.modPort p f).libLost = s.libLost := rfl
@[simp] theorem State.modPort_dropWait (s : State) (p : PortId) (f : Port → Port) : (s.modPort p f).dropWait = s.dropWait := rfl
@[simp] theorem State.modPort_libRetry (s : State) (p : PortId) (f : Port → Port) : (s.modPort p f).libRetry = s.libRetry := rfl
@[simp] theorem State.modPort_migs (s : State) (p : PortId) (f : Port → Port) : (s.modPort p f).migs = s.migs := rfl
@[simp] theorem State.modPort_wlatch (s : State) (p : PortId) (f : Port → Port) : (s.modPort p f).wlatch = s.wlatch := rfl
@[simp] theorem State.modPort_libPage0 (s : State) (p : PortId) (f : Port → Port) : (s.modPort p f).libPage0 = s.libPage0 := rfl
@[simp] theorem State.modPort_libCount (s : State) (p : PortId) (f : Port → Port) : (s.modPort p f).libCount = s.libCount := rfl
@[simp] theorem State.modPort_formLines (s : State) (p : PortId) (f : Port → Port) : (s.modPort p f).formLines = s.formLines := rfl
@[simp] theorem State.modPort_unitsOut (s : State) (p : PortId) (f : Port → Port) : (s.modPort p f).unitsOut = s.unitsOut := rfl
@[simp] theorem State.modPort_epoch0 (s : State) (p : PortId) (f : Port → Port) : (s.modPort p f).epoch0 = s.epoch0 := rfl
@[simp] theorem State.modPort_epoch1 (s : State) (p : PortId) (f : Port → Port) : (s.modPort p f).epoch1 = s.epoch1 := rfl
@[simp] theorem State.modPort_devScratch (s : State) (p : PortId) (f : Port → Port) : (s.modPort p f).devScratch = s.devScratch := rfl
@[simp] theorem State.modPort_intr (s : State) (p : PortId) (f : Port → Port) : (s.modPort p f).intr = s.intr := rfl
@[simp] theorem State.modPort_intrEn (s : State) (p : PortId) (f : Port → Port) : (s.modPort p f).intrEn = s.intrEn := rfl
@[simp] theorem State.modPort_ctxs (s : State) (p : PortId) (f : Port → Port) : (s.modPort p f).ctxs = s.ctxs := rfl
@[simp] theorem State.modPort_ttCtxBase (s : State) (p : PortId) (f : Port → Port) : (s.modPort p f).ttCtxBase = s.ttCtxBase := rfl
@[simp] theorem State.modPort_ttBusy (s : State) (p : PortId) (f : Port → Port) : (s.modPort p f).ttBusy = s.ttBusy := rfl
@[simp] theorem State.modPort_ttResult (s : State) (p : PortId) (f : Port → Port) : (s.modPort p f).ttResult = s.ttResult := rfl
@[simp] theorem State.modPort_ttOp (s : State) (p : PortId) (f : Port → Port) : (s.modPort p f).ttOp = s.ttOp := rfl
@[simp] theorem State.modPort_ttCtx (s : State) (p : PortId) (f : Port → Port) : (s.modPort p f).ttCtx = s.ttCtx := rfl
@[simp] theorem State.modPort_pools (s : State) (p : PortId) (f : Port → Port) : (s.modPort p f).pools = s.pools := rfl
@[simp] theorem State.modPort_kvCtxs (s : State) (p : PortId) (f : Port → Port) : (s.modPort p f).kvCtxs = s.kvCtxs := rfl
@[simp] theorem State.modPort_slots (s : State) (p : PortId) (f : Port → Port) : (s.modPort p f).slots = s.slots := rfl
@[simp] theorem State.modPort_kvArg0 (s : State) (p : PortId) (f : Port → Port) : (s.modPort p f).kvArg0 = s.kvArg0 := rfl
@[simp] theorem State.modPort_kvArg1 (s : State) (p : PortId) (f : Port → Port) : (s.modPort p f).kvArg1 = s.kvArg1 := rfl
@[simp] theorem State.modPort_kvArg2 (s : State) (p : PortId) (f : Port → Port) : (s.modPort p f).kvArg2 = s.kvArg2 := rfl
@[simp] theorem State.modPort_kvBusy (s : State) (p : PortId) (f : Port → Port) : (s.modPort p f).kvBusy = s.kvBusy := rfl
@[simp] theorem State.modPort_kvResult (s : State) (p : PortId) (f : Port → Port) : (s.modPort p f).kvResult = s.kvResult := rfl
@[simp] theorem State.modPort_kvOp (s : State) (p : PortId) (f : Port → Port) : (s.modPort p f).kvOp = s.kvOp := rfl
@[simp] theorem State.modPort_kvSlot (s : State) (p : PortId) (f : Port → Port) : (s.modPort p f).kvSlot = s.kvSlot := rfl
@[simp] theorem State.modPort_kvStep (s : State) (p : PortId) (f : Port → Port) : (s.modPort p f).kvStep = s.kvStep := rfl
@[simp] theorem State.modPort_kvBoundary (s : State) (p : PortId) (f : Port → Port) : (s.modPort p f).kvBoundary = s.kvBoundary := rfl
@[simp] theorem State.modPort_kvTrans (s : State) (p : PortId) (f : Port → Port) : (s.modPort p f).kvTrans = s.kvTrans := rfl
@[simp] theorem State.modPort_kvCommitting (s : State) (p : PortId) (f : Port → Port) : (s.modPort p f).kvCommitting = s.kvCommitting := rfl
@[simp] theorem State.modPort_kvEdit (s : State) (p : PortId) (f : Port → Port) : (s.modPort p f).kvEdit = s.kvEdit := rfl
@[simp] theorem State.modPort_retired (s : State) (p : PortId) (f : Port → Port) : (s.modPort p f).retired = s.retired := rfl
@[simp] theorem State.modPort_failedSets (s : State) (p : PortId) (f : Port → Port) : (s.modPort p f).failedSets = s.failedSets := rfl
@[simp] theorem State.modPort_chipId (s : State) (p : PortId) (f : Port → Port) : (s.modPort p f).chipId = s.chipId := rfl
@[simp] theorem State.modPort_chipValid (s : State) (p : PortId) (f : Port → Port) : (s.modPort p f).chipValid = s.chipValid := rfl
@[simp] theorem State.modPort_dims (s : State) (p : PortId) (f : Port → Port) : (s.modPort p f).dims = s.dims := rfl
@[simp] theorem State.modPort_routes (s : State) (p : PortId) (f : Port → Port) : (s.modPort p f).routes = s.routes := rfl
@[simp] theorem State.modPort_inbox (s : State) (p : PortId) (f : Port → Port) : (s.modPort p f).inbox = s.inbox := rfl
@[simp] theorem State.modPort_asked (s : State) (p : PortId) (f : Port → Port) : (s.modPort p f).asked = s.asked := rfl
@[simp] theorem State.modPort_nextTag (s : State) (p : PortId) (f : Port → Port) : (s.modPort p f).nextTag = s.nextTag := rfl
@[simp] theorem State.modPort_incoming (s : State) (p : PortId) (f : Port → Port) : (s.modPort p f).incoming = s.incoming := rfl
@[simp] theorem State.modPort_stuck (s : State) (p : PortId) (f : Port → Port) : (s.modPort p f).stuck = s.stuck := rfl
@[simp] theorem State.modPort_heldIn (s : State) (p : PortId) (f : Port → Port) : (s.modPort p f).heldIn = s.heldIn := rfl
@[simp] theorem State.modPort_bellRoot (s : State) (p : PortId) (f : Port → Port) : (s.modPort p f).bellRoot = s.bellRoot := rfl
@[simp] theorem State.modPort_bellState (s : State) (p : PortId) (f : Port → Port) : (s.modPort p f).bellState = s.bellState := rfl
@[simp] theorem State.modPort_bellRate (s : State) (p : PortId) (f : Port → Port) : (s.modPort p f).bellRate = s.bellRate := rfl
@[simp] theorem State.modPort_bellMax (s : State) (p : PortId) (f : Port → Port) : (s.modPort p f).bellMax = s.bellMax := rfl
@[simp] theorem State.modPort_bellLost (s : State) (p : PortId) (f : Port → Port) : (s.modPort p f).bellLost = s.bellLost := rfl
@[simp] theorem State.modPort_bellStepped (s : State) (p : PortId) (f : Port → Port) : (s.modPort p f).bellStepped = s.bellStepped := rfl
@[simp] theorem State.modPort_bellSlew (s : State) (p : PortId) (f : Port → Port) : (s.modPort p f).bellSlew = s.bellSlew := rfl
@[simp] theorem State.modPort_power (s : State) (p : PortId) (f : Port → Port) : (s.modPort p f).power = s.power := rfl
@[simp] theorem State.modPort_sec (s : State) (p : PortId) (f : Port → Port) : (s.modPort p f).sec = s.sec := rfl
@[simp] theorem State.modPort_log (s : State) (p : PortId) (f : Port → Port) : (s.modPort p f).log = s.log := rfl
@[simp] theorem State.modPort_wdts (s : State) (p : PortId) (f : Port → Port) : (s.modPort p f).wdts = s.wdts := rfl
@[simp] theorem State.modPort_hartErr (s : State) (p : PortId) (f : Port → Port) : (s.modPort p f).hartErr = s.hartErr := rfl
@[simp] theorem State.modPort_sram (s : State) (p : PortId) (f : Port → Port) : (s.modPort p f).sram = s.sram := rfl
@[simp] theorem State.modPort_eths (s : State) (p : PortId) (f : Port → Port) : (s.modPort p f).eths = s.eths := rfl
@[simp] theorem State.modPort_pcie (s : State) (p : PortId) (f : Port → Port) : (s.modPort p f).pcie = s.pcie := rfl
@[simp] theorem State.modPort_mgtAddr (s : State) (p : PortId) (f : Port → Port) : (s.modPort p f).mgtAddr = s.mgtAddr := rfl
@[simp] theorem State.modPort_tap (s : State) (p : PortId) (f : Port → Port) : (s.modPort p f).tap = s.tap := rfl
@[simp] theorem State.modPort_perf (s : State) (p : PortId) (f : Port → Port) : (s.modPort p f).perf = s.perf := rfl
@[simp] theorem State.modPort_perfCopy (s : State) (p : PortId) (f : Port → Port) : (s.modPort p f).perfCopy = s.perfCopy := rfl
@[simp] theorem State.modPort_snapPending (s : State) (p : PortId) (f : Port → Port) : (s.modPort p f).snapPending = s.snapPending := rfl
@[simp] theorem State.modPort_snapValid (s : State) (p : PortId) (f : Port → Port) : (s.modPort p f).snapValid = s.snapValid := rfl

/-! write: every field but mem and memPoison. -/

@[simp] theorem State.write_pending (s : State) (a : Nat) (b : List Byte) : (s.write a b).pending = s.pending := rfl
@[simp] theorem State.write_fresh (s : State) (a : Nat) (b : List Byte) : (s.write a b).fresh = s.fresh := rfl
@[simp] theorem State.write_rdata (s : State) (a : Nat) (b : List Byte) : (s.write a b).rdata = s.rdata := rfl
@[simp] theorem State.write_bell (s : State) (a : Nat) (b : List Byte) : (s.write a b).bell = s.bell := rfl
@[simp] theorem State.write_life (s : State) (a : Nat) (b : List Byte) : (s.write a b).life = s.life := rfl
@[simp] theorem State.write_pstate (s : State) (a : Nat) (b : List Byte) : (s.write a b).pstate = s.pstate := rfl
@[simp] theorem State.write_boot (s : State) (a : Nat) (b : List Byte) : (s.write a b).boot = s.boot := rfl
@[simp] theorem State.write_straps (s : State) (a : Nat) (b : List Byte) : (s.write a b).straps = s.straps := rfl
@[simp] theorem State.write_resetN (s : State) (a : Nat) (b : List Byte) : (s.write a b).resetN = s.resetN := rfl
@[simp] theorem State.write_powerGood (s : State) (a : Nat) (b : List Byte) : (s.write a b).powerGood = s.powerGood := rfl
@[simp] theorem State.write_reading (s : State) (a : Nat) (b : List Byte) : (s.write a b).reading = s.reading := rfl
@[simp] theorem State.write_cores (s : State) (a : Nat) (b : List Byte) : (s.write a b).cores = s.cores := rfl
@[simp] theorem State.write_net (s : State) (a : Nat) (b : List Byte) : (s.write a b).net = s.net := rfl
@[simp] theorem State.write_lastBulk (s : State) (a : Nat) (b : List Byte) : (s.write a b).lastBulk = s.lastBulk := rfl
@[simp] theorem State.write_lastNarrow (s : State) (a : Nat) (b : List Byte) : (s.write a b).lastNarrow = s.lastNarrow := rfl
@[simp] theorem State.write_laneLast (s : State) (a : Nat) (b : List Byte) : (s.write a b).laneLast = s.laneLast := rfl
@[simp] theorem State.write_scrubAt (s : State) (a : Nat) (b : List Byte) : (s.write a b).scrubAt = s.scrubAt := rfl
@[simp] theorem State.write_wrecBase (s : State) (a : Nat) (b : List Byte) : (s.write a b).wrecBase = s.wrecBase := rfl
@[simp] theorem State.write_wrecCount (s : State) (a : Nat) (b : List Byte) : (s.write a b).wrecCount = s.wrecCount := rfl
@[simp] theorem State.write_flushBusy (s : State) (a : Nat) (b : List Byte) : (s.write a b).flushBusy = s.flushBusy := rfl
@[simp] theorem State.write_flushAll (s : State) (a : Nat) (b : List Byte) : (s.write a b).flushAll = s.flushAll := rfl
@[simp] theorem State.write_flushCtx (s : State) (a : Nat) (b : List Byte) : (s.write a b).flushCtx = s.flushCtx := rfl
@[simp] theorem State.write_ttbase (s : State) (a : Nat) (b : List Byte) : (s.write a b).ttbase = s.ttbase := rfl
@[simp] theorem State.write_winA (s : State) (a : Nat) (b : List Byte) : (s.write a b).winA = s.winA := rfl
@[simp] theorem State.write_winB (s : State) (a : Nat) (b : List Byte) : (s.write a b).winB = s.winB := rfl
@[simp] theorem State.write_impA (s : State) (a : Nat) (b : List Byte) : (s.write a b).impA = s.impA := rfl
@[simp] theorem State.write_impB (s : State) (a : Nat) (b : List Byte) : (s.write a b).impB = s.impB := rfl
@[simp] theorem State.write_lib (s : State) (a : Nat) (b : List Byte) : (s.write a b).lib = s.lib := rfl
@[simp] theorem State.write_libPages (s : State) (a : Nat) (b : List Byte) : (s.write a b).libPages = s.libPages := rfl
@[simp] theorem State.write_parity (s : State) (a : Nat) (b : List Byte) : (s.write a b).parity = s.parity := rfl
@[simp] theorem State.write_libSrc (s : State) (a : Nat) (b : List Byte) : (s.write a b).libSrc = s.libSrc := rfl
@[simp] theorem State.write_libBusy (s : State) (a : Nat) (b : List Byte) : (s.write a b).libBusy = s.libBusy := rfl
@[simp] theorem State.write_libOp (s : State) (a : Nat) (b : List Byte) : (s.write a b).libOp = s.libOp := rfl
@[simp] theorem State.write_libResult (s : State) (a : Nat) (b : List Byte) : (s.write a b).libResult = s.libResult := rfl
@[simp] theorem State.write_libPendingResult (s : State) (a : Nat) (b : List Byte) : (s.write a b).libPendingResult = s.libPendingResult := rfl
@[simp] theorem State.write_libRetryOk (s : State) (a : Nat) (b : List Byte) : (s.write a b).libRetryOk = s.libRetryOk := rfl
@[simp] theorem State.write_libRebuilt (s : State) (a : Nat) (b : List Byte) : (s.write a b).libRebuilt = s.libRebuilt := rfl
@[simp] theorem State.write_libLost (s : State) (a : Nat) (b : List Byte) : (s.write a b).libLost = s.libLost := rfl
@[simp] theorem State.write_dropWait (s : State) (a : Nat) (b : List Byte) : (s.write a b).dropWait = s.dropWait := rfl
@[simp] theorem State.write_libRetry (s : State) (a : Nat) (b : List Byte) : (s.write a b).libRetry = s.libRetry := rfl
@[simp] theorem State.write_migs (s : State) (a : Nat) (b : List Byte) : (s.write a b).migs = s.migs := rfl
@[simp] theorem State.write_wlatch (s : State) (a : Nat) (b : List Byte) : (s.write a b).wlatch = s.wlatch := rfl
@[simp] theorem State.write_libPage0 (s : State) (a : Nat) (b : List Byte) : (s.write a b).libPage0 = s.libPage0 := rfl
@[simp] theorem State.write_libCount (s : State) (a : Nat) (b : List Byte) : (s.write a b).libCount = s.libCount := rfl
@[simp] theorem State.write_formLines (s : State) (a : Nat) (b : List Byte) : (s.write a b).formLines = s.formLines := rfl
@[simp] theorem State.write_unitsOut (s : State) (a : Nat) (b : List Byte) : (s.write a b).unitsOut = s.unitsOut := rfl
@[simp] theorem State.write_epoch0 (s : State) (a : Nat) (b : List Byte) : (s.write a b).epoch0 = s.epoch0 := rfl
@[simp] theorem State.write_epoch1 (s : State) (a : Nat) (b : List Byte) : (s.write a b).epoch1 = s.epoch1 := rfl
@[simp] theorem State.write_devScratch (s : State) (a : Nat) (b : List Byte) : (s.write a b).devScratch = s.devScratch := rfl
@[simp] theorem State.write_intr (s : State) (a : Nat) (b : List Byte) : (s.write a b).intr = s.intr := rfl
@[simp] theorem State.write_intrEn (s : State) (a : Nat) (b : List Byte) : (s.write a b).intrEn = s.intrEn := rfl
@[simp] theorem State.write_ctxs (s : State) (a : Nat) (b : List Byte) : (s.write a b).ctxs = s.ctxs := rfl
@[simp] theorem State.write_ttCtxBase (s : State) (a : Nat) (b : List Byte) : (s.write a b).ttCtxBase = s.ttCtxBase := rfl
@[simp] theorem State.write_ttBusy (s : State) (a : Nat) (b : List Byte) : (s.write a b).ttBusy = s.ttBusy := rfl
@[simp] theorem State.write_ttResult (s : State) (a : Nat) (b : List Byte) : (s.write a b).ttResult = s.ttResult := rfl
@[simp] theorem State.write_ttOp (s : State) (a : Nat) (b : List Byte) : (s.write a b).ttOp = s.ttOp := rfl
@[simp] theorem State.write_ttCtx (s : State) (a : Nat) (b : List Byte) : (s.write a b).ttCtx = s.ttCtx := rfl
@[simp] theorem State.write_pools (s : State) (a : Nat) (b : List Byte) : (s.write a b).pools = s.pools := rfl
@[simp] theorem State.write_kvCtxs (s : State) (a : Nat) (b : List Byte) : (s.write a b).kvCtxs = s.kvCtxs := rfl
@[simp] theorem State.write_slots (s : State) (a : Nat) (b : List Byte) : (s.write a b).slots = s.slots := rfl
@[simp] theorem State.write_kvArg0 (s : State) (a : Nat) (b : List Byte) : (s.write a b).kvArg0 = s.kvArg0 := rfl
@[simp] theorem State.write_kvArg1 (s : State) (a : Nat) (b : List Byte) : (s.write a b).kvArg1 = s.kvArg1 := rfl
@[simp] theorem State.write_kvArg2 (s : State) (a : Nat) (b : List Byte) : (s.write a b).kvArg2 = s.kvArg2 := rfl
@[simp] theorem State.write_kvBusy (s : State) (a : Nat) (b : List Byte) : (s.write a b).kvBusy = s.kvBusy := rfl
@[simp] theorem State.write_kvResult (s : State) (a : Nat) (b : List Byte) : (s.write a b).kvResult = s.kvResult := rfl
@[simp] theorem State.write_kvOp (s : State) (a : Nat) (b : List Byte) : (s.write a b).kvOp = s.kvOp := rfl
@[simp] theorem State.write_kvSlot (s : State) (a : Nat) (b : List Byte) : (s.write a b).kvSlot = s.kvSlot := rfl
@[simp] theorem State.write_kvStep (s : State) (a : Nat) (b : List Byte) : (s.write a b).kvStep = s.kvStep := rfl
@[simp] theorem State.write_kvBoundary (s : State) (a : Nat) (b : List Byte) : (s.write a b).kvBoundary = s.kvBoundary := rfl
@[simp] theorem State.write_kvTrans (s : State) (a : Nat) (b : List Byte) : (s.write a b).kvTrans = s.kvTrans := rfl
@[simp] theorem State.write_kvCommitting (s : State) (a : Nat) (b : List Byte) : (s.write a b).kvCommitting = s.kvCommitting := rfl
@[simp] theorem State.write_kvEdit (s : State) (a : Nat) (b : List Byte) : (s.write a b).kvEdit = s.kvEdit := rfl
@[simp] theorem State.write_retired (s : State) (a : Nat) (b : List Byte) : (s.write a b).retired = s.retired := rfl
@[simp] theorem State.write_failedSets (s : State) (a : Nat) (b : List Byte) : (s.write a b).failedSets = s.failedSets := rfl
@[simp] theorem State.write_chipId (s : State) (a : Nat) (b : List Byte) : (s.write a b).chipId = s.chipId := rfl
@[simp] theorem State.write_chipValid (s : State) (a : Nat) (b : List Byte) : (s.write a b).chipValid = s.chipValid := rfl
@[simp] theorem State.write_dims (s : State) (a : Nat) (b : List Byte) : (s.write a b).dims = s.dims := rfl
@[simp] theorem State.write_routes (s : State) (a : Nat) (b : List Byte) : (s.write a b).routes = s.routes := rfl
@[simp] theorem State.write_ports (s : State) (a : Nat) (b : List Byte) : (s.write a b).ports = s.ports := rfl
@[simp] theorem State.write_inbox (s : State) (a : Nat) (b : List Byte) : (s.write a b).inbox = s.inbox := rfl
@[simp] theorem State.write_asked (s : State) (a : Nat) (b : List Byte) : (s.write a b).asked = s.asked := rfl
@[simp] theorem State.write_nextTag (s : State) (a : Nat) (b : List Byte) : (s.write a b).nextTag = s.nextTag := rfl
@[simp] theorem State.write_incoming (s : State) (a : Nat) (b : List Byte) : (s.write a b).incoming = s.incoming := rfl
@[simp] theorem State.write_stuck (s : State) (a : Nat) (b : List Byte) : (s.write a b).stuck = s.stuck := rfl
@[simp] theorem State.write_heldIn (s : State) (a : Nat) (b : List Byte) : (s.write a b).heldIn = s.heldIn := rfl
@[simp] theorem State.write_bellRoot (s : State) (a : Nat) (b : List Byte) : (s.write a b).bellRoot = s.bellRoot := rfl
@[simp] theorem State.write_bellState (s : State) (a : Nat) (b : List Byte) : (s.write a b).bellState = s.bellState := rfl
@[simp] theorem State.write_bellRate (s : State) (a : Nat) (b : List Byte) : (s.write a b).bellRate = s.bellRate := rfl
@[simp] theorem State.write_bellMax (s : State) (a : Nat) (b : List Byte) : (s.write a b).bellMax = s.bellMax := rfl
@[simp] theorem State.write_bellLost (s : State) (a : Nat) (b : List Byte) : (s.write a b).bellLost = s.bellLost := rfl
@[simp] theorem State.write_bellStepped (s : State) (a : Nat) (b : List Byte) : (s.write a b).bellStepped = s.bellStepped := rfl
@[simp] theorem State.write_bellSlew (s : State) (a : Nat) (b : List Byte) : (s.write a b).bellSlew = s.bellSlew := rfl
@[simp] theorem State.write_power (s : State) (a : Nat) (b : List Byte) : (s.write a b).power = s.power := rfl
@[simp] theorem State.write_sec (s : State) (a : Nat) (b : List Byte) : (s.write a b).sec = s.sec := rfl
@[simp] theorem State.write_log (s : State) (a : Nat) (b : List Byte) : (s.write a b).log = s.log := rfl
@[simp] theorem State.write_wdts (s : State) (a : Nat) (b : List Byte) : (s.write a b).wdts = s.wdts := rfl
@[simp] theorem State.write_hartErr (s : State) (a : Nat) (b : List Byte) : (s.write a b).hartErr = s.hartErr := rfl
@[simp] theorem State.write_sram (s : State) (a : Nat) (b : List Byte) : (s.write a b).sram = s.sram := rfl
@[simp] theorem State.write_eths (s : State) (a : Nat) (b : List Byte) : (s.write a b).eths = s.eths := rfl
@[simp] theorem State.write_pcie (s : State) (a : Nat) (b : List Byte) : (s.write a b).pcie = s.pcie := rfl
@[simp] theorem State.write_mgtAddr (s : State) (a : Nat) (b : List Byte) : (s.write a b).mgtAddr = s.mgtAddr := rfl
@[simp] theorem State.write_tap (s : State) (a : Nat) (b : List Byte) : (s.write a b).tap = s.tap := rfl
@[simp] theorem State.write_perf (s : State) (a : Nat) (b : List Byte) : (s.write a b).perf = s.perf := rfl
@[simp] theorem State.write_perfCopy (s : State) (a : Nat) (b : List Byte) : (s.write a b).perfCopy = s.perfCopy := rfl
@[simp] theorem State.write_snapPending (s : State) (a : Nat) (b : List Byte) : (s.write a b).snapPending = s.snapPending := rfl
@[simp] theorem State.write_snapValid (s : State) (a : Nat) (b : List Byte) : (s.write a b).snapValid = s.snapValid := rfl

/-! zero: every field but mem and memPoison. -/

@[simp] theorem State.zero_pending (s : State) (a n : Nat) : (s.zero a n).pending = s.pending := rfl
@[simp] theorem State.zero_fresh (s : State) (a n : Nat) : (s.zero a n).fresh = s.fresh := rfl
@[simp] theorem State.zero_rdata (s : State) (a n : Nat) : (s.zero a n).rdata = s.rdata := rfl
@[simp] theorem State.zero_bell (s : State) (a n : Nat) : (s.zero a n).bell = s.bell := rfl
@[simp] theorem State.zero_life (s : State) (a n : Nat) : (s.zero a n).life = s.life := rfl
@[simp] theorem State.zero_pstate (s : State) (a n : Nat) : (s.zero a n).pstate = s.pstate := rfl
@[simp] theorem State.zero_boot (s : State) (a n : Nat) : (s.zero a n).boot = s.boot := rfl
@[simp] theorem State.zero_straps (s : State) (a n : Nat) : (s.zero a n).straps = s.straps := rfl
@[simp] theorem State.zero_resetN (s : State) (a n : Nat) : (s.zero a n).resetN = s.resetN := rfl
@[simp] theorem State.zero_powerGood (s : State) (a n : Nat) : (s.zero a n).powerGood = s.powerGood := rfl
@[simp] theorem State.zero_reading (s : State) (a n : Nat) : (s.zero a n).reading = s.reading := rfl
@[simp] theorem State.zero_cores (s : State) (a n : Nat) : (s.zero a n).cores = s.cores := rfl
@[simp] theorem State.zero_net (s : State) (a n : Nat) : (s.zero a n).net = s.net := rfl
@[simp] theorem State.zero_lastBulk (s : State) (a n : Nat) : (s.zero a n).lastBulk = s.lastBulk := rfl
@[simp] theorem State.zero_lastNarrow (s : State) (a n : Nat) : (s.zero a n).lastNarrow = s.lastNarrow := rfl
@[simp] theorem State.zero_laneLast (s : State) (a n : Nat) : (s.zero a n).laneLast = s.laneLast := rfl
@[simp] theorem State.zero_scrubAt (s : State) (a n : Nat) : (s.zero a n).scrubAt = s.scrubAt := rfl
@[simp] theorem State.zero_wrecBase (s : State) (a n : Nat) : (s.zero a n).wrecBase = s.wrecBase := rfl
@[simp] theorem State.zero_wrecCount (s : State) (a n : Nat) : (s.zero a n).wrecCount = s.wrecCount := rfl
@[simp] theorem State.zero_flushBusy (s : State) (a n : Nat) : (s.zero a n).flushBusy = s.flushBusy := rfl
@[simp] theorem State.zero_flushAll (s : State) (a n : Nat) : (s.zero a n).flushAll = s.flushAll := rfl
@[simp] theorem State.zero_flushCtx (s : State) (a n : Nat) : (s.zero a n).flushCtx = s.flushCtx := rfl
@[simp] theorem State.zero_ttbase (s : State) (a n : Nat) : (s.zero a n).ttbase = s.ttbase := rfl
@[simp] theorem State.zero_winA (s : State) (a n : Nat) : (s.zero a n).winA = s.winA := rfl
@[simp] theorem State.zero_winB (s : State) (a n : Nat) : (s.zero a n).winB = s.winB := rfl
@[simp] theorem State.zero_impA (s : State) (a n : Nat) : (s.zero a n).impA = s.impA := rfl
@[simp] theorem State.zero_impB (s : State) (a n : Nat) : (s.zero a n).impB = s.impB := rfl
@[simp] theorem State.zero_lib (s : State) (a n : Nat) : (s.zero a n).lib = s.lib := rfl
@[simp] theorem State.zero_libPages (s : State) (a n : Nat) : (s.zero a n).libPages = s.libPages := rfl
@[simp] theorem State.zero_parity (s : State) (a n : Nat) : (s.zero a n).parity = s.parity := rfl
@[simp] theorem State.zero_libSrc (s : State) (a n : Nat) : (s.zero a n).libSrc = s.libSrc := rfl
@[simp] theorem State.zero_libBusy (s : State) (a n : Nat) : (s.zero a n).libBusy = s.libBusy := rfl
@[simp] theorem State.zero_libOp (s : State) (a n : Nat) : (s.zero a n).libOp = s.libOp := rfl
@[simp] theorem State.zero_libResult (s : State) (a n : Nat) : (s.zero a n).libResult = s.libResult := rfl
@[simp] theorem State.zero_libPendingResult (s : State) (a n : Nat) : (s.zero a n).libPendingResult = s.libPendingResult := rfl
@[simp] theorem State.zero_libRetryOk (s : State) (a n : Nat) : (s.zero a n).libRetryOk = s.libRetryOk := rfl
@[simp] theorem State.zero_libRebuilt (s : State) (a n : Nat) : (s.zero a n).libRebuilt = s.libRebuilt := rfl
@[simp] theorem State.zero_libLost (s : State) (a n : Nat) : (s.zero a n).libLost = s.libLost := rfl
@[simp] theorem State.zero_dropWait (s : State) (a n : Nat) : (s.zero a n).dropWait = s.dropWait := rfl
@[simp] theorem State.zero_libRetry (s : State) (a n : Nat) : (s.zero a n).libRetry = s.libRetry := rfl
@[simp] theorem State.zero_migs (s : State) (a n : Nat) : (s.zero a n).migs = s.migs := rfl
@[simp] theorem State.zero_wlatch (s : State) (a n : Nat) : (s.zero a n).wlatch = s.wlatch := rfl
@[simp] theorem State.zero_libPage0 (s : State) (a n : Nat) : (s.zero a n).libPage0 = s.libPage0 := rfl
@[simp] theorem State.zero_libCount (s : State) (a n : Nat) : (s.zero a n).libCount = s.libCount := rfl
@[simp] theorem State.zero_formLines (s : State) (a n : Nat) : (s.zero a n).formLines = s.formLines := rfl
@[simp] theorem State.zero_unitsOut (s : State) (a n : Nat) : (s.zero a n).unitsOut = s.unitsOut := rfl
@[simp] theorem State.zero_epoch0 (s : State) (a n : Nat) : (s.zero a n).epoch0 = s.epoch0 := rfl
@[simp] theorem State.zero_epoch1 (s : State) (a n : Nat) : (s.zero a n).epoch1 = s.epoch1 := rfl
@[simp] theorem State.zero_devScratch (s : State) (a n : Nat) : (s.zero a n).devScratch = s.devScratch := rfl
@[simp] theorem State.zero_intr (s : State) (a n : Nat) : (s.zero a n).intr = s.intr := rfl
@[simp] theorem State.zero_intrEn (s : State) (a n : Nat) : (s.zero a n).intrEn = s.intrEn := rfl
@[simp] theorem State.zero_ctxs (s : State) (a n : Nat) : (s.zero a n).ctxs = s.ctxs := rfl
@[simp] theorem State.zero_ttCtxBase (s : State) (a n : Nat) : (s.zero a n).ttCtxBase = s.ttCtxBase := rfl
@[simp] theorem State.zero_ttBusy (s : State) (a n : Nat) : (s.zero a n).ttBusy = s.ttBusy := rfl
@[simp] theorem State.zero_ttResult (s : State) (a n : Nat) : (s.zero a n).ttResult = s.ttResult := rfl
@[simp] theorem State.zero_ttOp (s : State) (a n : Nat) : (s.zero a n).ttOp = s.ttOp := rfl
@[simp] theorem State.zero_ttCtx (s : State) (a n : Nat) : (s.zero a n).ttCtx = s.ttCtx := rfl
@[simp] theorem State.zero_pools (s : State) (a n : Nat) : (s.zero a n).pools = s.pools := rfl
@[simp] theorem State.zero_kvCtxs (s : State) (a n : Nat) : (s.zero a n).kvCtxs = s.kvCtxs := rfl
@[simp] theorem State.zero_slots (s : State) (a n : Nat) : (s.zero a n).slots = s.slots := rfl
@[simp] theorem State.zero_kvArg0 (s : State) (a n : Nat) : (s.zero a n).kvArg0 = s.kvArg0 := rfl
@[simp] theorem State.zero_kvArg1 (s : State) (a n : Nat) : (s.zero a n).kvArg1 = s.kvArg1 := rfl
@[simp] theorem State.zero_kvArg2 (s : State) (a n : Nat) : (s.zero a n).kvArg2 = s.kvArg2 := rfl
@[simp] theorem State.zero_kvBusy (s : State) (a n : Nat) : (s.zero a n).kvBusy = s.kvBusy := rfl
@[simp] theorem State.zero_kvResult (s : State) (a n : Nat) : (s.zero a n).kvResult = s.kvResult := rfl
@[simp] theorem State.zero_kvOp (s : State) (a n : Nat) : (s.zero a n).kvOp = s.kvOp := rfl
@[simp] theorem State.zero_kvSlot (s : State) (a n : Nat) : (s.zero a n).kvSlot = s.kvSlot := rfl
@[simp] theorem State.zero_kvStep (s : State) (a n : Nat) : (s.zero a n).kvStep = s.kvStep := rfl
@[simp] theorem State.zero_kvBoundary (s : State) (a n : Nat) : (s.zero a n).kvBoundary = s.kvBoundary := rfl
@[simp] theorem State.zero_kvTrans (s : State) (a n : Nat) : (s.zero a n).kvTrans = s.kvTrans := rfl
@[simp] theorem State.zero_kvCommitting (s : State) (a n : Nat) : (s.zero a n).kvCommitting = s.kvCommitting := rfl
@[simp] theorem State.zero_kvEdit (s : State) (a n : Nat) : (s.zero a n).kvEdit = s.kvEdit := rfl
@[simp] theorem State.zero_retired (s : State) (a n : Nat) : (s.zero a n).retired = s.retired := rfl
@[simp] theorem State.zero_failedSets (s : State) (a n : Nat) : (s.zero a n).failedSets = s.failedSets := rfl
@[simp] theorem State.zero_chipId (s : State) (a n : Nat) : (s.zero a n).chipId = s.chipId := rfl
@[simp] theorem State.zero_chipValid (s : State) (a n : Nat) : (s.zero a n).chipValid = s.chipValid := rfl
@[simp] theorem State.zero_dims (s : State) (a n : Nat) : (s.zero a n).dims = s.dims := rfl
@[simp] theorem State.zero_routes (s : State) (a n : Nat) : (s.zero a n).routes = s.routes := rfl
@[simp] theorem State.zero_ports (s : State) (a n : Nat) : (s.zero a n).ports = s.ports := rfl
@[simp] theorem State.zero_inbox (s : State) (a n : Nat) : (s.zero a n).inbox = s.inbox := rfl
@[simp] theorem State.zero_asked (s : State) (a n : Nat) : (s.zero a n).asked = s.asked := rfl
@[simp] theorem State.zero_nextTag (s : State) (a n : Nat) : (s.zero a n).nextTag = s.nextTag := rfl
@[simp] theorem State.zero_incoming (s : State) (a n : Nat) : (s.zero a n).incoming = s.incoming := rfl
@[simp] theorem State.zero_stuck (s : State) (a n : Nat) : (s.zero a n).stuck = s.stuck := rfl
@[simp] theorem State.zero_heldIn (s : State) (a n : Nat) : (s.zero a n).heldIn = s.heldIn := rfl
@[simp] theorem State.zero_bellRoot (s : State) (a n : Nat) : (s.zero a n).bellRoot = s.bellRoot := rfl
@[simp] theorem State.zero_bellState (s : State) (a n : Nat) : (s.zero a n).bellState = s.bellState := rfl
@[simp] theorem State.zero_bellRate (s : State) (a n : Nat) : (s.zero a n).bellRate = s.bellRate := rfl
@[simp] theorem State.zero_bellMax (s : State) (a n : Nat) : (s.zero a n).bellMax = s.bellMax := rfl
@[simp] theorem State.zero_bellLost (s : State) (a n : Nat) : (s.zero a n).bellLost = s.bellLost := rfl
@[simp] theorem State.zero_bellStepped (s : State) (a n : Nat) : (s.zero a n).bellStepped = s.bellStepped := rfl
@[simp] theorem State.zero_bellSlew (s : State) (a n : Nat) : (s.zero a n).bellSlew = s.bellSlew := rfl
@[simp] theorem State.zero_power (s : State) (a n : Nat) : (s.zero a n).power = s.power := rfl
@[simp] theorem State.zero_sec (s : State) (a n : Nat) : (s.zero a n).sec = s.sec := rfl
@[simp] theorem State.zero_log (s : State) (a n : Nat) : (s.zero a n).log = s.log := rfl
@[simp] theorem State.zero_wdts (s : State) (a n : Nat) : (s.zero a n).wdts = s.wdts := rfl
@[simp] theorem State.zero_hartErr (s : State) (a n : Nat) : (s.zero a n).hartErr = s.hartErr := rfl
@[simp] theorem State.zero_sram (s : State) (a n : Nat) : (s.zero a n).sram = s.sram := rfl
@[simp] theorem State.zero_eths (s : State) (a n : Nat) : (s.zero a n).eths = s.eths := rfl
@[simp] theorem State.zero_pcie (s : State) (a n : Nat) : (s.zero a n).pcie = s.pcie := rfl
@[simp] theorem State.zero_mgtAddr (s : State) (a n : Nat) : (s.zero a n).mgtAddr = s.mgtAddr := rfl
@[simp] theorem State.zero_tap (s : State) (a n : Nat) : (s.zero a n).tap = s.tap := rfl
@[simp] theorem State.zero_perf (s : State) (a n : Nat) : (s.zero a n).perf = s.perf := rfl
@[simp] theorem State.zero_perfCopy (s : State) (a n : Nat) : (s.zero a n).perfCopy = s.perfCopy := rfl
@[simp] theorem State.zero_snapPending (s : State) (a n : Nat) : (s.zero a n).snapPending = s.snapPending := rfl
@[simp] theorem State.zero_snapValid (s : State) (a n : Nat) : (s.zero a n).snapValid = s.snapValid := rfl

/-! The laws of maps. -/

theorem mapGet_mapSet_same {α : Type} (m : SMap α) (a : Nat) (x : α) : mapGet (mapSet m a x) a = some x := by
  induction m with
  | nil => simp [mapSet, mapGet]
  | cons e t ih =>
    obtain ⟨k, v⟩ := e
    by_cases h : a < k
    · simp [mapSet, mapGet, h]
    · by_cases h' : a = k
      · simp [mapSet, mapGet, h']
      · simp [mapSet, mapGet, h, h', ih]

theorem mapGet_mapSet_other {α : Type} (m : SMap α) (a b : Nat) (x : α) (hb : b ≠ a) : mapGet (mapSet m a x) b = mapGet m b := by
  induction m with
  | nil => by_cases h : b < a <;> simp [mapSet, mapGet, hb, h]
  | cons e t ih =>
    obtain ⟨k, v⟩ := e
    by_cases h : a < k
    · by_cases h2 : b < a
      · have h3 : b ≠ k := by omega
        have h4 : b < k := by omega
        simp [mapSet, mapGet, h, hb, h2, h3, h4]
      · simp [mapSet, mapGet, h, hb, h2]
    · by_cases h' : a = k
      · subst h'; simp [mapSet, mapGet, hb]
      · simp [mapSet, mapGet, h, h', ih]

/-- Two numbers of the same width are different exactly as their values are. -/
theorem toNat_ne {w : Nat} {a b : BitVec w} (h : a ≠ b) : a.toNat ≠ b.toNat := fun e => h (BitVec.eq_of_toNat_eq e)


@[simp] theorem State.core_setCore_same (s : State) (c : CoreId) (x : Core) : (s.setCore c x).core c = x := by
  simp [State.core, State.setCore, mapGet_mapSet_same]

theorem State.core_setCore_other (s : State) (c j : CoreId) (x : Core) (h : j ≠ c) : (s.setCore c x).core j = s.core j := by
  simp [State.core, State.setCore, mapGet_mapSet_other _ _ _ _ (toNat_ne h)]

@[simp] theorem State.ctx_setCtx_same (s : State) (c : CtxId) (x : Ctx) : (s.setCtx c x).ctx c = x := by
  simp [State.ctx, State.setCtx, mapGet_mapSet_same]

theorem State.ctx_setCtx_other (s : State) (c j : CtxId) (x : Ctx) (h : j ≠ c) : (s.setCtx c x).ctx j = s.ctx j := by
  simp [State.ctx, State.setCtx, mapGet_mapSet_other _ _ _ _ (toNat_ne h)]

@[simp] theorem State.slot_setSlot_same (s : State) (n : SlotId) (x : Slot) : (s.setSlot n x).slot n = x := by
  simp [State.slot, State.setSlot, mapGet_mapSet_same]

theorem State.slot_setSlot_other (s : State) (n j : SlotId) (x : Slot) (h : j ≠ n) : (s.setSlot n x).slot j = s.slot j := by
  simp [State.slot, State.setSlot, mapGet_mapSet_other _ _ _ _ (toNat_ne h)]

@[simp] theorem State.pool_setPool_same (s : State) (p : BitVec 4) (x : Pool) : (s.setPool p x).pool p = x := by
  simp [State.pool, State.setPool, mapGet_mapSet_same]

theorem State.pool_setPool_other (s : State) (p j : BitVec 4) (x : Pool) (h : j ≠ p) : (s.setPool p x).pool j = s.pool j := by
  simp [State.pool, State.setPool, mapGet_mapSet_other _ _ _ _ (toNat_ne h)]

@[simp] theorem State.kvCtx_setKvCtx_same (s : State) (c : CtxId) (x : KvCtx) : (s.setKvCtx c x).kvCtx c = x := by
  simp [State.kvCtx, State.setKvCtx, mapGet_mapSet_same]

theorem State.kvCtx_setKvCtx_other (s : State) (c j : CtxId) (x : KvCtx) (h : j ≠ c) : (s.setKvCtx c x).kvCtx j = s.kvCtx j := by
  simp [State.kvCtx, State.setKvCtx, mapGet_mapSet_other _ _ _ _ (toNat_ne h)]

@[simp] theorem State.port_setPort_same (s : State) (p : PortId) (x : Port) : (s.setPort p x).port p = x := by
  simp [State.port, State.setPort, mapGet_mapSet_same]

theorem State.port_setPort_other (s : State) (p j : PortId) (x : Port) (h : j ≠ p) : (s.setPort p x).port j = s.port j := by
  simp [State.port, State.setPort, mapGet_mapSet_other _ _ _ _ (toNat_ne h)]

@[simp] theorem State.wdt_setWdt_same (s : State) (c : BitVec 2) (x : Watchdog) : (s.setWdt c x).wdt c = x := by
  simp [State.wdt, State.setWdt, mapGet_mapSet_same]

theorem State.wdt_setWdt_other (s : State) (c j : BitVec 2) (x : Watchdog) (h : j ≠ c) : (s.setWdt c x).wdt j = s.wdt j := by
  simp [State.wdt, State.setWdt, mapGet_mapSet_other _ _ _ _ (toNat_ne h)]

@[simp] theorem State.core_modCore_same (s : State) (c : CoreId) (f : Core → Core) : (s.modCore c f).core c = f (s.core c) := by
  simp [State.modCore]

theorem State.core_modCore_other (s : State) (c j : CoreId) (f : Core → Core) (h : j ≠ c) : (s.modCore c f).core j = s.core j :=
  State.core_setCore_other s c j _ h

@[simp] theorem State.ctx_modCtx_same (s : State) (c : CtxId) (f : Ctx → Ctx) : (s.modCtx c f).ctx c = f (s.ctx c) := by
  simp [State.modCtx]

theorem State.ctx_modCtx_other (s : State) (c j : CtxId) (f : Ctx → Ctx) (h : j ≠ c) : (s.modCtx c f).ctx j = s.ctx j :=
  State.ctx_setCtx_other s c j _ h

@[simp] theorem State.slot_modSlot_same (s : State) (n : SlotId) (f : Slot → Slot) : (s.modSlot n f).slot n = f (s.slot n) := by
  simp [State.modSlot]

theorem State.slot_modSlot_other (s : State) (n j : SlotId) (f : Slot → Slot) (h : j ≠ n) : (s.modSlot n f).slot j = s.slot j :=
  State.slot_setSlot_other s n j _ h

@[simp] theorem State.port_modPort_same (s : State) (p : PortId) (f : Port → Port) : (s.modPort p f).port p = f (s.port p) := by
  simp [State.modPort]

theorem State.port_modPort_other (s : State) (p j : PortId) (f : Port → Port) (h : j ≠ p) : (s.modPort p f).port j = s.port j :=
  State.port_setPort_other s p j _ h

end Sys2Proof.Machine
end

