-- ==== Sys2Proof/Tests/Slice0.lean ====
section
/-! SUPPORT. The model's own tests: the check of ill-formed commands, small steps whose results are computed from the spec by
hand, and for every statement of Certificates/Slice0 a state and operands that meet the hypotheses of each of its clauses
(`witness_<statement>`). -/
namespace Sys2Proof.Tests
open Sys2Proof.Machine

/-! A small running module: context 0 runs a thread at address 0 on core 0; page 0 is code, page 1 is data (Table 13.2). -/

/-- Level-1 entry 0 names the level-2 table at 0x1_0000; its entries name the pages at 2^34 and 2^34 + 2^21. -/
def tables : Mem := [(0, 1), (2, 1), (0x10000, 5), (0x10004, 4), (0x10008, 3), (0x1000A, 0x20), (0x1000C, 4)]

def seat0 : Seat := ⟨0, 0, 7, 0, 0, [], false, true, [], none⟩

def core0 : Core := { Core.reset with inService := true, seat := some 0, seats := #v[some seat0, none, none, none], clean := [0, 1, 2, 3] }

def ctx0 : Ctx := { Ctx.reset with state := .active, cores := 1, sliceNs := 100000, ltBase := 0x400000000, ltLog2 := 4, rcBase := 0x400010000, rcLog2 := 4,
                                   maxt := 4, threads := 1, arqKib := 64, card := some Card.reset }

/-- The running module with core 0 as given. -/
def withCore (k : Core) : State :=
  { State.reset with life := .running, resetN := true, pstate := .active, cores := [(0, k)], ctxs := [(0, ctx0)], ttbase := [(0, 1)], mem := tables,
                     ttCtxBase := 0x40000, log := { Log.reset with base := 0x20000, en := true } }

def running : State := withCore core0

/-- The next state, or the state itself where a command stops. -/
def after (s : State) (i : Instr) : State := match exec i s with | .next t => t | _ => s

/-- Core 0 with a thread changed. -/
def withTh (f : Thread → Thread) : State := withCore { core0 with th := f core0.th }

/-- A state executes its next word when it may issue, its fetch is good and its guard holds. -/
theorem executesOf {s : State} {c : CoreId} {g : BitVec 4} {n : Nat} (x : CtxId) (h : canIssue s c = true) (hx : (s.core c).runCtx = some x)
    (hf : fetchBad s x (s.core c).th.pc n = none ∧ fetchWaits s x (s.core c).th.pc n = none) (hg : g ≠ 8) (hp : guardOn (s.core c).th g = true) : Executes s c g n :=
  ⟨⟨h, x, hx, hf⟩, hg, hp⟩

theorem fetchesOf {s : State} {c : CoreId} {n : Nat} (x : CtxId) (h : canIssue s c = true) (hx : (s.core c).runCtx = some x)
    (hf : fetchBad s x (s.core c).th.pc n = none ∧ fetchWaits s x (s.core c).th.pc n = none) : Fetches s c n := ⟨h, x, hx, hf⟩

def f0 : F0 := ⟨0, 0, 0, 0, 0, 0, 0, 0⟩
def f1 : F1 := ⟨0, 0, 0, 0, 0, 0⟩
def f2 : F2 := ⟨0, 0, 0, 0, 0, 0, 0, 0, 0, 0⟩
def f3 : F3 := ⟨f2, 0, 0, 0, 0, 0, 0, 0⟩

/-- Core 0 executes a word under guard 0, whatever its registers hold, while its pc is 0. -/
theorem executes_running (n : Nat) (h : fetchBad running 0 0 n = none ∧ fetchWaits running 0 0 n = none) : Executes running 0 0 n :=
  executesOf 0 (by decide) (by decide) h (by decide) (by decide)

/-! Scalar instructions. -/

theorem witness_ArithmeticResults :
    Executes running 0 (aluGuard (.reg f0)) 1 ∧ aluReserved (.reg f0) false = false ∧
    Executes running 0 (aluGuard (.imm { f1 with imm := 63, d := 31 })) 1 ∧ aluReserved (.imm { f1 with imm := 63, d := 31 }) true = false :=
  ⟨executes_running 1 (by decide), by decide, executes_running 1 (by decide), by decide⟩

theorem witness_CompareSelectConstants :
    (Executes running 0 (aluGuard (.reg { f0 with d := 7, sub := 5 })) 1 ∧ aluReserved (.reg { f0 with d := 7, sub := 5 }) false = false ∧
      (aluD (.reg { f0 with d := 7, sub := 5 })).toNat < 8 ∧ aluSub (.reg { f0 with d := 7, sub := 5 }) < 6) ∧
    (Executes running 0 ({ f0 with x := 7 } : F0).guard 1 ∧ (7 : BitVec 20).toNat < 8) ∧
    Executes running 0 ({ f1 with imm := 0xFFFFFFFF } : F1).guard 1 :=
  ⟨⟨executes_running 1 (by decide), by decide, by decide, by decide⟩, ⟨executes_running 1 (by decide), by decide⟩, executes_running 1 (by decide)⟩

theorem witness_BranchTargets :
    (Executes running 0 f1.guard 1 ∧ f1.kt = 0 ∧ f1.d = 0 ∧ f1.a = 0) ∧
    (let f : F1 := { f1 with imm := 0xFFFFFFF8 }
     ((running.core 0).th.s f.a + BitVec.ofInt 64 f.imm.toInt).toNat % 8 = 0 ∧ f.d = 0) ∧ ({ f1 with sub := 5 } : F1).sub.toNat < 6 ∧
    (Executes running 0 f0.guard 1 ∧ ((running.core 0).th.s f0.a).toNat % 8 = 0) :=
  ⟨⟨executes_running 1 (by decide), by decide⟩, by decide, by decide, executes_running 1 (by decide), by decide⟩

theorem witness_SpecialRegisterAccess :
    let listed (i : Nat) : Prop := i < 0x00A ∨ (0x010 ≤ i ∧ i < 0x048) ∨ (0x080 ≤ i ∧ i < 0x0C0)
    Executes running 0 f1.guard 1 ∧ (f1.sub = 0 ∧ f1.kt = 0 ∧ f1.a = 0 ∧ f1.d = 0) ∧ (running.core 0).running = some seat0 ∧
    (∀ i ∈ [0x000, 0x001, 0x009, 0x010, 0x01F, 0x020, 0x02F, 0x030, 0x03F, 0x040, 0x047, 0x080, 0x0BF], listed i) ∧
    Fetches running 0 1 ∧ (∀ i ∈ [0x00A, 0x00F, 0x048, 0x07F, 0x0C0, 0xFFF], ¬ listed i) ∧ 2 ^ 12 ≤ (0x1000 : BitVec 32).toNat ∧
    ({ f1 with a := 1 } : F1).a ≠ 0 ∧ ({ f1 with d := 1 } : F1).d ≠ 0 :=
  ⟨executes_running 1 (by decide), by decide, by decide, by decide, (executes_running 1 (by decide)).1, by decide, by decide, by decide, by decide⟩

theorem witness_ScratchpadScalars :
    Executes running 0 f1.guard 1 ∧
    (let f : F1 := { f1 with sub := 7, imm := 0xF8 }
     let a := ((running.core 0).th.s f.a + BitVec.ofInt 64 f.imm.toInt).toNat
     a % 8 = 0 ∧ a < 2 ^ 23 ∧ f.sub.toNat < 8 ∧ setHas (running.core 0).clean (a / 64) = true) ∧
    (let f : F1 := { f1 with sub := 3, imm := 0x7FFFF8 }
     let a := ((running.core 0).th.s f.a + BitVec.ofInt 64 f.imm.toInt).toNat
     a % 8 = 0 ∧ a < 2 ^ 23 ∧ f.sub.toNat < 4 ∧ memWf (running.core 0).pad = true) :=
  ⟨executes_running 1 (by decide), by decide, by decide⟩

/-- An outstanding load of 8 bytes from page 1. -/
def load8 : Load := ⟨5, 8, false, none, 0x400200000, none, none⟩

def loading : State := withCore { core0 with hold := some (.load load8) }

def posted1 : Posted := ⟨none, 0x400200000, 4, 9, 0, none⟩
def posting : State := withCore { core0 with posted := [posted1] }

theorem witness_MainMemoryScalars :
    (Executes running 0 f1.guard 1 ∧ (let f : F1 := { f1 with sub := 7, imm := 0x3FFFF8 }
      (running.core 0).runCtx = some 0 ∧ f.sub.toNat < 8 ∧
      translate running 0 ((running.core 0).th.s f.a + BitVec.ofInt 64 f.imm.toInt) 8 .read = .ok (.main 0x4003FFFF8) ∧
      translate running 0 ((running.core 0).th.s f.a + BitVec.ofInt 64 f.imm.toInt) 8 .write = .ok (.main 0x4003FFFF8))) ∧
    (loading.up = true ∧ (loading.core 0).hold = some (.load load8) ∧ load8.chip = none ∧ load8.wrec = none ∧
      (loading.core 0).posted.any (fun q => q.overlaps load8) = false ∧ channelFor loading 0 (channelOf load8.off) = true ∧
      (loading.core 0).runCtx.all (fun x => poolAllows loading x load8.off false) = true ∧ readPoison loading load8.off load8.width = false) ∧
    (posting.up = true ∧ (posting.core 0).posted[0]? = some posted1 ∧ posted1.chip = none ∧ posted1.tag = none ∧
      channelFor posting 0 (channelOf posted1.off) = true ∧ storeAllowed posting (posting.core 0) posted1 = true ∧
      (posting.core 0).posted.take 0 = [] ∧ memWf posting.mem = true) :=
  ⟨⟨executes_running 1 (by decide), by decide, by decide, rfl, rfl⟩, by decide, by decide⟩

def holding (h : Hold) : State := withCore { core0 with hold := some h }

theorem witness_WaitsAndReleases :
    Executes running 0 f1.guard 1 ∧ (f1.d = 0 ∧ f1.a = 0 ∧ f1.sub = 0 ∧ f1.kt = 0) ∧ (1023 : BitVec 32).toNat < 1024 ∧
    (1 ≤ 127 ∧ (127 : BitVec 32).toNat < 128) ∧ (7 : BitVec 5).toNat < 8 ∧
    (canHold (holding (.wait 15 0)) 0 = true ∧ ((holding (.wait 15 0)).core 0).hold = some (.wait 15 0) ∧ (((holding (.wait 15 0)).core 0).th.tok 15).toNat ≤ 0) ∧
    (canHold (holding (.fence 127)) 0 = true ∧ ((holding (.fence 127)).core 0).hold = some (.fence 127) ∧ fenceMet ((holding (.fence 127)).core 0) 127 = true) ∧
    (canHold (holding (.bellWait 7 0)) 0 = true ∧ ((holding (.bellWait 7 0)).core 0).hold = some (.bellWait 7 0) ∧ (0 : Word).toNat ≤ (holding (.bellWait 7 0)).bell) ∧
    Fetches running 0 1 ∧ 1024 ≤ (1024 : BitVec 32).toNat ∧ ({ f1 with d := 1 } : F1).d ≠ 0 ∧ 128 ≤ (128 : BitVec 32).toNat ∧ f1.imm.toNat = 0 :=
  ⟨executes_running 1 (by decide), by decide, by decide, by decide, by decide, by decide, by decide, by decide, (executes_running 1 (by decide)).1, by decide⟩

/-- Two threads of context 0 are seated on core 0. -/
def twoSeats : State := withCore { core0 with seats := #v[some seat0, some { seat0 with entry := 1, fresh := true }, none, none], lastLc := 0 }

theorem witness_ThreadEnding :
    (f1.d = 0 ∧ f1.a = 0 ∧ f1.sub = 0 ∧ f1.kt = 0 ∧ f1.imm = 0) ∧ Executes running 0 f1.guard 1 ∧ (running.core 0).seat = some 0 ∧
    chooseSeat (withThread running 0 ((running.core 0).th.past 1)) ((withThread running 0 ((running.core 0).th.past 1)).core 0) = some 0 ∧
    (Executes twoSeats 0 f1.guard 1 ∧
      chooseSeat (withThread twoSeats 0 ((twoSeats.core 0).th.past 1)) ((withThread twoSeats 0 ((twoSeats.core 0).th.past 1)).core 0) = some 1) ∧
    (let s := holding .halt
     canHold s 0 = true ∧ (s.core 0).hold = some .halt ∧ (s.core 0).seat = some 0 ∧ (s.core 0).running = some seat0 ∧ (s.core 0).th.openTally = 0 ∧
     (∀ r, (s.core 0).th.tok r = 0) ∧ (s.core 0).posted = [] ∧ (s.ctx 0).state = .active ∧ memWf s.mem = true ∧
     ctxRecord s 0 + 94 ≤ (s.ctx 0).ltBase + 64 * (seat0.entry.toNat % 2 ^ (s.ctx 0).ltLog2) + 60) ∧
    (8 : Nat) < ctxRecord running 0 + 80 :=
  ⟨by decide, executes_running 1 (by decide), by decide, by decide,
   ⟨executesOf 0 (by decide) (by decide) (by decide) (by decide) (by decide), by decide⟩, by decide, by decide⟩

theorem witness_TrapsAndReservedWords :
    ((running.core 0).running = some seat0 ∧ (running.ctx 0).state = .active ∧ logRoom running.log = true ∧ running.log.buffer = [] ∧
      memWf running.mem = true ∧ running.log.base + 64 * (running.log.prod.toNat % logSize running.log) + 64 ≤ ctxRecord running 0 + 80) ∧
    Executes running 0 f1.guard 1 ∧ (0xFFFF : BitVec 32).toNat < 2 ^ 16 ∧ Fetches running 0 1 ∧ ({ f1 with guard := 8 } : F1).guard = 8 ∧
    reservedOp 0x8000000000000000 = false ∧ reservedOp 0x80 = true :=
  ⟨by decide, executes_running 1 (by decide), by decide, (executes_running 1 (by decide)).1, rfl, by decide, by decide⟩

/-- Scratchpad word 1 holds a chain image of one stage: header byte 1, then VOP NEG on the value (Tables 9.1, 9.2). -/
def chained (image : List Byte) : State := withCore ({ core0 with th := { core0.th with sregs := core0.th.sregs.set 1 64 } }.padWrite 64 image)

theorem witness_GuardedOffSkips :
    let s := running
    Fetches s 0 1 ∧ guardOn (s.core 0).th 1 = false ∧ guardOn (s.core 0).th 9 = true ∧ aluReserved (.reg { f0 with guard := 1 }) true = false ∧
    Fetches s 0 (opWords (.f3 f3)) ∧ opReserved (s.core 0).th .crumbGet (.f3 { f3 with w1 := { f2 with guard := 1 } }) = false ∧
    opReserved (s.core 0).th .send (.f3 { f3 with w1 := { f2 with guard := 1 } }) = false :=
  ⟨(executes_running 1 (by decide)).1, by decide, by decide, by decide, (executes_running 2 (by decide)).1, by decide, by decide⟩

/-! Engine instructions. -/

theorem witness_ChainDefinition :
    let s := chained ([1, 0, 0, 0, 0, 0, 0, 0] ++ [2])
    Executes s 0 ({ f1 with a := 1, imm := 31 } : F1).guard 1 ∧ chainBad (s.core 0) ((s.core 0).th.s 1).toNat = none ∧ (31 : BitVec 32).toNat < 32 :=
  ⟨executesOf 0 (by decide) (by decide) (by decide) (by decide) (by decide), by decide⟩

/-- An operation may issue in the running module: the words it needs, and no bit set that its entry leaves unused. -/
theorem mayIssue_running (kind : Kind) (op : Op) (hf : fetchBad running 0 0 (opWords op) = none ∧ fetchWaits running 0 0 (opWords op) = none) (hg : opGuard op = 0)
    (hr : opReserved (running.core 0).th kind op = false) (hi : issueBad (running.core 0) kind op = none) (hm : mustWait (running.core 0) kind op = false) :
    MayIssue running 0 kind op := ⟨hg ▸ executes_running _ hf, hr, hi, hm⟩

def anArray : F2 := { f2 with eng := 3 }

theorem witness_EngineIssue :
    (∀ k ∈ [Kind.aadd, .amax], MayIssue running 0 k (.f0 f0)) ∧ MayIssue running 0 .circSet (.f1 f1) ∧ MayIssue running 0 .circAdv (.f1 { f1 with imm := 0x1000 }) ∧
    (∀ k ∈ [Kind.crumbGet, .bulkGet, .bulkPut, .send, .rsum, .bcast, .kvAlloc, .kvFree, .ptEdit, .pfxLookup, .pfxInsert, .pfxRelease, .tallyClose, .norm,
      .attnFwd, .attnBwd, .sortb], MayIssue running 0 k (.f3 f3)) ∧
    (∀ k ∈ [Kind.mm, .pralineSpill], MayIssue running 0 k (.f2 anArray)) ∧ MayIssue running 0 .mmAcc (.f3 { f3 with w1 := anArray }) ∧
    (∀ k ∈ [Kind.vop, .softmax, .convert, .transpose], MayIssue running 0 k (.f2 f2)) := by
  refine ⟨fun k h => mayIssue_running k _ (by decide) (by decide) ?_ ?_ ?_, mayIssue_running _ _ (by decide) (by decide) (by decide) (by decide) (by decide),
    mayIssue_running _ _ (by decide) (by decide) (by decide) (by decide) (by decide), fun k h => mayIssue_running k _ (by decide) (by decide) ?_ ?_ ?_,
    fun k h => mayIssue_running k _ (by decide) (by decide) ?_ ?_ ?_, mayIssue_running _ _ (by decide) (by decide) (by decide) (by decide) (by decide),
    fun k h => mayIssue_running k _ (by decide) (by decide) ?_ ?_ ?_⟩ <;> revert k <;> decide

/-- An instruction of a kind in a phase, with no operand set. -/
def itemIn (kind : Kind) (phase : Phase) : Item := { blankItem core0 kind 0 with phase := phase }

/-- Core 0 with instructions in one queue. -/
def queued (e : Engine) (is : List Item) : State := withCore (core0.setQueue e is)

/-- The crumb unit's queue of 8 is full, and the thread is held for it; then it has room. -/
def crowded : State := queued .crumb (List.replicate 8 (itemIn .circAdv .queued))

theorem witness_IssueHoldsAndResumes :
    (let op : Op := .f1 { f1 with imm := 0x10 }
     Executes crowded 0 (opGuard op) (opWords op) ∧ opReserved (crowded.core 0).th .circAdv op = false ∧ issueBad (crowded.core 0) .circAdv op = none ∧
      mustWait (crowded.core 0) .circAdv op = true) ∧
    (let op : Op := .f1 { f1 with imm := 0x10 }
     let s := holding (.issue .circAdv op)
     canHold s 0 = true ∧ (s.core 0).hold = some (.issue .circAdv op) ∧ issueBad (s.core 0) .circAdv op = none ∧
      mustWait (s.core 0) .circAdv op = false ∧ opReserved (s.core 0).th .circAdv op = false) :=
  ⟨⟨executesOf 0 (by decide) (by decide) (by decide) (by decide) (by decide), by decide⟩, by decide⟩

/-- A tile descriptor: base and stride in words, rows, columns, format code (Table 6.2). -/
def tile (base stride rows cols fmt : Nat) : BitVec 256 :=
  BitVec.ofNat 256 (base + stride * 2 ^ 17 + rows * 2 ^ 64 + cols * 2 ^ 96 + fmt * 2 ^ 128)

/-- A descriptor that names circular region 1. -/
def inRegion (d : BitVec 256) : BitVec 256 := d ||| BitVec.ofNat 256 (2 ^ 136 + 2 ^ 140)

/-- Region 1: two slots of one word each from word 8. -/
def region1 (tail claim : BitVec 16) : Circ := ⟨8, 1, 2, true, 0, tail, claim, false, []⟩

/-- Core 0 with region 1 as given and one SFU instruction. -/
def regioned (r : Circ) : Core := { core0 with th := core0.th.setCirc 1 r }
def sfuAt (r : Circ) (i : Item) : State := withCore ((regioned r).setQueue .sfu [i])

def convertTo (d : BitVec 256) (p : Phase) : Item := { itemIn .convert p with tdl := tile 0 1 1 4 0, tdo := d }

theorem mayStart_of {s : State} {c : CoreId} {x : CtxId} {i : Item} {n : Nat} (h1 : headCheck s (s.core c) x i = .ok n) (h2 : n ≤ 2 ^ 20)
    (h0 : scheduleEarly (s.core c) (fixHead (s.core c) n i) = none) (h3 : headWait s (s.core c) x (fixHead (s.core c) n i) = none) (h4 : isBarrier i.kind = false)
    (h5 : editSlot s (s.core c) x (fixHead (s.core c) n i) = none)
    (h6 : scheduleBad (s.core c) { (fixHead (s.core c) n i) with claims := claimsOf (s.core c) (fixHead (s.core c) n i), reads := readsOf (s.core c) (fixHead (s.core c) n i) } = none) : MayStart s c x i n := ⟨h1, h2, h0, h3, h4, h5, h6⟩

theorem witness_EngineStarts :
    (let i := itemIn .circAdv .queued
     let s := queued .crumb [i]
     engineActs s 0 = true ∧ (s.core 0).runCtx = some 0 ∧ headOf (s.core 0) .crumb = some i ∧ MayStart s 0 0 i 1) ∧
    (let i : Item := { itemIn .tallyClose (.waiting .tally) with tdo := tile 2 1 1 2 0 }
     let s := queued .sfu [i]
     engineActs s 0 = true ∧ headOf (s.core 0) .sfu = some i ∧ MayStart s 0 0 i 12 ∧ tallyWait (s.core 0) i = false) ∧
    (let i := { convertTo (tile 2 1 1 4 0) (.waiting (.circEmpty 1)) with tdl := inRegion (tile 0 1 1 4 0) }
     let s := sfuAt (region1 1 1) i
     engineActs s 0 = true ∧ headOf (s.core 0) .sfu = some i ∧ MayStart s 0 0 i 5 ∧
      allEngines.find? (fun g => (headOf (s.core 0) g).any (fun j =>
        j.phase == .waiting (.circEmpty 1) && regionWait (s.core 0) j != some (.circEmpty 1))) = some .sfu) ∧
    (let i := convertTo (inRegion (tile 0 1 1 4 0)) (.waiting (.circFull 1))
     let s := withCore { (regioned (region1 1 1)).setQueue .sfu [i] with line := [(1, some 0)] }
     engineActs s 0 = true ∧ headOf (s.core 0) .sfu = some i ∧ MayStart s 0 0 i 5 ∧ ((s.core 0).th.circ 1).full = false ∧
      (s.core 0).firstInLine 1 = some (some i.serial) ∧ engineOfHead (s.core 0) i.serial = some .sfu) ∧
    (let i := itemIn .ptEdit (.waiting .commit)
     i.phase = .waiting .commit) ∧
    (∀ kind ∈ [Kind.aadd, .amax, .circSet, .circAdv, .crumbGet, .bulkGet, .bulkPut, .send, .rsum, .bcast, .kvAlloc, .kvFree, .ptEdit, .pfxLookup,
      .pfxInsert, .pfxRelease, .mm, .mmAcc, .pralineSpill, .vop, .softmax, .convert, .transpose, .tallyClose, .norm, .attnFwd, .attnBwd, .sortb],
      Runs (queued .dma [itemIn kind .started]) 0 .dma 0 kind 0 (itemIn kind .started)) := by
  refine ⟨⟨by decide, by decide, by decide, mayStart_of rfl (by decide) (by decide) (by decide) (by decide) (by decide) (by decide)⟩,
    ⟨by decide, by decide, mayStart_of rfl (by decide) (by decide) (by decide) (by decide) (by decide) (by decide), by decide⟩,
    ⟨by decide, by decide, mayStart_of rfl (by decide) (by decide) (by decide) (by decide) (by decide) (by decide), by decide⟩,
    ⟨by decide, by decide, mayStart_of rfl (by decide) (by decide) (by decide) (by decide) (by decide) (by decide), by decide⟩,
    rfl, by unfold Runs; decide⟩

theorem witness_InstructionCompletion :
    (let i := itemIn .crumbGet .performed
     let k := (queued .crumb [i]).core 0
     (queued .crumb [i]).up = true ∧ k.inService = true ∧ k.queue .crumb = [i] ∧ itemDone i = true ∧ isPair i = false ∧
      (∀ g ∈ allEngines, g ≠ .crumb → k.queue g = []) ∧ (∀ g ∈ allEngines, ∀ j ∈ k.queue g, j.phase ≠ .finished) ∧ isBarrier i.kind = false) ∧
    (let i := itemIn .attnFwd .performed
     let k := (queued .attn [i]).core 0
     k.queue .attn = [i] ∧ itemDone i = true ∧ isPair i = false ∧ listChanged k i = false ∧ List.zip (planOf i i.chain) i.snaps = []) ∧
    (let i : Item := { itemIn .mm .performed with eng := 3 }
     let k := (withCore ((core0.setQueue .arrayA [i]).setQueue .arrayB [{ i with twin := true }])).core 0
     k.queue .arrayA = [i] ∧ k.queue .arrayB = [{ i with twin := true }] ∧ itemDone i = true ∧ isPair i = true ∧
      (∀ g ∈ allEngines, g ≠ .arrayA → g ≠ .arrayB → k.queue g = []) ∧ ∀ g ∈ allEngines, ∀ j ∈ k.queue g, j.phase ≠ .finished) := by decide

theorem witness_CircularRegions :
    (let r := region1 1 2
     (2 : BitVec 16) ≠ r.tail ∧ r.tail ∉ r.filled ∧ (1 : BitVec 16) = r.tail ∧ r.filled = [] ∧ r.full = true) ∧
    (let r : Circ := { region1 0xFFFF 1 with filled := [0] }
     (0xFFFF : BitVec 16) = r.tail ∧ r.filled = [r.tail + 1]) ∧ 65535 < 2 ^ 16 := by decide

def waiter : Passer := ⟨some (0, 0), true⟩

/-- Two regions of two one-word slots, at words 8 and 9, share word 9 (R110). -/
theorem test_shared_regions :
    let t := (Thread.reset.setCirc 1 { Circ.reset with baseW := 8, slotW := 1, slots := 2, en := true }).setCirc 2
      { Circ.reset with baseW := 9, slotW := 1, slots := 2, en := true }
    t.sharedSpans 1 512 128 = [(576, 64)] ∧ t.sharedSpans 1 512 64 = [] ∧ t.sharedSpans 2 576 128 = [(576, 64)] := by decide

theorem witness_FillsAndPasses :
    (let i : Item := { itemIn .convert .performed with claims := [(1, 0)] }
     let s := sfuAt (region1 0 1) i
     s.up = true ∧ (s.core 0).inService = true ∧ ((allEngines.map (s.core 0).queue).flatten).find? (fun j => j.phase == .performed && j.out == 0 && j.claims.contains (1, 0)) = some i ∧
      (s.core 0).th.sharedSpans 1 (((s.core 0).th.circ 1).slotAt 0) (64 * ((s.core 0).th.circ 1).slotW.toNat) = []) ∧
    (let i := itemIn .ptEdit (.waiting (.hall 5))
     let s : State := { (queued .dma [i]) with slots := [(5, { Slot.reset with state := .live, waiting := [waiter] })] }
     s.up = true ∧ (s.slot 5).waiting = [waiter] ∧ (s.slot 5).holders = [] ∧ (s.core 0).item i.serial = some i ∧ (s.core 0).runCtx = some 0 ∧
      isArrayKind i.kind = false ∧ outsOf i = [] ∧ insOf i = []) := by decide

theorem witness_PralineExactSum :
    let one : Common := (toCommon (decodeVal .fp32 0x3F800000 none)).1;
    -2047 ≤ (-2047 : Int) ∧ (2047 : Int) ≤ 2047 ∧ ([(one, one)] : List (Common × Common)).length ≤ 65536 := by decide

/-! What the engine instructions do. -/

/-- An access that lies in the main tier of this module. -/
def inMain (s : State) (x : CtxId) (want : Want) (a : Word × Nat) : Bool :=
  match translate s x a.1 a.2 want with
  | .ok (.main _) => true
  | _ => false

theorem allMain_of {s : State} {x : CtxId} {want : Want} {as : List (Word × Nat)} (h : as.all (inMain s x want) = true) : AllMain s x want as := by
  intro a m
  have := List.all_eq_true.mp h a m
  unfold inMain at this
  unfold mainOff
  split at this <;> simp_all

theorem witness_CrumbUnitRequests :
    (let i : Item := { itemIn .aadd .started with s1 := 0x200000 }
     let s := queued .crumb [i]
     headAtomic s (s.core 0) 0 i = .ok 1 ∧ AllMain s 0 .write ((atomicPieces i).map (fun p => (gAdd i.s1 p.1, p.2))) ∧ atomicPoison s 0 i = false ∧
      Runs s 0 .crumb 0 .aadd 0 i) ∧
    (let i : Item := { itemIn .amax .started with s1 := 0x200000 }
     let s := queued .crumb [i]
     headAtomic s (s.core 0) 0 i = .ok 1 ∧ Runs s 0 .crumb 0 .amax 0 i) ∧
    (let i : Item := { itemIn .crumbGet .started with s2 := 1, s3 := 0x200000, s4 := 64 }
     let s := queued .crumb [i]
     headCrumbGet s (s.core 0) 0 i = .ok 1 ∧ AllMain s 0 .read ((crumbAddrs (s.core 0) i).map (fun g => (g, 32))) ∧ Runs s 0 .crumb 0 .crumbGet 0 i) :=
  ⟨⟨rfl, allMain_of (by decide), by decide, by decide, by decide, by decide, by decide, by decide, by decide⟩,
   ⟨rfl, by decide, by decide, by decide, by decide, by decide, by decide⟩,
   ⟨rfl, allMain_of (by decide), by decide, by decide, by decide, by decide, by decide, by decide⟩⟩

theorem witness_CircularInstructions :
    (let i : Item := { itemIn .circSet .started with ext := 1, s1 := 0x20200020008 }
     let s := withCore ((regioned (region1 1 1)).setQueue .crumb [i])
     Runs s 0 .crumb 0 .circSet 0 i ∧ ((s.core 0).th.circ (circRegion i)).claim = ((s.core 0).th.circ (circRegion i)).tail ∧
      slotsInUse (s.core 0) i = [] ∧ newShared (s.core 0).th i = [] ∧ memWf (s.core 0).pad = true) ∧
    (let i : Item := { itemIn .circAdv .started with ext := 0x11 }
     let s := withCore ((regioned (region1 1 1)).setQueue .crumb [i])
     let r := (s.core 0).th.circ (circRegion i)
     Runs s 0 .crumb 0 .circAdv 0 i ∧ r.en = true ∧ r.broken = false ∧ i.ext / 16 % 512 ≤ (r.tail - r.head).toNat) := by
  unfold Runs; decide

theorem witness_BulkTransfers :
    (let i : Item := { itemIn .bulkGet .started with s1 := 0x200000, tdo := tile 0 1 1 16 0 }
     let s := queued .dma [i]
     headBulk s (s.core 0) 0 i = .ok 1 ∧ Runs s 0 .dma 0 .bulkGet 0 i ∧
      AllMain s 0 .read ((allGranules i (i.area (s.core 0).th i.tdo true)).map (fun m => (m.glob, m.len)))) ∧
    (let i : Item := { itemIn .bulkPut .started with s1 := 0x200000, tdl := tile 0 1 1 16 0 }
     let s := queued .dma [i]
     headBulk s (s.core 0) 0 i = .ok 1 ∧ Runs s 0 .dma 0 .bulkPut 0 i ∧
      AllMain s 0 .write ((allGranules i (i.area (s.core 0).th i.tdl false)).map (fun m => (m.glob, m.len))) ∧
      movePoison (s.core 0) (movesOf i (i.area (s.core 0).th i.tdl false)) = false ∧ (s.core 0).popAll (popsOf [i.tdl]) = some (s.core 0)) :=
  ⟨⟨rfl, by unfold Runs; decide, allMain_of (by decide)⟩,
   ⟨rfl, by unfold Runs; decide, allMain_of (by decide), by decide, by decide⟩⟩

/-- The sender's own chip 0, and a grant to context 0 of chip 0. -/
def granting (s : State) : State := { s with chipValid := true, ctxs := [(0, { ctx0 with peers := [0x8000000000000000] })] }

theorem witness_SendsAndReductions :
    (let i : Item := { itemIn .send .started with tdl := tile 0 1 1 16 0 }
     let s := queued .dma [i]
     let a := i.area (s.core 0).th i.tdl false
     (s.core 0).padPoison a.base a.bytes = false ∧ (s.core 0).popAll (popsOf [i.tdl]) = some (s.core 0) ∧ Runs s 0 .dma 0 .send 0 i ∧
      destOk s (s.core 0) 0 i.s1 = true ∧ destReached s 0 i.s1 = true) ∧
    (let i : Item := { itemIn .bcast .started with tdl := tile 0 1 1 16 0, s1 := 64, s2 := 1 }
     let s := queued .dma [i]
     headBcast s (s.core 0) 0 i = .ok 1 ∧ Runs s 0 .dma 0 .bcast 0 i ∧ (bcastList (s.core 0) i).all (destReached s 0) = true) ∧
    (∀ n ∈ [(0 : BitVec 5), 2],
      let i : Item := { itemIn .rsum .started with tdl := tile 0 1 1 1 0xD, s1 := 0x200000, s2 := 0x200040, n2 := n }
      let s := queued .dma [i]
      let a := i.area (s.core 0).th i.tdl false
      (s.core 0).tilePoison a = false ∧ (s.core 0).popAll (popsOf [i.tdl]) = some (s.core 0) ∧ Runs s 0 .dma 0 .rsum 0 i ∧ rsumPieces i 16 ≠ [] ∧
        ((rsumPieces i 16).map (fun p => (gAdd i.s1 p.1, p.2))).all (inMain s 0 .write) = true) ∧
    (let i : Item := { itemIn .rsum .started with tdl := tile 0 1 1 1 0xD, s1 := 0x200000, s2 := 0x200040, n2 := 2 }
     headRsum (queued .dma [i]) ((queued .dma [i]).core 0) 0 i = .ok 1) ∧
    (let i : Item := { itemIn .rsum (.held .link) with s2 := 0x200040 }
     let s := queued .dma [i]
     s.up = true ∧ (s.core 0).runCtx = some 0 ∧ ((s.core 0).queue .dma)[0]? = some i ∧ i.out = 0 ∧ inMain s 0 .write (i.s2, 8) = true) := by
  refine ⟨by unfold Runs; decide, ⟨rfl, by unfold Runs; decide, rfl⟩, by unfold Runs; decide, rfl, by decide⟩

/-- Slot 5 belongs to context 0: four blocks, its tables at 0x50000, in a pool of one stream. -/
def slot5 : Slot := { Slot.reset with state := .live, cap := 4, pt := 0x50000 }
def withSlot (s : State) : State := { s with slots := [(5, slot5)], pools := [(0, { Pool.reset with ns := 1 })] }

theorem witness_KvInstructions :
    (let i : Item := { itemIn .kvAlloc .started with s1 := 5, s3 := 0x200000, ext := 1 }
     let s := withSlot (queued .dma [i])
     slotFor s 0 i.s1 = some 5 ∧ resultPlace s 0 i = .ok (some (none, 0x400200000)) ∧ allocatorIn s = true ∧ Runs s 0 .dma 0 .kvAlloc 0 i) ∧
    (let i : Item := { itemIn .kvFree .started with s1 := 5 }
     let s := withSlot (queued .dma [i])
     slotFor s 0 i.s1 = some 5 ∧ resultPlace s 0 i = .ok none ∧ allocatorIn s = true ∧ Runs s 0 .dma 0 .kvFree 0 i) ∧
    (let i : Item := { itemIn .ptEdit .started with s1 := 5, s2 := 3, ext := 1 }
     let s := withSlot (queued .dma [i])
     slotFor s 0 i.s1 = some 5 ∧ Runs s 0 .dma 0 .ptEdit 0 i ∧ s.kvCommitting = none ∧ editOk s (editOf 5 i) = true ∧ i.ext.testBit 1 = false ∧
      memWf s.mem = true) := by
  refine ⟨⟨by decide, rfl, by decide, by unfold Runs; decide⟩, ⟨by decide, rfl, by decide, by unfold Runs; decide⟩, by unfold Runs; decide⟩

/-- A request structure at scratch 0: tokens at 64, one token, slot 5 (Table 8.7). -/
def pfxPad : Mem := [(0, 64), (8, 1), (32, 5)]
def withPad (m : Mem) (is : List Item) : State := withCore ({ core0 with pad := m }.setQueue .dma is)

/-- Core 0 runs a thread of context 1. -/
def ofCtx1 (k : Core) : State :=
  { withCore { k with seats := #v[some { seat0 with ctx := 1 }, none, none, none] } with ctxs := [(0, ctx0), (1, ctx0)] }

theorem witness_PrefixInstructions :
    (∀ kind ∈ [Kind.pfxLookup, .pfxInsert],
      let i := itemIn kind .started
      let s := withSlot (withPad pfxPad [i])
      s.kvCommitting = none ∧ indexIn s 0 = true ∧ Runs s 0 .dma 0 kind 0 i) ∧
    (let i := itemIn .pfxInsert .started
     let s := withSlot (withPad pfxPad [i])
     headPfx s (s.core 0) 0 i = .ok 1) ∧
    overlap (pfxAt { core0 with pad := pfxPad } 0).tokens (4 * (pfxAt { core0 with pad := pfxPad } 0).ntok) 40 24 = false ∧
    (let i : Item := { itemIn .pfxRelease .started with s2 := 1, s3 := 64 }
     let s := ofCtx1 (core0.setQueue .dma [i])
     s.kvCommitting = none ∧ indexIn s 0 = true ∧ Runs s 0 .dma 0 .pfxRelease 1 i ∧ headRelease (s.core 0) 1 i = .ok 1 ∧
      overlap i.s1.toNat (16 * i.s2.toNat) i.s3.toNat 4 = false) := by
  refine ⟨by unfold Runs; decide, rfl, by decide, by decide, by decide, by unfold Runs; decide, rfl, by decide⟩

/-- An instruction on three small tiles: 1 by 4 by 4 of BF16 into one word. -/
def small (kind : Kind) (out : BitVec 256) : Item := { itemIn kind .started with tdl := tile 0 1 1 4 1, tdr := tile 1 1 1 4 1, tdo := out, td3 := tile 3 1 1 1 0xD, eng := 1 }

/-- The sources of a tile instruction are clean, its output lies apart from them, and no descriptor pops. -/
def tileReady (s : State) (i : Item) (share : Bool) (ins : List (BitVec 256)) (extra : List (Nat × Nat)) : Bool :=
  let k := s.core 0
  let o := i.area k.th i.tdo true
  !insPoison k i ins && ins.all (fun d => !badOverlap share o (i.area k.th d false)) && !spansMeet extra o.spans && decide (k.popAll (popsOf ins) = some k)

theorem witness_TileInstructions :
    (∀ kind ∈ [Kind.mm, .mmAcc, .pralineSpill],
      let i := small kind (tile 2 1 1 1 1)
      let s := queued .arrayA [i]
      Runs s 0 .arrayA 0 kind 0 i ∧ arrayPoison (s.core 0) i = false ∧ (s.core 0).popAll (popsOf (arrayIns i)) = some (s.core 0) ∧
        (let l := i.area (s.core 0).th i.tdl false
         spansMeet (chainReads (s.core 0) i l.rows (tileOf i.tdr).rows l.cols) (regionSpans (s.core 0).th) = false ∧
          spansMeet (chainTallies i l.rows) (regionSpans (s.core 0).th) = false)) ∧
    (∀ x ∈ [(Kind.vop, true), (.softmax, false), (.convert, true), (.transpose, false)],
      let i := small x.1 (tile 2 1 1 4 1)
      Runs (queued .sfu [i]) 0 .sfu 0 x.1 0 i ∧ tileReady (queued .sfu [i]) i x.2 [i.tdl, i.tdr] [] = true) ∧
    (∀ x ∈ [(Kind.tallyClose, false), (.norm, true)],
      let i : Item := { small x.1 (tile 2 1 1 2 1) with s1 := 192 }
      let s := queued .sfu [i]
      Runs s 0 .sfu 0 x.1 0 i ∧ (tallyBad (s.core 0) i 1).isSome = false ∧ tileReady s i x.2 (normIns i) [(192, 64)] = true) := by
  unfold Runs
  refine ⟨by decide, by decide, by decide⟩

theorem witness_TileFrames :
    memWf core0.pad = true ∧
    (∀ kind ∈ [Kind.mm, .mmAcc], ∃ n, headArray core0 (small kind (tile 2 1 1 1 1)) = .ok n) ∧
    (∃ n, headArray core0 (small .pralineSpill (tile 2 1 1 1 0xD)) = .ok n) ∧ (∃ n, headVop core0 (small .vop (tile 2 1 1 4 1)) = .ok n) ∧
    (∃ n, headSoftmax core0 (small .softmax (tile 2 1 1 4 1)) = .ok n) ∧ (∃ n, headConvert core0 (small .convert (tile 2 1 1 4 1)) = .ok n) ∧
    (∃ n, headTranspose core0 (small .transpose (tile 2 1 4 1 1)) = .ok n) ∧ (∃ n, headTallyClose core0 (small .tallyClose (tile 2 1 1 2 1)) = .ok n) ∧
    (∃ n, headNorm core0 (small .norm (tile 2 1 1 4 1)) = .ok n) := by
  refine ⟨by decide, ?_, ⟨_, rfl⟩, ⟨_, rfl⟩, ⟨_, rfl⟩, ⟨_, rfl⟩, ⟨_, rfl⟩, ⟨_, rfl⟩, ⟨_, rfl⟩⟩
  intro kind h
  rcases List.mem_cons.mp h with rfl | h
  · exact ⟨_, rfl⟩
  · rcases List.mem_cons.mp h with rfl | h
    · exact ⟨_, rfl⟩
    · cases h

theorem witness_SpillRecords :
    let i := small .pralineSpill (tile 2 1 1 1 0xD)
    memWf core0.pad = true ∧ i.kind = .pralineSpill ∧ i.chain = [] ∧ i.sub % 2 = 0 ∧ (∃ n, headArray core0 i = .ok n) ∧
      0 < (i.area core0.th i.tdl false).rows ∧ 0 < (i.area core0.th i.tdr false).rows :=
  ⟨by decide, by decide, by decide, by decide, ⟨_, rfl⟩, by decide, by decide⟩

theorem witness_AttentionInstructions :
    (let i := itemIn .attnFwd .started
     let s := queued .attn [i]
     Runs s 0 .attn 0 .attnFwd 0 i ∧ attnPoison (s.core 0) i = false ∧ (s.core 0).popAll (popsOf [i.qTile]) = some (s.core 0) ∧ i.fwd = true) ∧
    (let i := itemIn .attnBwd .started
     let s := queued .attn [i]
     Runs s 0 .attn 0 .attnBwd 0 i ∧ attnPoison (s.core 0) i = false ∧ (s.core 0).popAll (popsOf [i.qTile]) = some (s.core 0) ∧ i.fwd = false ∧
      i.stored = false) ∧
    (let i := itemIn .attnBwd (.held .link)
     let s := queued .attn [i]
     s.up = true ∧ (s.core 0).runCtx = some 0 ∧ ((s.core 0).queue .attn)[0]? = some i ∧ attnPoison (s.core 0) i = false ∧ i.out = 0 ∧ i.fwd = false) ∧
    (let i : Item := { itemIn .attnBwd .started with sub := 1 }
     let s := queued .attn [i]
     Runs s 0 .attn 0 .attnBwd 0 i ∧ i.stored = true ∧ linesPoison s 0 i (planOf i i.chain) = false) := by
  unfold Runs; decide

theorem ok_of {e : Except Bad Nat} {n : Nat} (h : (match e with | .ok m => m == n | .error _ => false) = true) : e = .ok n := by
  cases e <;> simp_all

theorem witness_Sortb :
    let i : Item := { itemIn .sortb .started with s2 := 1, s3 := 64, s4 := 0xB000000000000000 }
    let s := withCore ({ core0 with pad := [(4, 1)] }.setQueue .attn [i])
    Runs s 0 .attn 0 .sortb 0 i ∧ headSortb (s.core 0) i = .ok 33 ∧ overlap i.s1.toNat (8 * sortCount i) i.s3.toNat (8 * sortCount i + 64) = false :=
  ⟨by unfold Runs; decide, ok_of (by decide), by decide⟩

/-! Memory tiers. -/

/-- A request of instruction 0 of core 0 waits for the first byte of page 1. -/
def asking (op : ReqOp) : Req := ⟨0, 0, 0, 0x400200000, none, 4, op, 0, false⟩
def network (op : ReqOp) : State := { queued .dma [{ itemIn .bulkGet .performed with out := 1 }] with net := [asking op] }

theorem witness_MemoryService :
    let ch := channelOf 0x400200000
    let at_ (op : ReqOp) : Prop :=
      let s := network op
      (s.core 0).inService = true ∧ (asking op).epoch = (dieEpoch s (coreDie 0)).setWidth 4 ∧ reqOffset s (asking op) = some 0x400200000 ∧
        memWf s.mem = true
    let reads (op : ReqOp) : Prop :=
      let s := network op
      reqAllowed s (asking op) 0x400200000 false = true ∧ readPoison s 0x400200000 4 = false ∧ (asking op).wrec.any (wrecUndefined s) = false ∧
        itemLive s 0 0 = true
    let w := ReqOp.write [1, 2, 3, 4]
    let a := ReqOp.piece 0 false [1, 2, 3, 4]
    (at_ w ∧ serves (network w) ch false = true ∧ nextReq (network w) ch true = some (asking w) ∧ reqAllowed (network w) (asking w) 0x400200000 true = true) ∧
    (at_ (.toPad 0) ∧ serves (network (.toPad 0)) ch false = true ∧ nextReq (network (.toPad 0)) ch true = some (asking (.toPad 0)) ∧ reads (.toPad 0)) ∧
    (let s := network (.crumb 0)
     let r := { asking (.crumb 0) with lane := true }
     let u : State := { s with net := [r] }
     serves u ch false = true ∧ nextReq (State.lanes ch u.net.length u) ch false = some r ∧ r.epoch = 0 ∧ reqOffset u r = some 0x400200000 ∧ reads (.crumb 0)) ∧
    (let s := network a
     let r := { asking a with lane := true }
     let u : State := { s with net := [r] }
     serves u ch true = true ∧ nextReq (State.lanes ch u.net.length u) ch false = some r ∧ formFull u ch 0x400200000 = false ∧
      reqAllowed u r 0x400200000 true = true ∧ readPoison u 0x400200000 4 = false) ∧
    (let s := network (.crumb 0)
     (mapGet s.laneLast 0).getD 7 < 8 ∧ (∀ r ∈ s.net, isBulk r = false ∧ r.lane = false ∧ formOf r.core = 0) ∧ s.net ≠ []) ∧
    2 ^ 32 - 1 < 2 ^ 32 ∧ 2 ^ 64 - 1 < 2 ^ 64 := by decide

theorem witness_MemoryEvents :
    running.up = true ∧ wrecOfPage running.hbmUncorr 0x2001 = none ∧ poolAt running.hbmUncorr 0x400200000 = none ∧
    (let s := { running with flushBusy := true }
     s.flushBusy = true ∧ inFlight s s.flushCtx = false ∧ s.flushAll = false) ∧ (0x200000 : Word).toNat % 2 ^ 21 = 0 := by decide

/-- Library page 3 in a state, and one record of page 3 in the main page at 2^34 (Table 13.9). -/
def libraryAt (st : LibState) (w : Byte) : State :=
  { running with libPages := [(3, ⟨st, true, []⟩)], wrecBase := 0x60000, wrecCount := 1, mem := tables ++ [(0x60000, 3), (0x60004, 0x20)] ++ (if w = 0 then [] else [(0x60006, w)]) }

def openPages : State := { running with libPages := [(0, ⟨.opened, true, []⟩), (1, ⟨.opened, true, []⟩), (2, ⟨.opened, true, []⟩)] }

theorem witness_LibraryCommands :
    (running.up = true ∧ running.libBusy = false ∧ ∀ q ∈ tabulate 3 (fun i => 983037 + i), (running.libPage q).state ≠ .opened ∧
      recordsOf running q (fun t => t == .migrating || t == .resident || t == .refetch) = []) ∧
    (∀ q ∈ tabulate 3 (fun i => 0 + i), (openPages.libPage q).state = .opened ∧ (openPages.libPage q).written = true) ∧ 983037 + 3 ≤ 983040 ∧ 983037 % 3 = 0 ∧
    (libSrcOk openPages = true ∧ openPages.poisoned (openPages.libSrc * 2 ^ 21) (2 ^ 21) = false ∧ (openPages.libPage 0).state = .opened) ∧
    0 + 1 ≤ (libraryAt .sealed 0).wrecCount ∧ (libraryAt .sealed 0).libBusy = false ∧
    (∀ x ∈ [(2, 0), (3, 0), (6, 0), (4, 0), (2, 3)],
      let s := { running with libBusy := true, libOp := x.1, libPendingResult := x.2, libCount := 1 }
      s.up = true ∧ s.libBusy = true ∧ libHeatWait s = false ∧ s.poisoned (s.libSrc * 2 ^ 21) (2 ^ 21) = false) := by decide

/-- A LOST page whose digest is that of the source page. -/
theorem witness_LibraryCommands_repair :
    let s : State := { running with libPages := [(0, ⟨.lost, true, pageDigest tables 0⟩)] }
    (s.libPage 0).state = .lost ∧ libSrcOk s = true ∧ s.libPage0 = 0 ∧ pageDigest s.mem s.libSrc = (s.libPage 0).digest := by
  refine ⟨by decide, by decide, by decide, ?_⟩
  simp only [State.libPage, mapGet, Option.getD, if_true]
  rfl

theorem witness_LibraryEvents :
    (∀ w ∈ [(1 : Byte), 3],
      let s := { libraryAt .sealed w with migs := [(0, true)] }
      s.up = true ∧ (0 : BitVec 20).toNat < s.wrecCount ∧ migReady s 0 = true ∧ memWf s.mem = true ∧ s.poisoned (wrecAt s 0) 16 = false) ∧
    (((libraryAt .sealed 0).wrec 0).state = .absent ∧ canMigrate (libraryAt .sealed 0) 0 = true) ∧
    (((libraryAt .lost 0).wrec 0).state = .absent ∧ canMigrate (libraryAt .lost 0) 0 = false) ∧
    (∀ w ∈ [(2 : Byte), 4],
      let s := { libraryAt .sealed w with dropWait := [0] }
      setHas s.dropWait 0 = true ∧ readsPending s 0 = false ∧ ((s.wrec 0).state = .resident ∨ (s.wrec 0).state = .libLost)) ∧
    (let s : State := { running with libPages := [(3, ⟨.sealed, true, []⟩), (4, ⟨.sealed, true, []⟩), (5, ⟨.sealed, true, []⟩)], parity := [1] }
     (s.libPage 3).state = .sealed ∧ canRebuild s 3 = true) := by decide

/-! KV allocator and contexts. -/

def pool0 : Pool := { Pool.reset with frame := 1, ns := 1, sets := 1, base := 0x500000000, srec := 0x70000, hdr := 0x71000 }
def pooled (en ready : Bool) (t : Slot) : State := { running with pools := [(0, { pool0 with en := en, ready := ready })], slots := [(5, t)], kvArg0 := 0x50000, kvArg1 := 4 }

theorem witness_KvSlotCommands :
    (pooled true true Slot.reset).up = true ∧ commandable (pooled true true Slot.reset) = true ∧
      allocatorIn (pooled true true Slot.reset) = true ∧ (pooled true true Slot.reset).kvBusy = false ∧ assignOk (pooled true true Slot.reset) 5 63 = true ∧
    (let s := pooled true true { slot5 with state := .idle, ctx := 1 }
     (s.slot 5).state = .idle ∧ heldBlocks s 5 = []) ∧
    (let s := pooled true true slot5
     (s.slot 5).state ≠ .unassigned ∧ editOk s { masterEdit s 5 with block := 3 } = true ∧ memWf s.mem = true) ∧
    (let s := { pooled true true slot5 with kvArg1 := 3 }
     editOk s (masterEdit s 5) = true ∧ editFree s (masterEdit s 5) = true) ∧
    (let s := { pooled true true { slot5 with length := 256, holders := [waiter] } with kvArg1 := 3 }
     editOk s (masterEdit s 5) = true ∧ editFree s (masterEdit s 5) = false ∧ passNow (s.slot 5) true = false) := by decide

theorem witness_KvBatchAndPools :
    (let s := { running with ctxs := [] }
     s.up = true ∧ allocatorIn s = true ∧ commandable s = true ∧ s.kvBusy = false ∧ s.memPoison = [] ∧ s.kvTrans = [] ∧ s.ctxs = []) ∧
    (let s := { pooled true true { slot5 with marks := 1 } with kvCommitting := some [] }
     s.kvCommitting = some [] ∧ (commitRun s []).hot = []) ∧
    (let s := pooled true true Slot.reset
     s.kvBusy = false ∧ (s.pool 0).en = true ∧ (0 : Word).toNat.testBit 0 = false ∧ freeCount s 0 + retiredCount s 0 = (s.pool 0).sets) ∧
    16 ≤ (16 : SlotId).toNat ∧ ((running.kvCtx 0).pool = 0 ∧ namesPool running 0 = true) ∧ (running.kvCtx 0).pool ≠ 1 ∧ running.kvCommitting = none ∧
    ((1 : Word).toNat.testBit 0 = true ∧ ((pooled false false Slot.reset).pool 0).en = false ∧ poolOk (pooled false false Slot.reset) 0 = true) ∧
    poolOk running 0 = false :=
  ⟨by decide, ⟨rfl, rfl⟩, by decide⟩

/-- No context names pool 1 of the running module. -/
theorem witness_KvBatchAndPools_unnamed : ¬ ∃ x, (running.kvCtx x).pool = 1 ∧ namesPool running x = true := by
  rintro ⟨x, h, -⟩
  exact absurd h (show (0 : BitVec 4) ≠ 1 by decide)

/-- A commit that takes back the only block of slot 5 while a reader marks the slot. -/
def hotCommit : State :=
  { pooled true true { slot5 with length := 64, marks := 1 } with
    mem := tables ++ [(0x50000, 0), (0x50023, 4)].filter (fun e => e.2 ≠ 0), kvCommitting := some [leaveReq 5 0] }

theorem witness_KvBatchAndPools_marked :
    commandable hotCommit = true ∧ (commitRun hotCommit [leaveReq 5 0]).hot.any (fun n => decide (0 < (hotCommit.slot n).marks)) = true := by decide

/-- The record of context 1 in memory: one report card ring, one thread, an arrival queue of 64 KiB (Table 15.1). -/
def recorded : State := { running with mem := tables ++ [(0x40099, 1), (0x400BC, 1), (0x400C8, 64)] }
def inState (y : Ctx) : State := { recorded with ctxs := [(1, y)] }

theorem witness_ContextCommands :
    (recorded.up = true ∧ commandable recorded = true ∧ recorded.ttBusy = false ∧ (recorded.ctx 1).state = .off ∧
      startOk recorded 1 (readStart recorded 1 Ctx.reset) = true) ∧ ({ recorded with ttBusy := true } : State).ttBusy = true ∧
    startOk recorded 2 (readStart recorded 2 Ctx.reset) = false ∧
    (let s := inState { ctx0 with threads := 1 }
     (s.ctx 1).state = .active ∧ refreshOk s 1 (readRefresh s 1 (s.ctx 1)) = true ∧ (s.ctx 1).threads ≠ 0) ∧
    (let s := inState { ctx0 with threads := 0 }
     (s.ctx 1).state = .active ∧ (s.ctx 1).threads = 0 ∧ (s.ctx 1).closing = false ∧ (s.ctx 1).old = none) ∧
    ((inState { ctx0 with state := .draining }).ctx 1).state = .draining ∧ memWf recorded.mem = true ∧
    (let s := { inState ctx0 with memPoison := [0x2004] }
     (s.ctx 1).state = .active ∧ refreshOk s 1 (readRefresh s 1 (s.ctx 1)) = false) ∧
    ((inState { ctx0 with state := .teardown }).ctx 1).state = .teardown := by decide

/-- No instruction of the recorded module's cores waits on a tally. -/
theorem witness_ContextCommands_calm : ∀ c, tallyHeld (inState ctx0) 1 c = none := by
  intro c
  have h : ((inState ctx0).core c).runCtx ≠ some 1 := by
    by_cases hc : c.toNat = 0
    · rw [show c = 0 from by bv_omega]; decide
    · rw [show (inState ctx0).core c = Core.reset from by simp [State.core, inState, recorded, running, withCore, mapGet, hc]]
      decide
  exact if_neg h

/-- One arrival for context 0 held at the link. -/
def fragment : Arrival := ⟨⟨8, 0, false, 0, 7, 0, 1, 9, 0, 0, 0, [1]⟩, none, none⟩

theorem witness_TimetableEvents :
    (running.up = true ∧ running.power.entering = none ∧ (scanner running).isSome = true) ∧
    (canHold running 0 = true ∧ (running.core 0).sliceEnd ≤ running.bell ∧ (running.core 0).seat = some 0 ∧ chooseSeat running (running.core 0) = some 0) ∧
    (canHold twoSeats 0 = true ∧ (twoSeats.core 0).sliceEnd ≤ twoSeats.bell ∧ (twoSeats.core 0).seat = some 0 ∧ chooseSeat twoSeats (twoSeats.core 0) = some 1) ∧
    (let s := withCore { core0 with seat := none }
     (s.core 0).inService = true ∧ (s.core 0).seat = none ∧ s.power.entering = none ∧ (s.core 0).leave = .stay ∧ chooseSeat s (s.core 0) = some 0) ∧
    (Core.reset.leave ≠ .leaving ∧ ({ Core.reset with leave := .leaving } : Core).leave = .leaving) ∧
    (∀ w ∈ [Stop.yield, .preempt, .offline, .slice],
      let s := withCore { core0 with stop := some w }
      (s.core 0).inService = true ∧ (s.core 0).seat = some 0 ∧ (s.core 0).drained = true ∧ (s.core 0).stop = some w ∧ (s.core 0).runCtx = some 0) ∧
    (let s := { withCore { core0 with stop := some .slice } with heldIn := [fragment] }
     s.heldIn.find? (fun b => (sendAddrOf b.pkt.addr).dctx = (0 : CtxId) && coreDie (sendAddrOf b.pkt.addr).core = coreDie 0) = some fragment ∧ resident s (sendAddrOf fragment.pkt.addr).core 0 = false ∧
      (s.ctx 0).arrivalRoom (coreDie 0) fragment = true) := by decide

/-- One launch entry of context 1 is due; core 0 is free. -/
def due : State :=
  { withCore { core0 with seat := none, seats := .replicate 4 none } with
    mem := tables ++ [(0x4009C, 1)], ctxs := [(1, { ctx0 with ltBase := 0x80000, threads := 0 })] }

theorem witness_ThreadPlacement :
    ((due.ctx 1).state = .active ∧ due.memPoison = [] ∧
      (let w := due.ctx 1
       let aff := due.fetch (entryAt w w.cons + 40) 8
       let set : Word := if aff = 0 then w.cores else BitVec.ofNat 64 aff &&& w.cores
       (prodOf due 1 - w.cons).toNat ≠ 0 ∧ (prodOf due 1 - w.cons).toNat ≤ 2 ^ w.ltLog2 ∧ set ≠ 0 ∧ due.fetch (entryAt w w.cons + 48) 8 ≤ due.bell ∧
        w.threads < w.maxt ∧ chooseCore due set = some 0 ∧ freeSeat (due.core 0) = some 0)) ∧
    ((running.core 0).seatAt 0 = some seat0 ∧ (running.ctx 0).arrivals (coreDie 0) = []) ∧
    ((running.core 0).seat = some 0 ∧ (running.core 0).running = some seat0 ∧ running.incoming = []) := by decide

def tearing : Teardown := ⟨0x80, 0, none, 0, 0, false, false⟩

theorem witness_ContextEndsAndCores :
    (running.up = true ∧ running.life = .running) ∧
    (let s := inState { ctx0 with state := .teardown, teardown := some tearing }
     (s.ctx 1).teardown = some tearing ∧ tearing.cleaned = false ∧ allCores.all (coreQuiet s 1) = true) ∧
    (let s := inState { ctx0 with old := some Card.reset }
     (s.ctx 1).state = .active ∧ (s.ctx 1).old = some Card.reset ∧ ringFull s 1 = false ∧ ∀ z ∈ allCtxs, z ≠ 1 → (s.ctx z).state = .off) ∧
    (let s := inState { ctx0 with state := .draining, closing := true }
     (s.ctx 1).closing = true ∧ (s.ctx 1).old = none ∧ (s.ctx 1).card = some Card.reset ∧ (s.ctx 1).teardown = none ∧ ringFull s 1 = false) ∧
    (let s := { due with bell := 10000, power := { Power.reset with idleSince := some 0 } }
     s.pstate = .active ∧ s.power.idleSince = some 0 ∧ 0 + 10000 ≤ s.bell ∧ allQuiet s = true) ∧
    (dieReached due (coreDie 0) = true ∧ (due.core 0).inService = true ∧ (due.core 0).leave = .stay ∧ (due.core 0).seat = none) ∧
    ((running.core 0).inService = true ∧ (running.core 0).leave = .stay ∧ (running.core 0).seat ≠ none ∧ (running.core 0).stop = none) ∧
    ((withCore { core0 with stop := some .slice }).core 0).stop ≠ none ∧
    ((running.core 1).inService = false ∧ (running.core 1).leave = .stay) := by decide

theorem witness_UnitsLeaveAndReturn :
    (running.up = true ∧ running.unitIn (.timetable true) = true) ∧ ((due.core 0).inService = true ∧ (due.core 0).running = none) ∧
    ((running.core 0).inService = true ∧ (running.core 0).running = some seat0 ∧ (running.ctx seat0.ctx).state = .active) ∧
    ((running.core 63).inService = false ∧ (running.core 63).offline = false) := by decide

/-! The block as a whole. -/

theorem witness_StepTakesFrontCommand :
    (let s := { running with pending := [.kvCommit, .doze] }
     s.pending = .kvCommit :: [.doze]) ∧
    (State.reset.pending = [] ∧ bellRuns State.reset = false) ∧
    (let s := { running with pstate := .doze }
     s.pending = [] ∧ bellRuns s = true ∧ s.up = false) := by decide

theorem witness_StepKeepsLegal : Legal State.reset ∧ (∃ t, step State.reset = .next t) ∧ Legal running := by
  refine ⟨?_, ⟨_, rfl⟩, ?_⟩ <;> unfold Legal <;> decide

theorem witness_OnlyPrivateTestStops :
    (∀ b, Instr.doze ≠ .privateInstruction (.load b)) ∧ ({ running with life := .off } : State).life = .off ∧ running.life ≠ .off ∧
    ({ running with tap := { Tap.reset with evbin := true } } : State).tap.evbin = true ∧ running.tap.evbin = false ∧ running.resetN = true ∧
    State.reset.resetN = false := ⟨(by intro b h; cases h), by decide⟩

theorem witness_DefaultRoutesDeliver : InTorus 0xFFF 0xFFF ∧ InTorus 0xFFF 0x000 ∧ InTorus 0x111 0x101 ∧ (0xFFF : BitVec 12) ≠ 0x000 := by
  have three {p : Nat → Prop} (h0 : p 0) (h1 : p 1) (h2 : p 2) (d : Nat) (h : d < 3) : p d := by
    rcases d with _ | _ | _ | d
    · exact h0
    · exact h1
    · exact h2
    · omega
  exact ⟨three (by decide) (by decide) (by decide), three (by decide) (by decide) (by decide), three (by decide) (by decide) (by decide), by decide⟩

/-! Routes, ports and roll call. -/

/-- Port 5 as given. -/
def ported (q : Port) : State := { running with ports := [(5, q)] }
def openPort : Port := { Port.reset with state := .up, en := true }

/-- A request from chip 9 to chip 7. -/
def request79 : Packet := ⟨1, 0, false, 7, 9, 0, 1, 3, 0, 0, 0, []⟩

theorem witness_RoutingCommands :
    (running.up = true ∧ running.stuck = []) ∧
    (let x : Queued := ⟨none, request79, request79⟩
     let s := { ported { openPort with state := .training, queue := [x] } with routes := [(7, 1)] }
     s.up = true ∧ s.stuck = [] ∧ (s.port 5).state ≠ .up ∧ (s.port 5).queue = [x] ∧ (∀ q, q ≠ 5 → (s.port q).state ≠ .up → (s.port q).queue = []) ∧
      noRoute x.pkt (routeOf s 7) = false ∧ ((routeOf s 7).setWidth 3 : PortId).toNat < 6 ∧ ((routeOf s 7).setWidth 3 : PortId) ≠ 5) ∧
    (let s := { running with routes := [(7, 6), (9, 6)] }
     noRoute request79 (routeOf s 7) = false ∧ (routeOf s 7).toNat % 8 = 6) ∧
    (let s := { running with routes := [(7, 1)] }
     noRoute request79 (routeOf s 7) = false ∧ (routeOf s 7).toNat % 8 < 6) ∧
    (∀ r ∈ [(6 : BitVec 8), 1, 7],
      let s := { running with routes := [(7, 7), (9, r)] }
      let pkt := { request79 with detour := true }
      noRoute pkt (routeOf s 7) = true ∧ pkt.type ≠ tyUnroutable ∧ pkt.detour = true ∧ (routeOf s pkt.src).toNat % 8 = r.toNat) ∧
    noRoute request79 7 = true ∧ request79.detour = false ∧
    noRoute { request79 with type := tyUnroutable } 7 = true ∧ ({ request79 with type := tyUnroutable } : Packet).type = tyUnroutable := by decide

theorem witness_PortEvents :
    (running.up = true ∧ (5 : PortId).toNat < 6 ∧ (0 : Word).toNat.testBit 0 = false ∧ (1 : Word).toNat.testBit 0 = true ∧
      (1 : Word).toNat.testBit 1 = false ∧ (3 : Word).toNat.testBit 0 = true ∧ (3 : Word).toNat.testBit 1 = true) ∧
    (∀ st ∈ [PortState.down, .disabled, .failed, .up, .training, .rollCall], ∀ z ∈ [(none : Option (BitVec 8)), some 3, some 4],
      let q := (ported { openPort with state := st, sleeping := z }).port 5
      q.inService = true ∧ q.en = true ∧ q.state = st ∧ q.sleeping = z ∧ q.mismatch = false ∧ q.halfOk = false) ∧
    ({ openPort with inService := false } : Port).inService = false ∧ ({ openPort with halfOk := true } : Port).halfOk = true ∧
    (8 : BitVec 5) ≠ 16 ∧ (3 : BitVec 5) ≠ 8 ∧
    (∀ st ∈ [PortState.training, .rollCall, .failed],
      let s := { ported { openPort with state := st, lostLock := true } with bell := 100000000 }
      (s.port 5).lostLock = true ∧ (s.port 5).state = st ∧ (s.port 5).lostAt + 100000000 ≤ s.bell ∧ (s.port 5).inService = true) ∧
    openPort.lostLock = false ∧ running.bell < (0 : Nat) + 100000000 ∧ ({ running with chipValid := true } : State).chipValid = true ∧
    running.chipValid = false ∧ ({ openPort with mismatch := true } : Port).mismatch = true ∧
    Port.reset.firstProp = true ∧ ({ openPort with firstProp := false } : Port).firstProp = false := by
  and_intros <;> decide +kernel

/-- A CONTROL message: its type, bytes 2 and 3, and a word from byte 16. -/
def message (type a b w : Nat) : BitVec 1920 := BitVec.ofNat 1920 (type + a * 2 ^ 16 + b * 2 ^ 24 + w * 2 ^ 128)

def calling (q : Port) : State := ported { q with state := .rollCall, en := true }

/-- The header of a CONTROL flit of a session. -/
def control (session : Nat) : BitVec 64 := BitVec.ofNat 64 (2 + session * 2 ^ 37)

theorem witness_RollCallMessages :
    (let s := calling Port.reset
     s.up = true ∧ (s.port 5).state = .rollCall ∧ (s.port 5).mismatch = false ∧ (s.port 5).helloSeen = false ∧ (s.port 5).expectEn = false ∧
      (control 0).toNat % 4 = 2 ∧ msgField (message 1 1 0 0) 0 2 = 1 ∧ msgField (message 1 1 0 0) 2 1 = 1 ∧ rcPartnerBad s 5 (message 1 1 0 0) = false) ∧
    (let q := (calling { Port.reset with expectEn := true, expectPort := 4 }).port 5
     q.expectEn = true ∧ msgField (message 1 1 0 0) 3 1 ≠ q.expectPort.toNat) ∧
    (let q := (calling { Port.reset with helloSeen := true, session := 2 }).port 5
     q.helloSeen = true ∧ fieldOf (control 0) 44 37 ≠ q.session.toNat ∧ fieldOf (control 2) 44 37 = q.session.toNat ∧ (control 2).toNat % 4 = 2) ∧
    (let m := message 2 0 0 1
     let l (q : Port) : Int := (q.rttSum + (((stamp64 ⟨1, 0⟩ : Int) - msgStamp m 16) - ((msgStamp m 4 : Int) - msgStamp m 32)) - 76 * 4096 + 2048) / 4096
     msgField m 0 2 = 2 ∧ msgStamp m 16 ≠ 0 ∧ (calling { Port.reset with helloSeen := true, exchanges := 62 }).up = true ∧
      l { Port.reset with exchanges := 63, rttSum := 79 * 4096 } = 3 ∧ l { Port.reset with exchanges := 63, rttSum := 1076 * 4096 } = 1000 ∧
      l { Port.reset with exchanges := 63, rttSum := 78 * 4096 } = 2 ∧ l { Port.reset with exchanges := 63, rttSum := 1077 * 4096 } = 1001 ∧
      ((79 * 4096 : Int) + (((stamp64 ⟨1, 0⟩ : Int) - msgStamp m 16) - ((msgStamp m 4 : Int) - msgStamp m 32)) - 76 * 4096) % 4096 ≠ 2048) ∧
    (let s := { calling { Port.reset with helloSeen := true, readySent := true, session := 2 } with chipValid := true }
     (s.port 5).readySent = true ∧ fieldOf (control 2) 44 37 = (s.port 5).session.toNat ∧ msgField (message 3 2 0 0) 0 2 = 3 ∧ msgField (message 3 2 0 0) 2 1 = (s.port 5).session.toNat ∧ s.chipValid = true ∧
      running.chipValid = false ∧ (s.port 5).resume = false ∧ (s.port 5).queue = []) := by decide +kernel

def flitOf (b : List Byte) : BitVec 2048 := BitVec.ofNat 2048 (ofLeBytes b)

/-- A DONE packet for this chip. -/
def donePkt : Packet := ⟨9, 2, false, 0, 9, 0, 0, 3, 0, 0, 0, []⟩
def data0 : BitVec 2048 := flitOf (flitBytes 1 0 0 false 0 0 0 1 (leBytes 16 (headerBitsOf donePkt)))

set_option maxRecDepth 100000 in
theorem witness_FlitsInOrder : hears (ported openPort) 5 = true ∧ openPort.sleeping = none ∧ checkFlit openPort 1 = .bad := by decide +kernel

set_option maxRecDepth 100000 in
theorem witness_FlitsInOrder_session :
    checkFlit openPort (flitOf (flitBytes 1 0 0 false 0 0 7 0 [])) = .wrongSession ∧ flitKind (flitOf (flitBytes 1 0 0 false 0 0 7 0 [])) = 1 ∧
    checkFlit openPort (flitOf (flitBytes 0 0 0 false 0 0 7 0 [])) = .wrongSession ∧ flitKind (flitOf (flitBytes 0 0 0 false 0 0 7 0 [])) = 0 := by decide +kernel

set_option maxRecDepth 100000 in
theorem witness_FlitsInOrder_data :
    let h := 1 + 2 ^ 45
    checkFlit openPort data0 = .ok h ∧ h.testBit 26 = false ∧ h % 4 = 1 ∧ BitVec.ofNat 12 (bitField h 13 2) = openPort.rxLast + 1 ∧ bitField h 59 45 = 1 ∧
      headerBad (bitField data0.toNat 191 64) = false ∧ (let p := headerOf (bitField data0.toNat 191 64)
        dataChunks p.type p.len = 0 ∧ p.dst = (ported openPort).chipId ∧ p.detour = false) ∧ routeOf (ported openPort) 0 = 6 := by decide +kernel

set_option maxRecDepth 100000 in
/-- A DATA flit past a gap, and an IDLE flit that acknowledges the second of three flits. -/
theorem witness_FlitsInOrder_others :
    (let h := 1 + 5 * 2 ^ 2
     checkFlit openPort (flitOf (flitBytes 1 5 0 false 0 0 0 0 [])) = .ok h ∧ h % 4 = 1 ∧ BitVec.ofNat 12 (bitField h 13 2) ≠ openPort.rxLast + 1) ∧
    (let h := 1 * 2 ^ 14
     let e (n : BitVec 12) : BitVec 12 × List Byte × BitVec 15 × List (BitVec 16) := (n, [], 0, [])
     checkFlit openPort (flitOf (flitBytes 0 0 1 false 0 0 0 0 [])) = .ok h ∧ h % 4 = 0 ∧ ({ openPort with replay := [e 0, e 1, e 2] } : Port).replay = [e 0] ++ e 1 :: [e 2] ∧
      (e 1).1.toNat = bitField h 25 14 ∧ ∀ x ∈ [e 0], x.1 ≠ (e 1).1) := by decide +kernel

/-- A packet of a type from chip 9 for the first bytes of page 1, admitted by import range 0. -/
def packet (type : BitVec 4) (data : List Byte) : Packet := ⟨type, 0, false, 0, 9, 0, 1, 3, 0x400200000, 0, 0, data⟩
def delivered (p : Packet) : State := { running with inbox := [(some 5, p)], impA := [(0, 0)], impB := [(0, 0x7FFF800000000000)] }

def asker (what : Nat) : Asked := ⟨3, 0, 0, 0, what, 0, 16, false⟩

/-- A posted store to another chip that the packet of tag 3 carries. -/
def storeOut : Posted := ⟨some 9, 0, 4, 9, 0, some 3⟩

theorem witness_PacketService :
    (∀ ty ∈ [tyRead, tyCrumb, tyWrite], let s := delivered (packet ty [])
      s.up = true ∧ inboxAt s 0 ty = some (some 5, packet ty []) ∧ packetServed s 0 false = true) ∧
    remoteOk (delivered (packet tyRead [])) (packet tyRead []) 16 false = true ∧ (delivered (packet tyRead [])).poisoned 0x400200000 16 = false ∧
    (∀ ty ∈ [tyAtomic, tyReduce], let s := delivered (packet ty [])
      inboxAt s 0 ty = some (some 5, packet ty []) ∧ packetServed s 0 true = true ∧ (packet ty []).sub.toNat < 4 ∧ 4 ≤ ({ packet ty [] with sub := 4 } : Packet).sub.toNat) ∧
    (∀ ty ∈ [tyReadData, tyDone], ∀ st ∈ [(0 : BitVec 4), 1, 3], ∀ w ∈ [1, 2, 3, 4, 5],
      let p := { packet ty [] with sub := st }
      let s := { delivered p with
        asked := [asker w]
        cores := [(0, { core0 with hold := some (.load load8), posted := [storeOut] }.setQueue .dma [itemIn .bulkGet .performed])] }
      askedBy s p = some (asker w) ∧ inboxAt s 0 ty = some (some 5, p) ∧ (s.core 0).hold = some (.load load8) ∧ itemLive s 0 0 = true ∧
        (s.core 0).posted.find? (fun z => z.tag == some (asker w).tag) = some storeOut) ∧
    (let s := { delivered (packet tyUnroutable []) with asked := [asker 3] }
     askedBy s (packet tyUnroutable []) = some (asker 3) ∧ inboxAt s 0 tyUnroutable = some (some 5, packet tyUnroutable [])) := by
  refine ⟨?_, ?_, ?_, ?_, ?_, ?_⟩ <;> decide

/-- A SEND fragment for context 0 on core 33, granted or not, with the context ACTIVE or OFF. -/
def sendTo33 : Packet := ⟨5, 0, false, 0, 9, 2, 1, 3, 33, 0, 0, []⟩
def sent33 (y : Ctx) : State := { running with inbox := [(some 5, sendTo33)], ctxs := [(0, y)] }

theorem witness_PacketService_send :
    (let s := sent33 ctx0
     inboxAt s 0 tySend = some (some 5, sendTo33) ∧ granted s (sendAddrOf sendTo33.addr).dctx sendTo33.src sendTo33.ctx = false) ∧
    (let s := sent33 { ctx0 with peers := [0x2FFF000] }
     let x := sendAddrOf sendTo33.addr
     granted s x.dctx sendTo33.src sendTo33.ctx = true ∧ (s.ctx x.dctx).state = .active ∧ resident s x.core x.dctx = false ∧ s.heldIn = [] ∧
      (s.ctx x.dctx).arrivalRoom (coreDie x.core) ⟨sendTo33, some 5, none⟩ = true) ∧
    (let s := sent33 { ctx0 with peers := [0x2FFF000], arqKib := 0 }
     let x := sendAddrOf sendTo33.addr
     granted s x.dctx sendTo33.src sendTo33.ctx = true ∧ (s.ctx x.dctx).arrivalRoom (coreDie x.core) ⟨sendTo33, some 5, none⟩ = false) ∧
    (let s := sent33 { ctx0 with peers := [0x2FFF000], state := .off }
     (s.ctx 0).state = .off ∧ granted s 0 9 2 = true) := by decide

/-- A BELL message whose echo came back from a locked root. -/
def bellMsg : BitVec 1920 := message 4 0 0 1 ||| BitVec.ofNat 1920 (3 * 2 ^ 328)

theorem witness_BellCommands :
    (let s := ported openPort
     s.up = true ∧ (s.port 5).state = .up ∧ (control 0).toNat % 4 = 2 ∧ msgField bellMsg 0 2 = 4 ∧ fieldOf (control 0) 44 37 = (s.port 5).session.toNat ∧
      fieldOf (control 7) 44 37 ≠ (s.port 5).session.toNat ∧ (control 0).getLsbD 26 = false ∧ (s.port 5).sleeping = none ∧ msgStamp bellMsg 16 ≠ 0) ∧
    (let s := { ported openPort with bellState := .locked, bellStepped := true }
     s.bellRoot = false ∧ s.bellState = .locked ∧ s.bellSlew = false ∧
      192 < (((msgStamp bellMsg 32 : Int) - msgStamp bellMsg 16) - ((stamp64 ⟨3, 0⟩ : Int) - msgStamp bellMsg 4)).natAbs ∧
      (msgField bellMsg 41 1).testBit 0 = true ∧ s.bellRate.natAbs ≤ 16000) ∧
    (let s := { running with bellRoot := true }
     s.bellRoot = true ∧ s.bellState = .free ∧ s.bell ≤ (0 : Word).toNat) ∧ running.bellRoot = false ∧ running.pending = [] ∧ running.log.cdCorr < 2 ^ 32 ∧
    steerRate true 128 1 = 400 ∧ steerRate true 1000000 1 = 16000 ∧ steerRate true (-1000000) 1 = -16000 := by decide +kernel

/-! Sleep, power, heat and start-up. -/

def sleeping (w : BitVec 3) : State := { running with power := { Power.reset with entering := some 3, wakeKept := some w } }

theorem witness_SleepAndWake :
    (running.up = true ∧ running.power.entering = none ∧ running.ttBusy = false ∧ running.kvBusy = false ∧ running.libBusy = false ∧ wakeable running.power = true) ∧
    (let p := { Power.reset with wakeEn := 1 }
     wakeable p = false ∧ p.stateBusy = false) ∧
    (∀ op ∈ [3, 4], let s := { running with power := { Power.reset with entering := some op } }
      s.up = true ∧ s.power.entering = some op ∧ sleepQuiet s = true ∧ (∀ r : PortId, r.toNat < 6 → draining (s.port r) = false)) ∧
    (let s := { ported { openPort with replay := [(0, [], 0, [])] } with power := { Power.reset with entering := some 3 } }
     s.power.entering = some 3 ∧ sleepQuiet s = true ∧ (5 : PortId).toNat < 6 ∧ (s.port 5).state = .up ∧ (s.port 5).replay ≠ [] ∧ (s.port 5).inService = true) ∧
    (running.core 0).seat ≠ none ∧ (running.core 0).stop = none ∧ (running.core 0).leave ≠ .leaving ∧
    (let s := { running with power := { Power.reset with wakeAt := 1 }, bell := 1, pstate := .doze }
     s.power.wakeAt ≠ 0 ∧ s.power.wakeAt.toNat ≤ s.bell ∧ s.life = .running ∧ s.power.wakeKept = none ∧ s.power.wakeEn.getLsbD 0 = true ∧
      s.power.entering = none ∧ s.pstate = .doze) ∧
    (running.power.wakeAt = 0 ∧ running.power.wakeEn.getLsbD 2 = true ∧ running.pstate = .active) ∧
    (∀ st ∈ [PState.doze, .hibernate], let s := { running with power := { Power.reset with wakeKept := some 1 }, pstate := st }
      s.life = .running ∧ s.power.wakeKept = some 1 ∧ s.pstate = st ∧ (s.core 0).inService = true) ∧
    (∀ z ∈ [none, some (3 : BitVec 8)], let q := (ported { openPort with state := .down, sleeping := z }).port 5
      q.en = true ∧ q.inService = true ∧ q.state = .down ∧ q.sleeping = z) ∧
    ((control 0).toNat % 4 = 2 ∧ fieldOf (control 0) 44 37 = openPort.session.toNat ∧ (control 0).getLsbD 26 = false ∧ openPort.sleeping = none) ∧
    (msgField (message 5 3 0 0) 0 2 = 5 ∧ msgField (message 5 3 0 0) 2 1 = 3 ∧ msgField (message 5 4 0 0) 2 1 = 4 ∧ (ported openPort).up = true) := by
  and_intros <;> decide +kernel

def goodRails : PowerReading := ⟨44000, 3000, 1500, [750, 750, 750, 1050, 1050, 900, 3300, 1200], [0, 0, 0, 0, 0, 0, 0, 0]⟩
def cool : ThermalReading := ⟨List.replicate 8 400, List.replicate 4 400, List.replicate 3 400, 250⟩

theorem witness_PowerAndHeat :
    (∀ i : Fin 8, railOk (railSet running.power i) i (goodRails.railMv.getD i 0) = true) ∧
    ((if vinBandOf goodRails.vinMv = 0 then running.power.cap else min running.power.cap 1600) < ({ goodRails with pinW := 2401 } : PowerReading).pinW) ∧
    (let r := { goodRails with railMv := [750, 750, 750, 1050, 1050, 900, 3300, 0] }
     let pw : Power := { Power.reset with railOut := .replicate 8 9 }
     (∀ i : Fin 8, i ≠ 7 → railOk (railSet pw i) i (r.railMv.getD i 0) = true) ∧ ¬ railOk (railSet pw 7) 7 (r.railMv.getD 7 0) = true ∧ pw.railOut[(7 : Fin 8)] = 9) ∧
    tempDie cool = none ∧ tempDie { cool with dies := [400, 400, 1100] } ≠ none ∧ running.sec.sensors.getLsbD 5 = false ∧
    tempDie { cool with dies := [400, 1050, 400] } = none ∧ tempDie { cool with stackTemps := List.replicate 8 1000 } = none ∧
    (∀ b ∈ [true, false], ({ Power.reset with throttle := true, releasing := b } : Power).throttle = true) ∧
    ((1 : Word).toNat.testBit 0 = true ∧ (0 : Word).toNat.testBit 0 = false ∧ running.power.installBusy = false ∧
      ({ Power.reset with installBusy := true } : Power).installBusy = true) := by decide

/-- SHAKE256 of the empty message (FIPS 202), its first byte first. -/
def emptyDigest : List Byte :=
  (leBytes 64 0x46b9dd2b0ba88d13233b3feb743eeb243fcd52ea62b81b82b50c27646ed5762fd75dc4ddd8c0f200cb05019d67b592f6fc821c49479ab48640292eacb3b7c4be).reverse

theorem test_shake256_empty : shake256 [] 64 = emptyDigest := by decide +kernel
theorem test_shake256_short : shake256 [] 16 = emptyDigest.take 16 := by decide +kernel

/-- An image of a kind with an empty body, signed with the root key (R452). -/
def image (kind : Nat) : FwImage := ⟨leBytes 4 0x49425645 ++ leBytes 28 kind ++ emptyDigest ++ List.replicate 160 0, [], some true⟩

def goodStart : StartReading :=
  { straps := 0, refOk := true, railMv := [750, 750, 750, 1050, 1050, 900, 3300, 1200], railDa := [0, 0, 0, 0, 0, 0, 0, 0], vinMv := 44000,
    meshOk := true, lidOk := true, bootFw := image 1, runFw := image 2, identityOk := true, decay := [], puf := [[], [], []],
    images := [image 3, image 2], tempoSteps := [0, 0, 0, 0, 0, 0, 0, 0], idleW := 300 }

/-- An identity record whose three PUF_BIND fields are those of an empty PUF value (Table 18.4). -/
def boundRecord : List Byte :=
  List.replicate 44 0 ++ emptyDigest.take 16 ++ List.replicate 16 0 ++ emptyDigest.take 16 ++ List.replicate 16 0 ++ emptyDigest.take 16 ++ List.replicate 372 0

def bound : State := { State.reset with sec := { Sec.reset with identity := boundRecord } }

theorem imageOk_image (s : State) (k : Fin 3) (h : s.sec.floors = .replicate 3 0) : imageOk s k (image (k.val + 1)) = true := by
  unfold imageOk
  rw [show (image (k.val + 1)).body = [] from rfl, test_shake256_empty, h]
  generalize s.sec.ownerKey.isSome = b
  revert k b; decide +kernel

theorem bindOk_bound (i : Nat) (h : i < 3) : bindOk (areaRead bound goodStart) goodStart i = true := by
  unfold bindOk
  rw [show goodStart.puf.getD i [] = [] from by revert i; decide, test_shake256_short]
  revert i; decide +kernel

theorem startsWell_bound : StartsWell bound goodStart := by
  refine ⟨rfl, rfl, rfl, by unfold RailGood; decide, rfl, rfl, imageOk_image _ 0 rfl, by decide, rfl, imageOk_image _ 1 (by decide), bindOk_bound⟩

def starting (r : StartReading) : State := { State.reset with life := .starting, resetN := true, reading := some r }

theorem masterSlot_starting : masterSlot (starting goodStart) goodStart = some (image 3) := by
  have h2 : imageOk (starting goodStart) 2 (image 2) = false := by decide +kernel
  have h3 : imageOk (starting goodStart) 2 (image 3) = true := imageOk_image _ 2 rfl
  unfold masterSlot
  rw [show goodStart.images.filter (imageOk (starting goodStart) 2) = [image 3] from by
    rw [show goodStart.images = [image 3, image 2] from rfl, List.filter, h3, List.filter, h2]; rfl]
  rfl

theorem witness_InputResetAndStartUp :
    (38000 < 38001 ∧ running.life ≠ .off ∧ running.life ≠ .inReset ∧ running.armed = true) ∧ ({ running with life := .off, resetN := false } : State).resetN = false ∧
    (bound.life = .inReset ∧ StartsWell bound goodStart ∧ (areaRead bound goodStart).sec.install = none) ∧
    (goodStart.meshOk = true ∧ goodStart.lidOk = true ∧ goodStart.refOk = true ∧ (∀ i, i < 8 → RailGood State.reset goodStart i) ∧ State.reset.sec.erasing = false ∧
      State.reset.sec.helper = true ∧ imageOk State.reset 0 { image 1 with signer := none } = false ∧ ({ Sec.reset with helper := false } : Sec).helper = false) ∧
    (let s := starting goodStart
     s.life = .starting ∧ s.sec.erasing = false ∧ s.reading = some goodStart ∧ masterSlot s goodStart = some (image 3)) ∧
    masterSlot (starting goodStart) { goodStart with images := [] } = none :=
  ⟨by decide, by decide, ⟨by decide, startsWell_bound, by decide⟩, ⟨rfl, rfl, rfl, startsWell_bound.2.2.2.1, by decide +kernel⟩, ⟨rfl, rfl, rfl, masterSlot_starting⟩, rfl⟩

/-! Security monitor, control die, registers and devices. -/

theorem witness_SecurityCommands :
    (running.up = true ∧ running.sec.busy = false ∧ readable running 0 64 = true ∧ inCarveOut 0 864 = true ∧ (4 ≤ (7 : BitVec 4).toNat ∧ (7 : BitVec 4).toNat < 8) ∧
      (3 : BitVec 4).toNat < 4 ∧ inCarveOut (64 * (0x1FFFFFFFF : BitVec 33).toNat) 864 = false ∧ programHeader (memBytes running.mem 0 256) = false) ∧
    (let s := { running with mem := [(0, 0x45), (1, 0x56), (2, 0x42), (3, 0x49), (4, 4)] }
     readable s 0 256 = true ∧ programHeader (memBytes s.mem 0 256) = true ∧ readable s 0 (256 + imgLength (memBytes s.mem 0 256)) = true) ∧
    (running.sec.ownerKey = none ∧ readable running 0 57 = true) ∧
    (let s := { running with sec := { Sec.reset with ownerKey := some [1] } }
     s.sec.ownerKey = some [1] ∧ readable s 0 256 = true ∧ ownerBlockOk (memBytes s.mem 0 256) = true) ∧
    (let s := { running with sec := { Sec.reset with busy := true } }
     s.sec.busy = true ∧ s.sec.abandoned = false) ∧ ({ Sec.reset with abandoned := true } : Sec).abandoned = true ∧
    (∀ n : Fin 9, 1 ≤ running.sec.levels[n] ∧ running.sec.levels[n] ≤ (0x3FFFF : Word).toNat / 4 ^ n.val % 4) := by decide

theorem witness_AlarmsAndControlDie :
    (running.armed = true ∧ running.sec.levels[(4 : Fin 9)] = 2 ∧ running.sec.levels[(0 : Fin 9)] = 3 ∧ running.sec.erasing = false ∧ running.life ≠ .locked) ∧
    (({ Sec.reset with levels := .replicate 9 1 } : Sec).levels[(0 : Fin 9)] = 1) ∧
    (let s := { running with sec := { Sec.reset with erasing := true } }
     s.sec.erasing = true ∧ s.life ≠ .off) ∧
    ((1 : Word).toNat.testBit 0 = true ∧ (running.wdt 0).counted < (running.wdt 0).timeoutMs * 1000000) ∧
    (∀ st ∈ [0, 1, 2], let w := ({ running with wdts := [(0, ⟨10, true, st, 10000000⟩)] } : State).wdt 0
      w.en = true ∧ w.timeoutMs * 1000000 ≤ w.counted ∧ w.stage = st) ∧
    (running.wdt 1).stage ≠ 2 ∧ (∀ d, d ≠ 0 → (({ running with wdts := [(0, ⟨10, true, 1, 10000000⟩), (1, ⟨10, true, 2, 0⟩), (2, ⟨10, true, 2, 0⟩), (3, ⟨10, true, 2, 0⟩)] } : State).wdt d).stage = 2) ∧
    mainOffset 0xFFFFFFFFFFFF = none ∧ mainOffset 0x1000000000000 = some 0 ∧ ({ running with memPoison := [0] } : State).poisoned 0 1 = true ∧
    running.up = true ∧ running.sec.erasing = false ∧ running.sec.levels[(7 : Fin 9)] = 2 ∧
    running.log.ucieOut.getLsbD 15 = false ∧ ({ Log.reset with ucieOut := 1 } : Log).ucieOut.getLsbD 0 = true := by decide

def logged : Event := ⟨0, 0, 2, 1, none, none, 0, 0, []⟩

theorem witness_RegisterAccess :
    (running.up = true ∧ running.log.buffer = [] ∧ logRoom running.log = true ∧ memWf running.mem = true) ∧
    (let l := { running.log with buffer := [logged] }
     l.buffer = [logged] ∧ logRoom { l with cons := 0 } = true ∧ logRoom { running.log with prod := 1000000, cons := 0 } = false) ∧
    (1 : Word).toNat.testBit 0 = true ∧ (0 : Word).toNat.testBit 0 = false ∧ ({ running with snapPending := true } : State).snapPending = true ∧
    running.snapPending = false ∧ (4 ≠ 8 ∨ (0 : BitVec 26).toNat % 8 ≠ 0) ∧ (0x3FFFFFC : BitVec 26).toNat % 8 ≠ 0 ∧
    windowReg running 0x3FFFFF8 = none ∧ running.stuck = [] ∧ running.ttBusy = false ∧ running.kvBusy = false ∧ commandable running = true ∧
    allocatorIn running = true ∧
    (readOnlyReg 0x0000000 = true ∧ clearsOnRead 0x0000000 = false ∧ readOnlyReg 0x0000030 = false) ∧
    (10 ≤ (10 : Word).toNat % 2 ^ 16 ∧ (9 : Word).toNat % 2 ^ 16 < 10) ∧
    ((400 : Word).toNat / 2 ^ 0 % 2 ^ 12 = 400 ∧ (2400 : Word).toNat / 2 ^ 0 % 2 ^ 12 = 2400 ∧ (399 : Word).toNat / 2 ^ 0 % 2 ^ 12 = 399) ∧
    ((0x6CC035C : Word).toNat / 2 ^ 0 % 2 ^ 11 = 860 ∧ (0x6CC035C : Word).toNat / 2 ^ 16 % 2 ^ 11 = 1740) ∧
    inCarveOut (64 * (2 ^ 28 - 1)) 64 = true ∧ inCarveOut (64 * 2 ^ 28) 64 = false ∧ touchesCarveOut (2 ^ 21 * 2 ^ 13) 1 = false ∧
    inCarveOut (2 ^ 21 * (2 ^ 13 - 1)) (2 ^ 21) = true ∧ inCarveOut (8192 * (2 ^ 21 - 1)) 8192 = true ∧
    (running.pool 0).en = false ∧ defHdrOk 0 = true ∧ ({ running.kvCtx 1 with pool := BitVec.ofNat 4 0, domain := BitVec.ofNat 16 0 } : KvCtx) = running.kvCtx 1 ∧ logBaseOk running.log 0 = true ∧
    (16384 : Word).toNat % 2 ^ 15 ≤ 16384 ∧ 16384 < (16385 : Word).toNat % 2 ^ 15 ∧
    (masterReach running 0 = true ∧ running.poisoned 0 8 = false ∧ ({ running with memPoison := [0] } : State).poisoned 0 8 = true ∧
      masterReach { running with unitsOut := [(.channel (channelOf 0), 1)] } 0 = false) ∧
    ((0xFFFFF8 : BitVec 26).toNat % 8 = 0 ∧ (0xFFFFF8 : BitVec 26).toNat < 2 ^ 24 ∧ (0xFFFF8 : BitVec 26).toNat < 2 ^ 20) := by decide +kernel

/-- Every context of the running module but context 0 is OFF. -/
theorem witness_RegisterAccess_contexts : ∀ x : CtxId, x ≠ 0 → (running.ctx x).state = .off := by
  intro x h
  have : x.toNat ≠ 0 := fun e => h (by bv_omega)
  simp [State.ctx, running, withCore, mapGet, this, Ctx.reset]

def plugged : State :=
  { running with
    pcie := { Pcie.reset with width := 16, bar4 := true, bar2 := some (0, 2 ^ 21), windows := [(3, (4096, 64))] }
    eths := [(0, { Eth.reset with mac := some 1, en := true, tx := [(63, [[1]])], rx := [(63, [⟨[1], 5, true⟩])] })] }

/-- A MAC control frame of 64 bytes: EtherType 0x8808, a PAUSE of two quanta. -/
def pauseFrame : List Byte := List.replicate 12 0 ++ [0x88, 0x08, 0x00, 0x01, 0x00, 0x02] ++ List.replicate 46 0

theorem witness_Devices :
    (running.armed = true ∧ running.mgtAddr = none ∧ ({ running with mgtAddr := some 5 } : State).mgtAddr ≠ none) ∧
    (({ running with life := .locked } : State).life = .locked ∧ ({ Log.reset with alert := true } : Log).alert = true) ∧
    (State.reset.life ≠ .off ∧ State.reset.resetN = false ∧ running.resetN = true ∧ running.tap.evbin = false) ∧
    (plugged.up = true ∧ (plugged.eth false).mac ≠ none ∧ running.up = true ∧ (running.eth false).mac = none ∧ (plugged.eth false).en = true ∧
      (addTag (List.replicate 64 0) none).length = 64 ∧ mapGet (plugged.eth false).rx 63 = some [⟨[1], 5, true⟩] ∧
      isMacControl (List.replicate 64 0) = false ∧ isMacControl pauseFrame = true ∧ pauseFrame.length = 64 ∧
      mapGet (plugged.eth false).tx 63 = some [[1]] ∧ (mapGet (plugged.eth false).pause (framePriority [1])).getD 0 ≤ plugged.bell ∧
      plugged.bell < (mapGet ({ Eth.reset with pause := [(0, 9)] } : Eth).pause 0).getD 0) ∧
    ((0 : Nat) < 2 ^ 39 ∧ inCarveOut 0 (2 ^ 34) = true ∧ inCarveOut (2 ^ 34) (2 ^ 21) = false ∧ (1 : Nat) % 2 ^ 21 ≠ 0 ∧ 2 ^ 34 < 2 ^ 34 + 1) ∧
    (plugged.pcie.width ≠ 0 ∧ plugged.pcie.bar4 = true ∧ (0x3FFFFF8 : Word).toNat < 2 ^ 26 ∧ (0x3FFFFF8 : Word).toNat % 8 = 0 ∧
      mapGet plugged.pcie.windows (3 : BitVec 4).toNat = some (4096, 64) ∧ (56 : BitVec 26).toNat + 8 ≤ 64 ∧ 64 < (57 : BitVec 26).toNat + 8 ∧
      plugged.pcie.bar2 = some (0, 2 ^ 21) ∧ (0x1FFFF8 : Word).toNat + 8 ≤ 2 ^ 21 ∧ masterReach plugged 0x1FFFF8 = true ∧ plugged.poisoned 0x1FFFF8 8 = false ∧
      memWf plugged.mem = true ∧ Pcie.reset.bar2 = none ∧ Pcie.reset.bar4 = false ∧ (0xFFFF8 : Word).toNat + 8 ≤ 2 ^ 20 ∧ memWf plugged.pcie.bar0 = true) := by
  decide +kernel

theorem witness_PralineAddition :
    let x : Praline := ⟨46, 0x83C, 4⟩
    let y : Praline := ⟨122, 0x83C, 4⟩
    let z : Praline := ⟨1, 0x83D, 0⟩
    (x.af = y.af ∧ x.af ≠ 0 ∧ x.f &&& 2 = 0 ∧ y.f &&& 2 = 0) ∧ x.af ≠ z.af ∧ x ≠ prEmpty ∧ z ≠ prEmpty := by decide

theorem witness_RegisterFiles : (5 : BitVec 5) ≠ 0 ∧ Executes running 0 f0.guard 1 ∧ f0.c = 0 ∧ f0.x = 0 ∧ f0.kt = 0 :=
  ⟨by decide, executes_running 1 (by decide), by decide⟩

/-- The clauses on words with a bit set that must be zero, and on misaligned targets. -/
theorem witness_reserved_words :
    Fetches running 0 1 ∧ aluReserved (.imm { f1 with imm := 64 }) true = true ∧ aluReserved (.reg { f0 with x := 1 }) false = true ∧
    (8 ≤ (aluD (.reg { f0 with d := 8 })).toNat ∧ 6 ≤ aluSub (.imm { f1 with sub := 6 }) ∧ 8 ≤ ({ f0 with x := 8 } : F0).x.toNat ∧ ({ f1 with a := 1 } : F1).a ≠ 0) ∧
    ({ f0 with b := 1 } : F0).b ≠ 0 ∧ Executes running 0 ({ f1 with imm := 4 } : F1).guard 1 ∧
    ((running.core 0).th.s 0 + BitVec.ofInt 64 ({ f1 with imm := 4 } : F1).imm.toInt).toNat % 8 ≠ 0 ∧ 1024 ≤ (1024 : BitVec 32).toNat ∧ 128 ≤ (128 : BitVec 32).toNat :=
  ⟨(executes_running 1 (by decide)).1, by decide, by decide, by decide, by decide, executes_running 1 (by decide), by decide⟩

/-! The check of ill-formed commands: one term for each check. -/

theorem test_wf_minor_opcodes :
    (Instr.add 0 (.reg { f0 with sub := 1 })).wf = false ∧ (Instr.sub 0 (.reg f0)).wf = false ∧ (Instr.mul 0 (.imm f1)).wf = false ∧
    (Instr.and 0 (.reg { f0 with sub := 2 })).wf = false ∧ (Instr.or 0 (.reg { f0 with sub := 3 })).wf = false ∧ (Instr.xor 0 (.reg { f0 with sub := 6 })).wf = false ∧
    (Instr.shl 0 (.reg { f0 with sub := 7 })).wf = false ∧ (Instr.shr 0 (.reg { f0 with sub := 8 })).wf = false ∧ (Instr.sar 0 (.reg { f0 with sub := 9 })).wf = false ∧
    (Instr.li 0 { f1 with sub := 1 }).wf = false ∧ (Instr.liHigh 0 f1).wf = false ∧ (Instr.br 0 { f1 with sub := 1 }).wf = false ∧
    (Instr.brIndirect 0 f1).wf = false ∧ (Instr.call 0 { f1 with sub := 1 }).wf = false ∧ (Instr.callIndirect 0 f1).wf = false ∧
    (Instr.sar 0 (.reg { f0 with sub := 8 })).wf = true := by decide

theorem test_wf_runs :
    (∀ i ∈ [Instr.aadd 0 (.run .dma 0 none), .amax 0 (.run .crumb 8 none), .circSet 0 (.run .sfu 0 none), .circAdv 0 (.run .attn 0 none), .crumbGet 0 (.run .arrayA 0 none)], i.wf = false) ∧
    (∀ i ∈ [Instr.bulkGet 0 (.run .crumb 0 none), .bulkPut 0 (.run .dma 16 none), .send 0 (.run .sfu 0 none), .rsum 0 (.run .attn 0 none), .bcast 0 (.run .crumb 0 none),
            .kvAlloc 0 (.run .sfu 0 none), .kvFree 0 (.run .sfu 0 none), .ptEdit 0 (.run .sfu 0 none), .pfxLookup 0 (.run .sfu 0 none), .pfxInsert 0 (.run .sfu 0 none),
            .pfxRelease 0 (.run .sfu 0 none)], i.wf = false) ∧
    (∀ i ∈ [Instr.mm 0 (.run .sfu 0 none), .mmAcc 0 (.run .attn 0 none), .pralineSpill 0 (.run .arrayB 8 none), .vop 0 (.run .arrayA 0 none), .softmax 0 (.run .sfu 8 none),
            .convert 0 (.run .dma 0 none), .transpose 0 (.run .dma 0 none), .tallyClose 0 (.run .dma 0 none), .norm 0 (.run .dma 0 none), .attnFwd 0 (.run .attn 4 none),
            .attnBwd 0 (.run .sfu 0 none), .sortb 0 (.run .sfu 0 none), .instructionComplete 0 .dma 16], i.wf = false) ∧
    (Instr.bulkPut 0 (.run .dma 15 none)).wf = true ∧ (Instr.mm 0 (.run .arrayB 7 none)).wf = true := by decide

theorem test_wf_ports :
    (∀ p : PortId, (Instr.hello p ⟨0, 0⟩).wf = decide (p.toNat < 6)) ∧
    (∀ i ∈ [Instr.returnSequence (.port 6), .unitInternalError (.port 7), .retrain 6 0, .laneTraining 6 16, .laneTraining 0 17, .measure 6 ⟨0, 0⟩ ⟨0, 0⟩, .ready 6 ⟨0, 0⟩,
            .messageRepeat 6, .rollCallTimeout 6, .dataFlit 6 0, .idleFlit 6 0, .laneLockLost 6, .portOutTimeout 6, .bellExchangeTimer 6,
            .bellMessage 6 ⟨0, 0⟩ ⟨0, 0⟩, .sleep 6 ⟨0, 0⟩, .lnkPortErr 6], i.wf = false) ∧ (Instr.laneTraining 5 16).wf = true := by decide

def reading : PowerReading := ⟨48000, 100, 480, List.replicate 8 900, List.replicate 8 10⟩

theorem test_wf_samples :
    (Instr.powerSample { reading with railMv := [] }).wf = false ∧ (Instr.powerSample { reading with railDa := [] }).wf = false ∧ (Instr.powerSample reading).wf = true ∧
    (Instr.tempoMeterSample []).wf = false ∧ (Instr.thermalSample ⟨[], [0, 0, 0, 0], [0, 0, 0], 0⟩).wf = false ∧
    (Instr.thermalSample ⟨List.replicate 8 0, [], [0, 0, 0], 0⟩).wf = false ∧ (Instr.thermalSample ⟨List.replicate 8 0, [0, 0, 0, 0], [], 0⟩).wf = false ∧
    (Instr.powerGood { goodStart with railMv := [] }).wf = false ∧ (Instr.powerGood { goodStart with railDa := [] }).wf = false ∧
    (Instr.resetRelease { goodStart with puf := [] }).wf = false ∧ (Instr.resetRelease { goodStart with images := [] }).wf = false ∧
    (Instr.resetRelease { goodStart with tempoSteps := [] }).wf = false ∧ (Instr.resetRelease goodStart).wf = true := by decide

theorem test_wf_devices :
    (Instr.evbinTestUnlock []).wf = false ∧ (Instr.ethFrameRx false (List.replicate 63 0) 0).wf = false ∧ (Instr.ethFrameRx false (List.replicate 64 0) 0).wf = true ∧
    (Instr.pcieBarAccess 1 0 4 none).wf = false ∧ (Instr.pcieBarAccess 4 0 0 none).wf = false ∧ (Instr.pcieBarAccess 4 0 9 none).wf = false ∧
    (Instr.accessSize 8 8 true).wf = false ∧ (Instr.accessSize 4 8 true).wf = true := by decide

theorem test_wf_long_frame : (Instr.ethFrameRx false (List.replicate 9217 0) 0).wf = false := by
  rw [Instr.wf, List.length_replicate]; rfl

/-! The words of the command table: no row gives bits. -/

theorem test_no_word_spells_a_command (n w : Nat) : decodeTableWord n w = none := rfl

/-- Words laid out by hand from Tables 6.3 to 6.6 with the opcodes of Tables 7.1 and 8.1, every field that the word uses set. -/
theorem test_words :
    wordInstr 7 0x0131844000800000 0 = some (.sar 7 (.reg { f0 with guard := 3, d := 3, a := 1, b := 2, sub := 8 })) ∧
    wordInstr 7 0x0800044340200005 0 = some (.aadd 7 (.issue { f0 with a := 1, b := 2, c := 3, kt := 4, sub := 2, x := 5 })) ∧
    wordInstr 7 0x43028010FFFFFFFF 0 = some (.liHigh 7 { f1 with d := 5, sub := 1, imm := 0xFFFFFFFF }) ∧
    wordInstr 7 0x4C184470FFFFFFF8 0 = some (.ldG 7 { f1 with guard := 1, d := 16, a := 17, sub := 7, imm := 0xFFFFFFF8 }) ∧
    wordInstr 7 0x460F800000000002 0 = some (.call 7 { f1 with d := 31, imm := 2 }) ∧
    wordInstr 7 0x5000240600000003 0 = some (.circSet 7 (.issue { f1 with a := 9, kt := 6, imm := 3 })) ∧
    wordInstr 7 0x590000000000007F 0 = some (.fence 7 { f1 with imm := 127 }) := by decide

theorem test_tensor_words :
    let m : F2 := { guard := 0, kt := 3, tdo := 1, tdl := 2, tdr := 4, anc := 5, rnd := 1, eng := 2, chn := 31, mode := 0xABCDEF }
    let e (v : F2) : F3 := { w1 := v, td3 := 6, td4 := 7, s1 := 8, s2 := 9, s3 := 10, s4 := 31, ext := 0x876543210 }
    let v : Word := 0x674255F876543210
    wordInstr 7 0x8003124ADFABCDEF 0 = some (.mm 7 (.issue m)) ∧
    wordInstr 7 0x8403124ADFABCDEF 0 = some (.vop 7 (.issue m)) ∧
    wordInstr 7 0xC403124ADFABCDEF v = some (.mmAcc 7 (.issue (e m))) ∧
    wordInstr 7 0xD003124ADFABCDEF v = some (.attnFwd 7 (.issue (e m))) ∧
    wordInstr 7 0xD803124ADFABCDEF v = some (.kvAlloc 7 (.issue (e m))) ∧
    wordInstr 7 0xDD03124ADFABCDEF v = some (.pfxRelease 7 (.issue (e m))) ∧
    wordInstr 7 0xE003124ADFABCDEF v = some (.send 7 (.issue (e m))) ∧
    wordInstr 7 0xC300000000000000 v = none ∧ wordInstr 7 0x7F00000000000000 v = none := by decide

/-! Small steps, their results computed from the rules by hand. -/

/-- Core 0 with s1 and s2 as given; s3 is the destination. -/
def regs2 (a b : Word) : State := withTh (fun t => { t with sregs := (t.sregs.set 1 a).set 2 b })
def o12 (sub : BitVec 8) : AluForm := .reg { f0 with d := 3, a := 1, b := 2, sub := sub }
def s3 (s : State) : Word := (s.core 0).th.s 3

/-- R148. -/
theorem test_add_wraps : s3 (after (regs2 0xFFFFFFFFFFFFFFFF 2) (.add 0 (o12 0))) = 1 := by decide
theorem test_sub_order : s3 (after (regs2 5 7) (.sub 0 (o12 1))) = 0xFFFFFFFFFFFFFFFE := by decide
theorem test_sar_sign : s3 (after (regs2 0x8000000000000000 0x43) (.sar 0 (o12 8))) = 0xF000000000000000 := by decide
theorem test_shr_zero_fill : s3 (after (regs2 0x8000000000000000 63) (.shr 0 (o12 7))) = 1 := by decide
/-- R119: a write of s0 is discarded, the pc passes the word. -/
theorem test_s0_discards :
    let t := after (regs2 5 7) (.add 0 (.reg { f0 with a := 1, b := 2 }))
    (t.core 0).th.s 0 = 0 ∧ (t.core 0).th.pc = 8 := by decide
/-- R149, Table 7.3: −1 is below 0 signed, and not unsigned. -/
theorem test_cmp_signed : ((after (regs2 0xFFFFFFFFFFFFFFFF 0) (.cmp 0 (.reg { f0 with d := 3, a := 1, b := 2, sub := 2 }))).core 0).th.p 3 = true ∧
    ((after (regs2 0xFFFFFFFFFFFFFFFF 0) (.cmp 0 (.reg { f0 with d := 3, a := 1, b := 2, sub := 4 }))).core 0).th.p 3 = false := by decide
/-- R151: LI sign-extends, its second form keeps the low half. -/
theorem test_li : s3 (after running (.li 0 { f1 with d := 3, imm := 0x80000000 })) = 0xFFFFFFFF80000000 := by decide
theorem test_li_high :
    s3 (after (withTh (fun t => { t with sregs := t.sregs.set 3 0x1111111122222222 })) (.liHigh 0 { f1 with d := 3, sub := 1, imm := 0xABCD })) = 0xABCD22222222 := by decide
/-- R153: the target of BR counts words from the branch itself. -/
theorem test_br_back : ((after (withTh (fun t => { t with pc := 80 })) (.br 0 { f1 with imm := 0xFFFFFFFE })).core 0).th.pc = 64 := by decide
/-- R154: the return address is the word after the CALL. -/
theorem test_call_link :
    let t := after running (.call 0 { f1 with d := 3, imm := 5 })
    s3 t = 8 ∧ (t.core 0).th.pc = 40 := by decide

/-- The common form of a value as Table 3.4 gives it: sign, e, m. -/
def commonBits (f : Fmt) (code : Nat) (x : Option Nat) : Bool × Nat × Nat :=
  let c := commonOf (decodeVal f code x)
  (c.neg, c.e, c.m)

/-- Table 3.4. -/
theorem test_table_3_4 :
    commonBits .e4m3 0x5C none = (false, 0x203, 0xC00) ∧ commonBits .mxe2m1 0xB (some 0x7C) = (true, 0x1FC, 0xC00) ∧
    commonBits .uint8 0xC8 none = (false, 0x206, 0xC80) ∧ commonBits .bf16 1 none = (false, 0x17A, 0x800) ∧
    commonBits .int4 9 none = (true, 0x201, 0xE00) := by decide

/-- Table 3.7: 365 · 2^−4 in three formats by RNE and RTZ, with inexact set. -/
theorem test_table_3_7 :
    let v := valFin false 365 (-4)
    encodeVal .e4m3 .rne v = (0x5B, 4) ∧ encodeVal .e4m3 .rtz v = (0x5B, 4) ∧ encodeVal .bf16 .rne v = (0x41B6, 4) ∧
    encodeVal .int8 .rne v = (0x17, 4) ∧ encodeVal .int8 .rtz v = (0x16, 4) := by decide +kernel

/-- Table 4.4, pair by pair. -/
def pairTerm (a b : Nat) : Praline := term (commonOf (decodeVal .e4m3 a none)) (commonOf (decodeVal .e4m3 b none)) 60

theorem test_table_4_4 :
    pairTerm 0x3C 0x45 = ⟨78, 0x83C, 0⟩ ∧ pairTerm 0xC2 0x35 = ⟨-32, 0x83C, 4⟩ ∧ pairTerm 0x54 0x33 = ⟨132, 0x83C, 0⟩ ∧
    pairTerm 0x9C 0x4E = ⟨-10, 0x83C, 4⟩ ∧ pairTerm 0xCA 0x22 = ⟨-12, 0x83C, 4⟩ ∧ pairTerm 0x5C 0x3C = ⟨576, 0x83C, 0⟩ := by decide +kernel

/-- Table 4.5: the final record and its conversion to BF16. -/
theorem test_table_4_5 :
    let sum := [pairTerm 0x3C 0x45, pairTerm 0xC2 0x35, pairTerm 0x54 0x33, pairTerm 0x9C 0x4E, pairTerm 0xCA 0x22, pairTerm 0x5C 0x3C].foldl prAdd prEmpty
    prBits sum = 0x483C00000000000000000000000002DC ∧ prConvert .bf16 .rne sum = (0x4237, 4) := by decide +kernel

/-- R308 and its worked example: C1, channel 0x6D; the next granule lies in channel 14 of H7. -/
theorem test_granule : channelOf 0x5123456800 = 128 + 0x6D ∧ channelOf 0x5123457000 = 128 + 0x6E := by decide

/-- The worked example of a route across the X wrap. -/
theorem test_wrap_route :
    defaultEntry 273 0xFFF 286 = 0x01 ∧ defaultEntry 272 0xFFF 286 = 0x01 ∧ defaultEntry 287 0xFFF 286 = 0x19 ∧ defaultEntry 286 0xFFF 286 = 0x06 := by decide


/-- The worked example of a fibre: RTT 103.0 ns, 2θ = 2.5 ns, 2.7 m after 64 such exchanges. -/
theorem test_fibre_length :
    rttOf (64 * 1000000) (64 * 1000052 + 48) (64 * 1000253) (64 * 1000303 + 16) = 64 * 103 ∧
    theta2Of (64 * 1000000) (64 * 1000052 + 48) (64 * 1000253) (64 * 1000303 + 16) = 160 ∧ lengthOf (64 * (64 * 103)) false = 27 := by decide

/-- The work-list entry of the speculation tree of Table 11.1. -/
def tree : Entry :=
  { entryOfWords [0x000003E8000600D4, 0x000003EE00000000, 0x0000020000000000, 0] with bms := [0x01, 0x03, 0x05, 0x0B, 0x13, 0x25] }

theorem test_tree_entry : tree.slot = 212 ∧ tree.qtok = 6 ∧ tree.qpos = 1000 ∧ tree.kbeg = 0 ∧ tree.kend = 1006 ∧ tree.win = 512 ∧
    (attnMode 0x774).d = 128 ∧ (attnMode 0x774).g = 8 := by decide

/-- Table 11.1: the logical positions, the edges of the window, the draft keys of draft 5. -/
theorem test_table_11_1 :
    let m := attnMode 0x774
    (List.range 6).map (lam m tree) = [1000, 1001, 1001, 1002, 1002, 1002] ∧
    (visible m tree 0 488 = false ∧ visible m tree 0 489 = true ∧ visible m tree 5 490 = false ∧ visible m tree 5 491 = true) ∧
    (List.range 6).filter (fun u => visible m tree 5 (1000 + u)) = [0, 2, 5] := by decide +kernel

/-- The example's charged pairs: blocks 7 to 15 of the one row group. -/
theorem test_charged_blocks : (List.range 16).filter (chargedPair (attnMode 0x774) tree 0) = [7, 8, 9, 10, 11, 12, 13, 14, 15] := by decide +kernel

/-- R59: an exact zero sum is +0, of two zeros of one sign too; 1 + 2^−24 ties to 1 (RNE). -/
theorem test_fp32_add : fp32Add 0x80000000 0x80000000 = 0 ∧ fp32Add 0x3F800000 0x33800000 = 0x3F800000 := by decide +kernel

/-- R378: PFX.RELEASE in context 0 faults. -/
theorem test_release_context_0 : headRelease core0 0 { itemIn .pfxRelease .started with s2 := 1, s3 := 64 } = .error (bad cTranslation) := by rfl

end Sys2Proof.Tests
end

/-! SUPPORT. The addition of Praline records (R79, R80 of spec/04_praline_dot_product.md) as a commutative monoid, and R81, which follows
from it. -/
namespace Sys2Proof.Machine

/-! R80 by its parts: the anchor of a sum, the MIS bit that two anchors raise, and the record of a value under its flags. -/

/-- The smaller of two anchor fields. -/
def prMinAnchor (a b : BitVec 12) : BitVec 12 := if a.toNat ≤ b.toNat then a else b

/-- The flag two anchor fields raise: MIS, unless they agree and are not 0. -/
def prAnchorFlag (a b : BitVec 12) : BitVec 4 := if a = 0 ∨ b = 0 ∨ a ≠ b then prMis else 0

/-- The record of a value under its flags: under MIS it carries no value. -/
def prMake (v : BitVec 112) (af : BitVec 12) (f : BitVec 4) : Praline := if f &&& prMis ≠ 0 then ⟨0, af, f⟩ else ⟨v, af, f⟩

theorem prMinAnchor_toNat (a b : BitVec 12) : (prMinAnchor a b).toNat = min a.toNat b.toNat := by
  rw [Nat.min_def, prMinAnchor, apply_ite BitVec.toNat]

theorem prMinAnchor_self (a : BitVec 12) : prMinAnchor a a = a := ite_self a

theorem prMinAnchor_comm (a b : BitVec 12) : prMinAnchor a b = prMinAnchor b a :=
  BitVec.eq_of_toNat_eq (by rw [prMinAnchor_toNat, prMinAnchor_toNat, Nat.min_comm])

theorem prMinAnchor_assoc (a b c : BitVec 12) : prMinAnchor (prMinAnchor a b) c = prMinAnchor a (prMinAnchor b c) :=
  BitVec.eq_of_toNat_eq (by simp only [prMinAnchor_toNat, Nat.min_assoc])

theorem prAnchorFlag_comm (a b : BitVec 12) : prAnchorFlag a b = prAnchorFlag b a :=
  ite_congr (propext (by grind)) (fun _ => rfl) (fun _ => rfl)

theorem prAnchorFlag_eq_mis {a b : BitVec 12} (h : a = 0 ∨ b = 0 ∨ a ≠ b) : prAnchorFlag a b = prMis := if_pos h

theorem prAnchorFlag_self {a : BitVec 12} (h : a ≠ 0) : prAnchorFlag a a = 0 := if_neg fun hbad => hbad.elim h (·.elim h (· rfl))

theorem prMis_or_prAnchorFlag (a b : BitVec 12) : prMis ||| prAnchorFlag a b = prMis := by
  unfold prAnchorFlag; split <;> rfl

/-- Three anchors raise MIS, unless all three agree and are not 0. -/
theorem prAnchorFlag_or_min (a b c : BitVec 12) :
    prAnchorFlag a b ||| prAnchorFlag (prMinAnchor a b) c = if a ≠ 0 ∧ a = b ∧ b = c then 0 else prMis := by
  by_cases hab : a = 0 ∨ b = 0 ∨ a ≠ b
  · rw [prAnchorFlag_eq_mis hab, prMis_or_prAnchorFlag, if_neg (by grind)]
  · obtain ⟨ha, -, rfl⟩ : a ≠ 0 ∧ b ≠ 0 ∧ a = b := by simpa using hab
    rw [prAnchorFlag_self ha, prMinAnchor_self]
    by_cases hac : a = c
    · subst hac
      rw [prAnchorFlag_self ha, if_pos ⟨ha, rfl, rfl⟩]; exact BitVec.zero_or
    · rw [prAnchorFlag_eq_mis (.inr (.inr hac)), if_neg (by grind)]; exact BitVec.zero_or

theorem prAnchorFlag_assoc (a b c : BitVec 12) :
    prAnchorFlag a b ||| prAnchorFlag (prMinAnchor a b) c = prAnchorFlag b c ||| prAnchorFlag a (prMinAnchor b c) := by
  rw [prAnchorFlag_comm a (prMinAnchor b c), prAnchorFlag_or_min, prAnchorFlag_or_min]
  exact ite_congr (propext (by grind)) (fun _ => rfl) (fun _ => rfl)

/-- An anchor 0 raises MIS. -/
theorem prAnchorFlag_of_min_eq_zero {a b : BitVec 12} (h : prMinAnchor a b = 0) : prAnchorFlag a b = prMis := by
  have hab : a = 0 ∨ b = 0 := by unfold prMinAnchor at h; split at h <;> simp [h]
  obtain rfl | rfl := hab <;> simp [prAnchorFlag]

theorem or_and_eq_zero_iff (f g m : BitVec 4) : (f ||| g) &&& m = 0 ↔ f &&& m = 0 ∧ g &&& m = 0 := by
  rw [BitVec.and_or_distrib_right]
  exact BitVec.or_eq_zero_iff

@[simp] theorem prMake_f (v : BitVec 112) (af : BitVec 12) (f : BitVec 4) : (prMake v af f).f = f := by unfold prMake; split <;> rfl

@[simp] theorem prMake_af (v : BitVec 112) (af : BitVec 12) (f : BitVec 4) : (prMake v af f).af = af := by unfold prMake; split <;> rfl

theorem prMake_v_of_not_mis {f : BitVec 4} (h : f &&& prMis = 0) (v : BitVec 112) (af : BitVec 12) : (prMake v af f).v = v := by
  simp [prMake, h]

/-- Under MIS the value does not matter. -/
theorem prMake_congr {v w : BitVec 112} {af : BitVec 12} {f : BitVec 4} (h : f &&& prMis = 0 → v = w) :
    prMake v af f = prMake w af f := by
  unfold prMake
  split
  next => rfl
  next hf => rw [h (Decidable.not_not.mp hf)]

/-- R80 for two records that are not empty. -/
theorem prAdd_of_ne_empty {x y : Praline} (hx : x ≠ prEmpty) (hy : y ≠ prEmpty) :
    prAdd x y = prMake (x.v + y.v) (prMinAnchor x.af y.af) (x.f ||| y.f ||| prAnchorFlag x.af y.af) := by
  simp [prAdd, prMake, prMinAnchor, prAnchorFlag, hx, hy, or_assoc]

/-- R79: the empty record is the identity. -/
@[simp] theorem prEmpty_prAdd (x : Praline) : prAdd prEmpty x = x := if_pos rfl

@[simp] theorem prAdd_prEmpty (x : Praline) : prAdd x prEmpty = x := by
  by_cases hx : x = prEmpty
  · rw [hx, prEmpty_prAdd]
  · rw [prAdd, if_neg hx, if_pos rfl]

/-- A sum is never empty again: an anchor field 0 leaves MIS in its flags. -/
theorem prAdd_ne_empty {x y : Praline} (hx : x ≠ prEmpty) (hy : y ≠ prEmpty) : prAdd x y ≠ prEmpty := by
  rw [prAdd_of_ne_empty hx hy]
  intro h
  have haf : prMinAnchor x.af y.af = 0 := (prMake_af ..).symm.trans (congrArg Praline.af h)
  have hf : x.f ||| y.f ||| prAnchorFlag x.af y.af = 0 := (prMake_f ..).symm.trans (congrArg Praline.f h)
  rw [prAnchorFlag_of_min_eq_zero haf] at hf
  exact absurd (BitVec.or_eq_zero_iff.mp hf).2 (by decide)

theorem prAdd_comm (x y : Praline) : prAdd x y = prAdd y x := by
  by_cases hx : x = prEmpty
  · simp [hx]
  by_cases hy : y = prEmpty
  · simp [hy]
  rw [prAdd_of_ne_empty hx hy, prAdd_of_ne_empty hy hx, BitVec.add_comm, prMinAnchor_comm, BitVec.or_comm x.f, prAnchorFlag_comm]

/-- The flags of a sum of three records, in either grouping. -/
theorem prAdd_flags_assoc (x y z : Praline) :
    x.f ||| y.f ||| prAnchorFlag x.af y.af ||| z.f ||| prAnchorFlag (prMinAnchor x.af y.af) z.af =
      x.f ||| (y.f ||| z.f ||| prAnchorFlag y.af z.af) ||| prAnchorFlag x.af (prMinAnchor y.af z.af) := by
  calc _ = x.f ||| y.f ||| z.f ||| (prAnchorFlag x.af y.af ||| prAnchorFlag (prMinAnchor x.af y.af) z.af) := by ac_rfl
    _ = x.f ||| y.f ||| z.f ||| (prAnchorFlag y.af z.af ||| prAnchorFlag x.af (prMinAnchor y.af z.af)) := by rw [prAnchorFlag_assoc]
    _ = _ := by ac_rfl

/-- Anchor and flags agree in either grouping; where they leave no MIS, neither partial sum has it, and the values add modulo 2^112. -/
theorem prAdd_assoc (x y z : Praline) : prAdd (prAdd x y) z = prAdd x (prAdd y z) := by
  by_cases hx : x = prEmpty
  · simp [hx]
  by_cases hy : y = prEmpty
  · simp [hy]
  by_cases hz : z = prEmpty
  · simp [hz]
  rw [prAdd_of_ne_empty (prAdd_ne_empty hx hy) hz, prAdd_of_ne_empty hx (prAdd_ne_empty hy hz), prAdd_of_ne_empty hx hy,
    prAdd_of_ne_empty hy hz, prMake_f, prMake_f, prMake_af, prMake_af, prMinAnchor_assoc, prAdd_flags_assoc]
  refine prMake_congr fun hmis => ?_
  have hyz : (y.f ||| z.f ||| prAnchorFlag y.af z.af) &&& prMis = 0 := by
    obtain ⟨hxyz, -⟩ := (or_and_eq_zero_iff ..).mp hmis
    exact ((or_and_eq_zero_iff ..).mp hxyz).2
  have hxy : (x.f ||| y.f ||| prAnchorFlag x.af y.af) &&& prMis = 0 := by
    obtain ⟨hxyz, -⟩ := (or_and_eq_zero_iff ..).mp (prAdd_flags_assoc x y z ▸ hmis)
    exact ((or_and_eq_zero_iff ..).mp hxyz).1
  rw [prMake_v_of_not_mis hxy, prMake_v_of_not_mis hyz, BitVec.add_assoc]

/-- R81, order: a sum of records is the same in every order. -/
theorem foldl_prAdd_perm {l m : List Praline} (h : l.Perm m) : l.foldl prAdd prEmpty = m.foldl prAdd prEmpty :=
  h.foldl_eq' (fun x _ y _ r => by rw [prAdd_assoc, prAdd_comm x y, ← prAdd_assoc]) prEmpty

/-- R81, grouping: a sum of records is the sum of its two partial sums. -/
theorem foldl_prAdd_append (l m : List Praline) : (l ++ m).foldl prAdd prEmpty = prAdd (l.foldl prAdd prEmpty) (m.foldl prAdd prEmpty) := by
  have : Std.Associative prAdd := ⟨prAdd_assoc⟩
  rw [List.foldl_append, ← List.foldl_assoc (op := prAdd), prAdd_prEmpty]

/-- Settles O19: record addition is commutative and associative with the empty record as identity, and the terms of the pairs depend on
nothing else. -/
theorem pralineOrderAndGrouping : Obligations.PralineOrderAndGrouping := by
  unfold Obligations.PralineOrderAndGrouping
  intro a ps qs
  simp only [← List.foldl_map (f := fun p : Common × Common => term p.1 p.2 a) (g := prAdd), List.map_append]
  exact ⟨fun h => foldl_prAdd_perm (h.map _), foldl_prAdd_append _ _⟩

end Sys2Proof.Machine

/-! SUPPORT. The scalar and predicate registers of a thread, the issue of an instruction whose guard holds, and what scalar arithmetic
leaves in its thread (R119, R125, R148). -/
namespace Sys2Proof.Machine

/-! The scalar registers. -/

theorem Thread.s_zero (t : Thread) : t.s 0 = 0 := rfl

theorem Thread.setS_zero (t : Thread) (v : Word) : t.setS 0 v = t := rfl

theorem Thread.setS_of_ne {r : BitVec 5} (hr : r ≠ 0) (t : Thread) (v : Word) :
    t.setS r v = { t with sregs := t.sregs.set r.toFin v } := if_neg hr

theorem Thread.s_of_ne {r : BitVec 5} (hr : r ≠ 0) (t : Thread) : t.s r = t.sregs[r.toFin] := if_neg hr

theorem Thread.s_setS (t : Thread) (r q : BitVec 5) (v : Word) :
    (t.setS r v).s q = if q = r ∧ r ≠ 0 then v else t.s q := by
  by_cases hr : r = 0
  · rw [hr, setS_zero, if_neg fun h => h.2 rfl]
  by_cases hq : q = 0
  · rw [hq, s_zero, s_zero, if_neg fun h => hr h.1.symm]
  rw [setS_of_ne hr, s_of_ne hq, s_of_ne hq]
  simp only [Fin.getElem_fin, Vector.getElem_set, BitVec.val_toFin, BitVec.toNat_inj, eq_comm (a := q), hr, ne_eq,
    not_false_eq_true, and_true]

theorem Thread.s_setS_same (t : Thread) (r : BitVec 5) (v : Word) : (t.setS r v).s r = if r = 0 then 0 else v := by
  by_cases hr : r = 0
  · subst hr
    rfl
  · rw [s_setS, if_pos ⟨rfl, hr⟩, if_neg hr]

theorem Thread.setS_eq_with_sregs (t : Thread) (r : BitVec 5) (v : Word) :
    t.setS r v = { t with sregs := (t.setS r v).sregs } := by
  unfold Thread.setS; split <;> rfl

@[simp] theorem Thread.setS_flags (t : Thread) (r : BitVec 5) (v : Word) : (t.setS r v).flags = t.flags := by
  rw [setS_eq_with_sregs]

/-! The predicates. -/

theorem Thread.p_zero (t : Thread) : t.p 0 = true := rfl

theorem Thread.setP_zero (t : Thread) (b : Bool) : t.setP 0 b = t := rfl

theorem Thread.setP_of_ne {r : BitVec 3} (hr : r ≠ 0) (t : Thread) (b : Bool) :
    t.setP r b = { t with preds := putBit8 t.preds r.toNat b } := if_neg hr

theorem Thread.p_of_ne {r : BitVec 3} (hr : r ≠ 0) (t : Thread) : t.p r = t.preds.getLsbD r.toNat := if_neg hr

theorem getLsbD_putBit8 (w : BitVec 8) {i : Nat} (hi : i < 8) (b : Bool) (j : Nat) :
    (putBit8 w i b).getLsbD j = if j = i then b else w.getLsbD j := by
  unfold putBit8
  rw [← BitVec.twoPow_eq]
  cases b <;> grind

theorem Thread.p_setP (t : Thread) (r q : BitVec 3) (b : Bool) :
    (t.setP r b).p q = if q = r ∧ r ≠ 0 then b else t.p q := by
  by_cases hr : r = 0
  · rw [hr, setP_zero, if_neg fun h => h.2 rfl]
  by_cases hq : q = 0
  · rw [hq, p_zero, p_zero, if_neg fun h => hr h.1.symm]
  rw [setP_of_ne hr, p_of_ne hq, p_of_ne hq, getLsbD_putBit8 _ r.isLt]
  simp only [BitVec.toNat_inj, hr, ne_eq, not_false_eq_true, and_true]

theorem Thread.setP_eq_with_preds (t : Thread) (r : BitVec 3) (b : Bool) :
    t.setP r b = { t with preds := (t.setP r b).preds } := by
  unfold Thread.setP; split <;> rfl

/-! Past an instruction. -/

@[simp] theorem Thread.past_s (t : Thread) (n : Nat) (r : BitVec 5) : (t.past n).s r = t.s r := rfl

@[simp] theorem Thread.past_flags (t : Thread) (n : Nat) : (t.past n).flags = t.flags := rfl

@[simp] theorem withThread_core_th (s : State) (c : CoreId) (t : Thread) : ((withThread s c t).core c).th = t := by
  simp [withThread]

/-! Issue. -/

/-- R125 to R127: an instruction with legal words that is fetched with its guard on comes to its body. -/
theorem State.issue_of_executes {s : State} {c : CoreId} {guard : BitVec 4} {n : Nat} (h : Executes s c guard n)
    (body : State → State) : s.issue c guard false n body = body s := by
  obtain ⟨⟨hcan, x, hctx, hbad, hwaits⟩, hguard, hon⟩ := h
  have hbeq : (guard == 8) = false := beq_eq_false_iff_ne.mpr hguard
  simp only [State.issue, hcan, hctx, hbad, hwaits, hbeq, hon, Bool.not_true, Bool.or_false, Bool.false_eq_true, if_false]

/-- R148: an arithmetic instruction that executes writes s[D] and moves the program counter past one word. -/
theorem State.alu_of_executes {s : State} {c : CoreId} {o : AluForm} {isShift : Bool} (h : Executes s c (aluGuard o) 1)
    (hr : aluReserved o isShift = false) (f : Word → Word → Word) :
    s.alu c o isShift f = withThread s c
      (((s.core c).th.setS (aluD o) (f (aluArgs o (s.core c).th).1 (aluArgs o (s.core c).th).2)).past 1) := by
  rw [State.alu, hr, State.issue_of_executes h]
  rfl

/-- R126: the words of the register form that are no reserved encoding. -/
theorem aluReserved_reg {f : F0} (hsub : f.sub.toNat < 9) (hc : f.c = 0) (hx : f.x = 0) (hkt : f.kt = 0) (isShift : Bool) :
    aluReserved (.reg f) isShift = false := by
  simp [aluReserved, aluSub, Nat.not_le.mpr hsub, hc, hx, hkt]

/-! Two's complement. -/

theorem add_eq_ofInt_toInt {n : Nat} (a b : BitVec n) : a + b = BitVec.ofInt n (a.toInt + b.toInt) :=
  BitVec.eq_of_toInt_eq (by rw [BitVec.toInt_add, BitVec.toInt_ofInt])

theorem sub_eq_ofInt_toInt {n : Nat} (a b : BitVec n) : a - b = BitVec.ofInt n (a.toInt - b.toInt) :=
  BitVec.eq_of_toInt_eq (by rw [BitVec.toInt_sub, BitVec.toInt_ofInt])

theorem mul_eq_ofInt_toInt {n : Nat} (a b : BitVec n) : a * b = BitVec.ofInt n (a.toInt * b.toInt) :=
  BitVec.eq_of_toInt_eq (by rw [BitVec.toInt_mul, BitVec.toInt_ofInt])

/-! R119. -/

/-- An arithmetic instruction sets no flag, and s[D], unless it is s0, holds its result. -/
theorem State.alu_reg_result {s : State} {c : CoreId} {f : F0} {isShift : Bool} (h : Executes s c f.guard 1)
    (hr : aluReserved (.reg f) isShift = false) (g : Word → Word → Word) :
    (((s.alu c (.reg f) isShift g).core c).th.s f.d =
      if f.d = 0 then 0 else g ((s.core c).th.s f.a) ((s.core c).th.s f.b)) ∧
    ((s.alu c (.reg f) isShift g).core c).th.flags = (s.core c).th.flags := by
  rw [State.alu_of_executes h hr, withThread_core_th, Thread.past_s, Thread.past_flags, Thread.setS_flags]
  exact ⟨Thread.s_setS_same .., rfl⟩

/-- Settles O2: the laws of the two register files, and the one form of scalar arithmetic, which writes its result to s[D] alone. -/
theorem registerFiles : Obligations.RegisterFiles := by
  unfold Obligations.RegisterFiles
  intro t r q p w v b
  refine ⟨t.s_zero, t.p_zero, t.setS_zero v, t.setP_zero b, t.s_setS r q v, t.p_setP p w b,
    t.setS_eq_with_sregs r v, t.setP_eq_with_preds p b, ?_⟩
  intro c f s hexec hsub hc hx hkt
  have result (isShift : Bool) (g : Word → Word → Word) :=
    State.alu_reg_result hexec (aluReserved_reg hsub hc hx hkt isShift) g
  have quiet (isShift : Bool) (g : Word → Word → Word) := (result isShift g).2
  refine ⟨⟨_, rfl, ?add⟩, ⟨_, rfl, ?sub⟩, ⟨_, rfl, ?mul⟩, ⟨_, rfl, quiet ..⟩, ⟨_, rfl, quiet ..⟩, ⟨_, rfl, quiet ..⟩, ⟨_, rfl, quiet ..⟩,
    ⟨_, rfl, quiet ..⟩, ⟨_, rfl, quiet ..⟩⟩
  case add => exact add_eq_ofInt_toInt ((s.core c).th.s f.a) _ ▸ result false _
  case sub => exact sub_eq_ofInt_toInt ((s.core c).th.s f.a) _ ▸ result false _
  case mul => exact mul_eq_ofInt_toInt ((s.core c).th.s f.a) _ ▸ result false _

end Sys2Proof.Machine

/-! SUPPORT. The issue of a legal and of a reserved word, the fields that must be zero, and scalar arithmetic as numbers (R125, R126, R148). -/
namespace Sys2Proof.Machine

/-! Issue. -/

/-- R125, R127: an instruction whose words are legal, fetched with its guard on, comes to its body. -/
theorem State.issue_of_legal {s : State} {c : CoreId} {guard : BitVec 4} {n : Nat} {reserved : Bool} (h : Executes s c guard n)
    (hr : reserved = false) (body : State → State) : s.issue c guard reserved n body = body s := by
  rw [hr, State.issue_of_executes h]

/-- R126: a reserved encoding that is fetched faults at its own address, whatever its guard. -/
theorem State.issue_of_reserved {s : State} {c : CoreId} {guard : BitVec 4} {n : Nat} {reserved : Bool} (h : Fetches s c n)
    (hr : reserved = true) (body : State → State) :
    s.issue c guard reserved n body = s.fault c cReserved (s.core c).th.pc [] := by
  obtain ⟨hcan, x, hctx, hbad, hwaits⟩ := h
  simp only [State.issue, hcan, hctx, hbad, hwaits, hr, Bool.not_true, Bool.true_or, Bool.false_eq_true, if_false, if_true]

/-! Fields that must be zero. -/

theorem ushiftRight_eq_zero_iff_lt {w : Nat} (x : BitVec w) (k : Nat) : x >>> k = 0#w ↔ x.toNat < 2 ^ k := by
  rw [← BitVec.toNat_inj, BitVec.toNat_ushiftRight, Nat.shiftRight_eq_div_pow]
  exact Nat.div_eq_zero_iff_lt (Nat.two_pow_pos k)

theorem minorReserved_iff (f : F1) : minorReserved f = true ↔ 2 ≤ f.sub.toNat := by
  simp [minorReserved, ushiftRight_eq_zero_iff_lt, Nat.succ_le_iff]

theorem aluSub_eq_minor (o : AluForm) : aluSub o = o.minor := by cases o <;> rfl

theorem aluReserved_reg_iff (f : F0) (isShift : Bool) :
    aluReserved (.reg f) isShift = false ↔ f.sub.toNat < 9 ∧ f.c = 0 ∧ f.x = 0 ∧ f.kt = 0 := by
  rw [aluReserved, Bool.or_eq_false_iff, decide_eq_false_iff_not, Nat.not_le]
  simp [aluSub, and_assoc]

theorem aluReserved_imm_iff (f : F1) (isShift : Bool) :
    aluReserved (.imm f) isShift = false ↔ f.sub.toNat < 9 ∧ f.kt = 0 ∧ (isShift = true → f.imm.toNat < 64) := by
  rw [aluReserved, Bool.or_eq_false_iff, decide_eq_false_iff_not, Nat.not_le]
  simp [aluSub, ushiftRight_eq_zero_iff_lt]

/-! Words. -/

theorem sub_eq_ofInt_toNat {n : Nat} (a b : BitVec n) : a - b = BitVec.ofInt n ((a.toNat : Int) - b.toNat) := by
  rw [BitVec.sub_eq_add_neg, Int.sub_eq_add_neg, BitVec.ofInt_add, BitVec.ofInt_neg]
  simp

theorem mul_eq_ofNat_toNat {n : Nat} (a b : BitVec n) : a * b = BitVec.ofNat n (a.toNat * b.toNat) :=
  BitVec.eq_of_toNat_eq (by rw [BitVec.toNat_mul, BitVec.toNat_ofNat])

theorem and_eq_ofNat_toNat {n : Nat} (a b : BitVec n) : a &&& b = BitVec.ofNat n (a.toNat &&& b.toNat) := by
  simp [BitVec.ofNat_and]

theorem or_eq_ofNat_toNat {n : Nat} (a b : BitVec n) : a ||| b = BitVec.ofNat n (a.toNat ||| b.toNat) := by
  simp [BitVec.ofNat_or]

theorem xor_eq_ofNat_toNat {n : Nat} (a b : BitVec n) : a ^^^ b = BitVec.ofNat n (a.toNat ^^^ b.toNat) := by
  simp [BitVec.ofNat_xor]

theorem shiftLeft_eq_ofNat_toNat {n : Nat} (a : BitVec n) (k : Nat) : a <<< k = BitVec.ofNat n (a.toNat * 2 ^ k) :=
  BitVec.eq_of_toNat_eq (by rw [BitVec.toNat_shiftLeft, BitVec.toNat_ofNat, Nat.shiftLeft_eq])

theorem ushiftRight_eq_ofNat_toNat {n : Nat} (a : BitVec n) (k : Nat) : a >>> k = BitVec.ofNat n (a.toNat / 2 ^ k) := by
  rw [← Nat.shiftRight_eq_div_pow, ← BitVec.toNat_ushiftRight, BitVec.ofNat_toNat, BitVec.setWidth_eq]

theorem sshiftRight_eq_ofInt_toInt {n : Nat} (a : BitVec n) (k : Nat) : a.sshiftRight k = BitVec.ofInt n (a.toInt / 2 ^ k) := by
  rw [BitVec.sshiftRight_eq, Int.shiftRight_eq_div_pow, Int.natCast_pow]
  rfl

/-! R148. -/

theorem State.alu_of_reserved {s : State} {c : CoreId} {o : AluForm} {isShift : Bool} (h : Fetches s c 1)
    (hr : aluReserved o isShift = true) (f : Word → Word → Word) :
    s.alu c o isShift f = s.fault c cReserved (s.core c).th.pc [] := State.issue_of_reserved h hr _

/-- Settles O1: each function of Table 7.2 is the operation of the model's words, and an arithmetic instruction writes its result alone. -/
theorem arithmeticResults : Obligations.ArithmeticResults := by
  unfold Obligations.ArithmeticResults
  intro c o s hexec t a b done
  have result {isShift : Bool} (hr : aluReserved o isShift = false) {g : Word → Word → Word} {v : Word} (hv : g a b = v) :
      .next (s.alu c o isShift g) = done v := by
    rw [State.alu_of_executes hexec hr, ← hv]
  have bad {isShift : Bool} (hr : aluReserved o isShift = true) (g : Word → Word → Word) :
      (.next (s.alu c o isShift g) : Host.Outcome State Fault Refusal) = .next (s.fault c 0x01 t.pc []) :=
    congrArg _ (State.alu_of_reserved hexec.1 hr g)
  have minor (k : Nat) : aluSub o = k ↔ (o.minor == k) = true := by
    rw [aluSub_eq_minor, beq_iff_eq]
  refine ⟨fun hr => ?plain, fun hr => ?shift, ?addMinor, minor 1, minor 2, minor 3, minor 4, minor 5, minor 6, minor 7, minor 8,
    ?reg, ?imm, fun hr => ⟨bad hr _, bad hr _, bad hr _, bad hr _, bad hr _, bad hr _⟩, fun hr => ⟨bad hr _, bad hr _, bad hr _⟩⟩
  case plain =>
    exact ⟨result hr (BitVec.add_def a b), result hr (sub_eq_ofInt_toNat a b), result hr (mul_eq_ofNat_toNat a b),
      result hr (and_eq_ofNat_toNat a b), result hr (or_eq_ofNat_toNat a b), result hr (xor_eq_ofNat_toNat a b)⟩
  case shift =>
    exact ⟨result hr (shiftLeft_eq_ofNat_toNat a _), result hr (ushiftRight_eq_ofNat_toNat a _),
      result hr (sshiftRight_eq_ofInt_toInt a _)⟩
  case addMinor => simp [Instr.wf, aluSub_eq_minor]
  case reg =>
    rintro f rfl
    exact ⟨aluReserved_reg_iff f, rfl⟩
  case imm =>
    rintro f rfl
    exact ⟨by simp [aluReserved_imm_iff], by simp [aluReserved_imm_iff], rfl⟩

end Sys2Proof.Machine

/-! SUPPORT. Compare, select, constants, branches and calls by instruction: what each answers where it executes and where it is a
reserved encoding (R149 to R151, R153, R154). -/
namespace Sys2Proof.Machine

section
variable {s : State} {c : CoreId}

/-! R149. -/

theorem exec_cmp_of_executes {o : AluForm} (h : Executes s c (aluGuard o) 1) (hr : aluReserved o false = false)
    (hd : (aluD o).toNat < 8) (hsub : aluSub o < 6) :
    exec (.cmp c o) s = .next (withThread s c (((s.core c).th.setP ((aluD o).setWidth 3)
      (condHolds (aluSub o) (aluArgs o (s.core c).th).1 (aluArgs o (s.core c).th).2)).past 1)) := by
  refine congrArg Host.Outcome.next (State.issue_of_legal h ?_ _)
  simp [ushiftRight_eq_zero_iff_lt, hr, hd, hsub]

theorem exec_cmp_of_reserved {o : AluForm} (h : Fetches s c 1)
    (hr : aluReserved o false = true ∨ 8 ≤ (aluD o).toNat ∨ 6 ≤ aluSub o) :
    exec (.cmp c o) s = .next (s.fault c cReserved (s.core c).th.pc []) := by
  refine congrArg Host.Outcome.next (State.issue_of_reserved h ?_ _)
  simpa [ushiftRight_eq_zero_iff_lt, or_assoc] using hr

/-! R150. -/

theorem exec_sel_of_executes {f : F0} (h : Executes s c f.guard 1) (hx : f.x.toNat < 8) (hc : f.c = 0) (hsub : f.sub = 0)
    (hkt : f.kt = 0) :
    exec (.sel c f) s = .next (withThread s c (((s.core c).th.setS f.d
      (if (s.core c).th.p (f.x.setWidth 3) then (s.core c).th.s f.a else (s.core c).th.s f.b)).past 1)) := by
  refine congrArg Host.Outcome.next (State.issue_of_legal h ?_ _)
  simp [ushiftRight_eq_zero_iff_lt, hx, hc, hsub, hkt]

theorem exec_sel_of_reserved {f : F0} (h : Fetches s c 1) (hr : 8 ≤ f.x.toNat ∨ f.c ≠ 0) :
    exec (.sel c f) s = .next (s.fault c cReserved (s.core c).th.pc []) := by
  refine congrArg Host.Outcome.next (State.issue_of_reserved h ?_ _)
  simp only [Bool.or_eq_true, bne_iff_ne, ne_eq, BitVec.ofNat_eq_ofNat, ushiftRight_eq_zero_iff_lt, Nat.not_lt, Nat.reducePow]
  grind

/-! R151. -/

theorem liReserved_of_legal {f : F1} (hsub : f.sub.toNat < 2) (ha : f.a = 0) (hkt : f.kt = 0) :
    (f.a != 0 || f.kt != 0 || minorReserved f) = false := by
  simp [Bool.eq_false_iff.mpr (mt (minorReserved_iff f).mp (Nat.not_le.mpr hsub)), ha, hkt]

theorem liReserved_of_field {f : F1} (hr : f.a ≠ 0 ∨ 2 ≤ f.sub.toNat) : (f.a != 0 || f.kt != 0 || minorReserved f) = true := by
  simp only [Bool.or_eq_true, bne_iff_ne, minorReserved_iff]
  grind

/-- A 32-bit field put above the low half of a word. -/
theorem append_setWidth_eq_ofNat (i : BitVec 32) (w : Word) :
    i ++ w.setWidth 32 = BitVec.ofNat 64 (i.toNat * 2 ^ 32 + w.toNat % 2 ^ 32) := by
  have hlow : w.toNat % 2 ^ 32 < 2 ^ 32 := Nat.mod_lt _ (Nat.two_pow_pos 32)
  refine BitVec.eq_of_toNat_eq ?_
  rw [BitVec.toNat_append, BitVec.toNat_setWidth, ← Nat.shiftLeft_add_eq_or_of_lt hlow, Nat.shiftLeft_eq, BitVec.toNat_ofNat]
  exact (Nat.mod_eq_of_lt (by omega)).symm

theorem exec_li_of_executes {f : F1} (h : Executes s c f.guard 1) (hsub : f.sub.toNat < 2) (ha : f.a = 0) (hkt : f.kt = 0) :
    exec (.li c f) s = .next (withThread s c (((s.core c).th.setS f.d (BitVec.ofInt 64 f.imm.toInt)).past 1)) :=
  congrArg Host.Outcome.next (State.issue_of_legal h (liReserved_of_legal hsub ha hkt) _)

theorem exec_liHigh_of_executes {f : F1} (h : Executes s c f.guard 1) (hsub : f.sub.toNat < 2) (ha : f.a = 0) (hkt : f.kt = 0) :
    exec (.liHigh c f) s = .next (withThread s c (((s.core c).th.setS f.d
      (BitVec.ofNat 64 (f.imm.toNat * 2 ^ 32 + ((s.core c).th.s f.d).toNat % 2 ^ 32))).past 1)) := by
  rw [← append_setWidth_eq_ofNat]
  exact congrArg Host.Outcome.next (State.issue_of_legal h (liReserved_of_legal hsub ha hkt) _)

/-! R153. -/

theorem relTarget_eq (pc : Word) (imm : BitVec 32) : relTarget pc imm = pc + BitVec.ofInt 64 (8 * imm.toInt) := by
  rw [relTarget, BitVec.shiftLeft_eq_mul_twoPow, Int.mul_comm, BitVec.ofInt_mul]
  rfl

theorem exec_brc_of_executes {f : F1} (h : Executes s c f.guard 1) (hsub : f.sub.toNat < 6) (hkt : f.kt = 0) :
    exec (.brc c f) s = .next (withThread s c { (s.core c).th with
      pc := if condHolds f.sub.toNat ((s.core c).th.s f.d) ((s.core c).th.s f.a)
        then (s.core c).th.pc + BitVec.ofInt 64 (8 * f.imm.toInt) else (s.core c).th.pc + 8 }) := by
  refine congrArg Host.Outcome.next ((State.issue_of_legal h (by simp [hsub, hkt]) _).trans ?_)
  rw [← relTarget_eq]
  dsimp only
  split <;> rfl

theorem exec_brc_of_reserved {f : F1} (h : Fetches s c 1) (hsub : 6 ≤ f.sub.toNat) :
    exec (.brc c f) s = .next (s.fault c cReserved (s.core c).th.pc []) :=
  congrArg Host.Outcome.next (State.issue_of_reserved h (by simp [hsub]) _)

end

/-- Settles O3: the codes of Table 7.3 compare the words themselves, and each instruction writes its own destination alone. -/
theorem compareSelectConstants : Obligations.CompareSelectConstants := by
  unfold Obligations.CompareSelectConstants
  intro c o f g s t done condition
  have holds {code : Nat} (hcode : code < 6) (x y : Word) : condHolds code x y = condition code x y := by
    match code, hcode with
    | 0, _ => rfl
    | 1, _ => exact (decide_not ..).symm
    | 2, _ => exact BitVec.slt_eq_decide
    | 3, _ => exact BitVec.sle_eq_not_slt.symm.trans BitVec.sle_eq_decide
    | 4, _ => exact BitVec.ult_eq_decide
    | 5, _ => exact (BitVec.ule_eq_not_ult ..).symm.trans BitVec.ule_eq_decide
  refine ⟨fun h hr hd hsub => ?cmp, fun h hsub hkt => ?brc, exec_sel_of_executes, ?li, exec_cmp_of_reserved, exec_brc_of_reserved,
    exec_sel_of_reserved, ?liWf, ?liHighWf, fun h hr => ?liReserved⟩
  case cmp => rw [exec_cmp_of_executes h hr hd hsub, holds hsub]
  case brc =>
    rw [exec_brc_of_executes h hsub hkt, holds hsub]
    simp only [Bool.cond_eq_ite]
    rfl
  case li => exact fun h hsub ha hkt => ⟨exec_li_of_executes h hsub ha hkt, exec_liHigh_of_executes h hsub ha hkt⟩
  case liWf => exact bne_iff_ne.symm
  case liHighWf => exact beq_iff_eq.symm
  case liReserved =>
    exact ⟨congrArg _ (State.issue_of_reserved h (liReserved_of_field hr) _),
      congrArg _ (State.issue_of_reserved h (liReserved_of_field hr) _)⟩

section
variable {s : State} {c : CoreId}

theorem and_seven_eq_zero_iff (w : Word) : w &&& 7#64 = 0#64 ↔ w.toNat % 8 = 0 := by
  rw [← BitVec.toNat_inj, BitVec.toNat_and]
  exact iff_of_eq (congrArg (· = 0) (Nat.and_two_pow_sub_one_eq_mod w.toNat 3))

theorem State.jumpChecked_of_aligned {target : Word} (h : target.toNat % 8 = 0) (f : Thread → Thread) :
    s.jumpChecked c target f = withThread s c { f (s.core c).th with pc := target } := by
  rw [State.jumpChecked, if_neg (by simp [and_seven_eq_zero_iff, h])]
  rfl

/-- R154: a misaligned indirect target faults at the branch. -/
theorem State.jumpChecked_of_misaligned {target : Word} (h : target.toNat % 8 ≠ 0) (f : Thread → Thread) :
    s.jumpChecked c target f = s.fault c cAlignment (s.core c).th.pc [] := by
  rw [State.jumpChecked, if_pos (by simp [and_seven_eq_zero_iff, h])]

/-- An indirect BR that executes jumps, with its check, to s[A] + sext(IMM). -/
theorem exec_brIndirect_of_executes {f : F1} (h : Executes s c f.guard 1) (hkt : f.kt = 0) (hsub : f.sub = 1) (hd : f.d = 0) :
    exec (.brIndirect c f) s = .next (s.jumpChecked c ((s.core c).th.s f.a + BitVec.ofInt 64 f.imm.toInt) id) :=
  congrArg Host.Outcome.next (State.issue_of_legal h (by simp [minorReserved, hkt, hsub, hd]) _)

theorem exec_callIndirect_of_executes {f : F1} (h : Executes s c f.guard 1) (hkt : f.kt = 0) (hsub : f.sub = 1) :
    exec (.callIndirect c f) s = .next (s.jumpChecked c ((s.core c).th.s f.a + BitVec.ofInt 64 f.imm.toInt)
      (fun t => t.setS f.d (t.pc + 8))) :=
  congrArg Host.Outcome.next (State.issue_of_legal h (by simp [minorReserved, hkt, hsub]) _)

theorem exec_br_of_executes {f : F1} (h : Executes s c f.guard 1) (hkt : f.kt = 0) (hsub : f.sub = 0) (hd : f.d = 0) (ha : f.a = 0) :
    exec (.br c f) s = .next (withThread s c { (s.core c).th with pc := (s.core c).th.pc + BitVec.ofInt 64 (8 * f.imm.toInt) }) := by
  rw [← relTarget_eq]
  exact congrArg Host.Outcome.next (State.issue_of_legal h (by simp [minorReserved, hkt, hsub, hd, ha]) _)

theorem exec_call_of_executes {f : F1} (h : Executes s c f.guard 1) (hkt : f.kt = 0) (hsub : f.sub = 0) (ha : f.a = 0) :
    exec (.call c f) s = .next (withThread s c { (s.core c).th.setS f.d ((s.core c).th.pc + 8) with
      pc := (s.core c).th.pc + BitVec.ofInt 64 (8 * f.imm.toInt) }) := by
  rw [← relTarget_eq]
  exact congrArg Host.Outcome.next (State.issue_of_legal h (by simp [minorReserved, hkt, hsub, ha]) _)

theorem exec_ret_of_executes {f : F0} (h : Executes s c f.guard 1) (hd : f.d = 0) (hb : f.b = 0) (hc : f.c = 0) (hx : f.x = 0)
    (hsub : f.sub = 0) (hkt : f.kt = 0) :
    exec (.ret c f) s = .next (s.jumpChecked c ((s.core c).th.s f.a) id) :=
  congrArg Host.Outcome.next (State.issue_of_legal h (by simp [hd, hb, hc, hx, hsub, hkt]) _)

end

/-- Settles O4: a relative target is taken from the program counter, an indirect one passes the check of R154, and CALL alone writes. -/
theorem branchTargets : Obligations.BranchTargets := by
  unfold Obligations.BranchTargets
  intro c f r s t rel ind go
  refine ⟨fun h hkt => ⟨?br, fun hsub hd hal => ?brIndirect, fun hsub => exec_brc_of_executes h hsub hkt, ?call, fun hsub hal => ?callIndirect⟩,
    fun h hd hb hc hx hsub hkt hal => ?ret, bne_iff_ne.symm, beq_iff_eq.symm, bne_iff_ne.symm, beq_iff_eq.symm,
    fun h hsub => ?reservedMinor, fun h hr => ?reservedRet, fun h hkt hsub hal => ⟨fun hd => ?brMisaligned, ?callMisaligned⟩⟩
  case br => exact exec_br_of_executes h hkt
  case brIndirect => rw [exec_brIndirect_of_executes h hkt hsub hd, State.jumpChecked_of_aligned hal]; rfl
  case call => exact exec_call_of_executes h hkt
  case callIndirect => rw [exec_callIndirect_of_executes h hkt hsub, State.jumpChecked_of_aligned hal]
  case ret => rw [exec_ret_of_executes h hd hb hc hx hsub hkt, State.jumpChecked_of_aligned hal]; rfl
  case reservedMinor =>
    have hminor : minorReserved f = true := (minorReserved_iff f).mpr hsub
    exact ⟨congrArg _ (State.issue_of_reserved h (by simp [hminor]) _), congrArg _ (State.issue_of_reserved h (by simp [hminor]) _)⟩
  case reservedRet =>
    refine congrArg _ (State.issue_of_reserved h ?_ _)
    simp only [Bool.or_eq_true, bne_iff_ne]
    grind
  case brMisaligned => rw [exec_brIndirect_of_executes h hkt hsub hd, State.jumpChecked_of_misaligned hal]; rfl
  case callMisaligned => rw [exec_callIndirect_of_executes h hkt hsub, State.jumpChecked_of_misaligned hal]; rfl

end Sys2Proof.Machine

/-! SUPPORT. Holds: WAIT, FENCE, BELL.WAIT and their releases (R130, R133, R170 to R172). -/
namespace Sys2Proof.Machine

theorem mapSet_mapSet_same {α : Type} (m : SMap α) (a : Nat) (x y : α) : mapSet (mapSet m a x) a y = mapSet m a y := by
  induction m with
  | nil => simp [mapSet]
  | cons e m ih =>
    obtain ⟨k, v⟩ := e
    rcases Nat.lt_trichotomy a k with hlt | rfl | hgt
    · simp [mapSet, hlt]
    · simp [mapSet]
    · simp [mapSet, Nat.not_lt_of_gt hgt, Nat.ne_of_gt hgt, ih]

theorem State.setCore_setCore_same (s : State) (c : CoreId) (k l : Core) : (s.setCore c k).setCore c l = s.setCore c l := by
  simp only [State.setCore, mapSet_mapSet_same]

/-- A release that writes the thread first. -/
theorem State.release_modTh (s : State) (c : CoreId) (f : Thread → Thread) :
    (s.modTh c f).release c = s.setCore c { s.core c with hold := none, th := (f (s.core c).th).past 1 } := by
  rw [State.release, State.modTh, State.modCore, State.core_modCore_same, State.modCore, State.setCore_setCore_same]
  rfl

/-- R171: bit e of the mask selects the engine of number e, bit 6 the posted stores. -/
theorem fenceMet_iff (k : Core) (r : BitVec 7) :
    fenceMet k r = true ↔
      (∀ e ∈ allEngines, r.getLsbD (engFin e).val = true → ∀ i ∈ k.queue e, i.phase = .finished) ∧
      (r.getLsbD 6 = true → k.posted = []) := by
  simp only [fenceMet, Bool.and_eq_true, List.all_eq_true, Bool.or_eq_true, Bool.not_eq_true', ← Bool.not_eq_true, beq_iff_eq,
    List.isEmpty_iff, ← Decidable.imp_iff_not_or]

section
variable {s : State} {c : CoreId} {f : F1}

/-! Issue. -/

theorem exec_wait_of_executes (h : Executes s c f.guard 1) (hd : f.d = 0) (ha : f.a = 0) (hsub : f.sub = 0) (hn : f.imm.toNat < 1024) :
    exec (.wait c f) s = .next (if ((s.core c).th.tok f.kt).toNat ≤ f.imm.toNat then withThread s c ((s.core c).th.past 1)
      else s.setCore c { s.core c with hold := some (.wait f.kt f.imm.toNat) }) := by
  have himm : (f.imm.setWidth 10).toNat = f.imm.toNat := by rw [BitVec.toNat_setWidth, Nat.mod_eq_of_lt hn]
  refine congrArg Host.Outcome.next ((State.issue_of_legal h ?_ _).trans ?_)
  · simp [ushiftRight_eq_zero_iff_lt, hd, ha, hsub, hn]
  · simp only [himm, waitMet, decide_eq_true_eq]
    rfl

theorem exec_wait_of_reserved (h : Fetches s c 1) (hr : 1024 ≤ f.imm.toNat ∨ f.d ≠ 0 ∨ f.a ≠ 0 ∨ f.sub ≠ 0) :
    exec (.wait c f) s = .next (s.fault c cReserved (s.core c).th.pc []) := by
  refine congrArg Host.Outcome.next (State.issue_of_reserved h ?_ _)
  simp only [Bool.or_eq_true, bne_iff_ne, ne_eq, BitVec.ofNat_eq_ofNat, ushiftRight_eq_zero_iff_lt, Nat.not_lt, Nat.reducePow]
  grind

theorem exec_fence_of_executes (h : Executes s c f.guard 1) (hd : f.d = 0) (ha : f.a = 0) (hsub : f.sub = 0) (hkt : f.kt = 0)
    (hlt : f.imm.toNat < 128) (hne : f.imm.toNat ≠ 0) :
    exec (.fence c f) s = .next (if fenceMet (s.core c) (f.imm.setWidth 7) then withThread s c ((s.core c).th.past 1)
      else s.setCore c { s.core c with hold := some (.fence (f.imm.setWidth 7)) }) := by
  have himm : f.imm ≠ 0#32 := fun h0 => hne (congrArg BitVec.toNat h0)
  refine congrArg Host.Outcome.next (State.issue_of_legal h ?_ _)
  simp [ushiftRight_eq_zero_iff_lt, hd, ha, hsub, hkt, hlt, himm]

theorem exec_fence_of_reserved (h : Fetches s c 1) (hr : 128 ≤ f.imm.toNat ∨ f.imm.toNat = 0) :
    exec (.fence c f) s = .next (s.fault c cReserved (s.core c).th.pc []) := by
  have himm : f.imm.toNat = 0 ↔ f.imm = 0#32 := BitVec.toNat_inj (y := 0#32)
  refine congrArg Host.Outcome.next (State.issue_of_reserved h ?_ _)
  simp only [Bool.or_eq_true, bne_iff_ne, beq_iff_eq, ne_eq, BitVec.ofNat_eq_ofNat, ushiftRight_eq_zero_iff_lt,
    Nat.not_lt, Nat.reducePow, ← himm]
  grind

theorem exec_bellWait_of_executes (h : Executes s c f.guard 1) (hd : f.d.toNat < 8) (hsub : f.sub = 0) (hkt : f.kt = 0) :
    exec (.bellWait c f) s =
      .next (if ((s.core c).th.s f.a + BitVec.ofInt 64 f.imm.toInt).toNat ≤ s.bell
        then withThread s c (((s.core c).th.setP (f.d.setWidth 3) true).past 1)
        else s.setCore c { s.core c with
          hold := some (.bellWait (f.d.setWidth 3) ((s.core c).th.s f.a + BitVec.ofInt 64 f.imm.toInt)) }) := by
  refine congrArg Host.Outcome.next ((State.issue_of_legal h ?_ _).trans ?_)
  · simp [ushiftRight_eq_zero_iff_lt, hd, hsub, hkt]
  · simp only [bellReached, decide_eq_true_eq]
    rfl

/-! Release. -/

theorem exec_waitRelease_of_met {r : BitVec 4} {j : Nat} (hcan : canHold s c = true) (hold : (s.core c).hold = some (.wait r j))
    (hmet : ((s.core c).th.tok r).toNat ≤ j) :
    exec (.waitRelease c) s = .next (s.setCore c { s.core c with hold := none, th := (s.core c).th.past 1 }) := by
  change execWaitRelease c s = _
  simp only [execWaitRelease, hold, hcan, waitMet, hmet, decide_true, Bool.and_self, if_true]
  rfl

theorem exec_fenceRelease_of_met {r : BitVec 7} (hcan : canHold s c = true) (hold : (s.core c).hold = some (.fence r))
    (hmet : fenceMet (s.core c) r = true) :
    exec (.fenceRelease c) s = .next (s.setCore c { s.core c with hold := none, th := (s.core c).th.past 1 }) := by
  change execFenceRelease c s = _
  simp only [execFenceRelease, hold, hcan, hmet, Bool.and_self, if_true]
  rfl

theorem exec_bellWaitRelease_of_met {r : BitVec 3} {u : Word} (hcan : canHold s c = true)
    (hold : (s.core c).hold = some (.bellWait r u)) (hmet : u.toNat ≤ s.bell) :
    exec (.bellWaitRelease c) s =
      .next (s.setCore c { s.core c with hold := none, th := ((s.core c).th.setP r false).past 1 }) := by
  change execBellWaitRelease c s = _
  simp only [execBellWaitRelease, hold, hcan, bellReached, hmet, decide_true, Bool.and_self, if_true, State.release_modTh]

end

/-- Settles O8: each wait tests its condition once at issue and again at its release, and either passes the one word. -/
theorem waitsAndReleases : Obligations.WaitsAndReleases := by
  unfold Obligations.WaitsAndReleases
  intro c f s k pass hold freed n m t d
  refine ⟨fun h hd ha hsub hn => ?wait, fun r j => exec_waitRelease_of_met, fun h hd ha hsub hkt hlt hne => ?fence,
    fun r => exec_fenceRelease_of_met, fun h hd hsub hkt => ?bellWait, fun r u => exec_bellWaitRelease_of_met, exec_wait_of_reserved,
    exec_fence_of_reserved, fun r => ?met⟩
  case wait => exact (exec_wait_of_executes h hd ha hsub hn).trans (apply_ite ..)
  case fence => exact (exec_fence_of_executes h hd ha hsub hkt hlt hne).trans (apply_ite ..)
  case bellWait => exact (exec_bellWait_of_executes h hd hsub hkt).trans (apply_ite ..)
  case met =>
    change _ ↔ (∀ b ∈ allEngines.map fun e => ((engFin e).val, e), _) ∧ _
    rw [List.forall_mem_map]
    exact fenceMet_iff k r

end Sys2Proof.Machine

/-! SUPPORT. FILL_DEFAULT and the default routes (R363 of spec/14_quaz_links_bell.md): the hop round one ring, the coordinates of a chip
number, and the two together as the dimension-ordered path. -/
namespace Sys2Proof.Machine

/-! The table that FILL_DEFAULT writes. -/

theorem mapGet_map_range' {α : Type} (f : Nat → α) {a : Nat} (n : Nat) :
    ∀ lo, lo ≤ a → a < lo + n → mapGet ((List.range' lo n).map fun k => (k, f k)) a = some (f a) := by
  induction n with
  | zero => intro lo hlo hlt; omega
  | succ n ih =>
    intro lo hlo hlt
    rw [List.range'_succ, List.map_cons, mapGet]
    rcases Nat.eq_or_lt_of_le hlo with rfl | hgt
    · exact if_pos rfl
    · rw [if_neg (Nat.ne_of_gt hgt), if_neg (Nat.lt_asymm hgt), ih (lo + 1) hgt (by omega)]

theorem mapGet_tabulate {α : Type} (f : Nat → α) {a n : Nat} (h : a < n) : mapGet (tabulate n fun k => (k, f k)) a = some (f a) := by
  rw [tabulate, List.range_eq_range']
  exact mapGet_map_range' f n 0 a.zero_le (by omega)

theorem routeOf_fillRoutes (s : State) (chip : BitVec 12) : routeOf s.fillRoutes chip = defaultEntry s.chipId s.dims chip := by
  rw [routeOf, State.fillRoutes, mapGet_tabulate (fun n => defaultEntry s.chipId s.dims (BitVec.ofNat 12 n)) chip.isLt,
    Option.getD_some, BitVec.ofNat_toNat, BitVec.setWidth_eq]

theorem State.unstick_of_none_held {s : State} (h : s.stuck = []) : s.unstick = s := by
  rw [State.unstick, h, List.foldl_nil, ← h]

theorem State.fillRoutes_stuck (s : State) : s.fillRoutes.stuck = s.stuck := by
  rw [State.fillRoutes]

theorem State.fillRoutes_eq_with_routes (s : State) : s.fillRoutes = { s with routes := s.fillRoutes.routes } := by
  rw [State.fillRoutes]

theorem exec_fillDefault_of_up {s : State} (hup : s.up = true) (h : s.stuck = []) : exec .fillDefault s = .next s.fillRoutes := by
  change execFillDefault s = _
  rw [execFillDefault, if_pos hup, State.unstick_of_none_held (s.fillRoutes_stuck.trans h)]

/-! The hop round one ring of `n` from coordinate `x` toward `y`. -/

/-- The hop goes the + way. -/
def ringPlus (x y n : Nat) : Bool := decide ((y + n - x) % n ≤ (x + n - y) % n)

/-- The wrap link lies on the rest of the way, this hop included. -/
def ringWraps (x y n : Nat) : Bool := if ringPlus x y n then decide (y < x) else decide (x < y)

/-- This hop goes over the wrap link. -/
def ringCrosses (x y n : Nat) : Bool := if ringPlus x y n then x + 1 == n else x == 0

/-- The coordinate after this hop. -/
def ringNext (x y n : Nat) : Nat := if ringPlus x y n then (x + 1) % n else (x + n - 1) % n

/-- The hops of the shorter way. -/
def ringDistance (x y n : Nat) : Nat := min ((y + n - x) % n) ((x + n - y) % n)

theorem ringEntry_eq (d x y n : Nat) :
    ringEntry d x y n = BitVec.ofNat 8 (2 * d + (!ringPlus x y n).toNat + (!ringWraps x y n).toNat * 24) := rfl

/-- The fields of Table 14.9 in the entry of a hop. -/
theorem ringEntry_fields {d : Nat} (hd : d < 3) (x y n : Nat) :
    (ringEntry d x y n).toNat % 8 / 2 = d ∧ (ringEntry d x y n).toNat % 2 = (!ringPlus x y n).toNat ∧
      (ringEntry d x y n).toNat / 2 ^ 5 = 0 ∧ (ringEntry d x y n).getLsbD 3 = !ringWraps x y n ∧
      (ringEntry d x y n).getLsbD 4 = !ringWraps x y n := by
  rw [ringEntry_eq]
  generalize ringPlus x y n = plus
  generalize ringWraps x y n = wraps
  revert d plus wraps
  decide

section
variable {x y n : Nat}

/-- The steps from `x` up to `y` round a ring of `n`. -/
theorem ringAhead_eq (hx : x < n) (hy : y < n) : (y + n - x) % n = if x ≤ y then y - x else y + n - x := by
  split
  next h => rw [show y + n - x = y - x + n by omega, Nat.add_mod_right, Nat.mod_eq_of_lt (by omega)]
  next h => exact Nat.mod_eq_of_lt (by omega)

theorem ringPlus_iff (hx : x < n) (hy : y < n) :
    ringPlus x y n = true ↔ (x ≤ y ∧ 2 * (y - x) ≤ n) ∨ (y < x ∧ n ≤ 2 * (x - y)) := by
  rw [ringPlus, decide_eq_true_iff, ringAhead_eq hx hy, ringAhead_eq hy hx]
  split <;> split <;> omega

theorem ringDistance_eq (hx : x < n) (hy : y < n) : ringDistance x y n = min (max x y - min x y) (n - (max x y - min x y)) := by
  rw [ringDistance, ringAhead_eq hx hy, ringAhead_eq hy hx]
  split <;> split <;> omega

/-- A hop goes the + way or the − way, and over the wrap link or short of it. -/
theorem ringNext_cases (hx : x < n) (y : Nat) :
    (ringPlus x y n = true ∧ ringCrosses x y n = true ∧ x + 1 = n ∧ ringNext x y n = 0) ∨
    (ringPlus x y n = true ∧ ringCrosses x y n = false ∧ x + 1 < n ∧ ringNext x y n = x + 1) ∨
    (ringPlus x y n = false ∧ ringCrosses x y n = true ∧ x = 0 ∧ ringNext x y n = n - 1) ∨
    (ringPlus x y n = false ∧ ringCrosses x y n = false ∧ 0 < x ∧ ringNext x y n = x - 1) := by
  rw [ringCrosses, ringNext]
  cases hp : ringPlus x y n with
  | true =>
    rcases Nat.eq_or_lt_of_le (Nat.succ_le_of_lt hx) with rfl | hlt
    · simp
    · simp [hlt, Nat.ne_of_lt hlt, Nat.mod_eq_of_lt]
  | false =>
    rcases Nat.eq_zero_or_pos x with rfl | hpos
    · simp [Nat.mod_eq_of_lt (Nat.sub_one_lt_of_lt hx)]
    · have hmod : (x + n - 1) % n = x - 1 := by
        rw [show x + n - 1 = x - 1 + n by omega, Nat.add_mod_right, Nat.mod_eq_of_lt (by omega)]
      simp [hpos, Nat.ne_of_gt hpos, hmod]

theorem ringNext_cases_of_ringCrosses (hx : x < n) (hc : ringCrosses x y n = true) :
    (ringPlus x y n = true ∧ x + 1 = n ∧ ringNext x y n = 0) ∨ (ringPlus x y n = false ∧ x = 0 ∧ ringNext x y n = n - 1) := by
  simpa [hc] using ringNext_cases hx y

theorem ringNext_cases_of_not_ringCrosses (hx : x < n) (hc : ringCrosses x y n = false) :
    (ringPlus x y n = true ∧ ringNext x y n = x + 1) ∨ (ringPlus x y n = false ∧ 0 < x ∧ ringNext x y n = x - 1) := by
  rcases ringNext_cases hx y with ⟨-, hc', -⟩ | ⟨hp, -, -, hn⟩ | ⟨-, hc', -⟩ | ⟨hp, -, hpos, hn⟩
  · rw [hc] at hc'; cases hc'
  · exact .inl ⟨hp, hn⟩
  · rw [hc] at hc'; cases hc'
  · exact .inr ⟨hp, hpos, hn⟩

theorem ringNext_lt (hx : x < n) (y : Nat) : ringNext x y n < n := by
  rcases ringNext_cases hx y with ⟨-, -, h, hn⟩ | ⟨-, -, h, hn⟩ | ⟨-, -, h, hn⟩ | ⟨-, -, h, hn⟩ <;> omega

/-- Each hop takes one from the distance. -/
theorem ringDistance_ringNext (hx : x < n) (hy : y < n) (hne : x ≠ y) :
    ringDistance x y n = ringDistance (ringNext x y n) y n + 1 := by
  rw [ringDistance_eq hx hy, ringDistance_eq (ringNext_lt hx y) hy]
  have hplus := ringPlus_iff hx hy
  rcases ringNext_cases hx y with ⟨hp, -, h, hn⟩ | ⟨hp, -, h, hn⟩ | ⟨hp, -, h, hn⟩ | ⟨hp, -, h, hn⟩ <;>
    simp only [hp, true_iff, Bool.false_eq_true, false_iff] at hplus <;> omega

/-- Short of the destination a packet keeps to its way round the ring. -/
theorem ringPlus_ringNext (hx : x < n) (hy : y < n) (hne : x ≠ y) (hnext : ringNext x y n ≠ y) :
    ringPlus (ringNext x y n) y n = ringPlus x y n := by
  rw [Bool.eq_iff_iff, ringPlus_iff (ringNext_lt hx y) hy]
  have hplus := ringPlus_iff hx hy
  rcases ringNext_cases hx y with ⟨hp, -, h, hn⟩ | ⟨hp, -, h, hn⟩ | ⟨hp, -, h, hn⟩ | ⟨hp, -, h, hn⟩ <;>
    simp only [hp, true_iff, iff_true, Bool.false_eq_true, iff_false, false_iff] at hplus ⊢ <;> omega

theorem ringWraps_of_ringCrosses (hx : x < n) (hy : y < n) (hne : x ≠ y) (hc : ringCrosses x y n = true) :
    ringWraps x y n = true := by
  rcases ringNext_cases_of_ringCrosses hx hc with ⟨hp, h, -⟩ | ⟨hp, h, -⟩
  · simp only [ringWraps, hp, if_true, decide_eq_true_iff]; omega
  · simp only [ringWraps, hp, Bool.false_eq_true, if_false, decide_eq_true_iff]; omega

/-- Past the wrap link no second one lies ahead. -/
theorem ringWraps_ringNext_of_ringCrosses (hx : x < n) (hy : y < n) (hne : x ≠ y) (hc : ringCrosses x y n = true)
    (hnext : ringNext x y n ≠ y) : ringWraps (ringNext x y n) y n = false := by
  rw [ringWraps, ringPlus_ringNext hx hy hne hnext]
  rcases ringNext_cases_of_ringCrosses hx hc with ⟨hp, -, hn⟩ | ⟨hp, -, hn⟩
  · simp [hp, hn]
  · simp only [hp, hn, Bool.false_eq_true, if_false, decide_eq_false_iff_not]; omega

theorem ringWraps_of_ringNext_eq (hx : x < n) (hc : ringCrosses x y n = false) (hnext : ringNext x y n = y) :
    ringWraps x y n = false := by
  rcases ringNext_cases_of_not_ringCrosses hx hc with ⟨hp, hn⟩ | ⟨hp, hpos, hn⟩
  · simp only [ringWraps, hp, if_true, decide_eq_false_iff_not]; omega
  · simp only [ringWraps, hp, Bool.false_eq_true, if_false, decide_eq_false_iff_not]; omega

/-- A hop short of the wrap link leaves it ahead as it was. -/
theorem ringWraps_ringNext (hx : x < n) (hy : y < n) (hne : x ≠ y) (hc : ringCrosses x y n = false) (hnext : ringNext x y n ≠ y) :
    ringWraps (ringNext x y n) y n = ringWraps x y n := by
  rw [ringWraps, ringPlus_ringNext hx hy hne hnext, ringWraps]
  rcases ringNext_cases_of_not_ringCrosses hx hc with ⟨hp, hn⟩ | ⟨hp, hpos, hn⟩
  · simp only [hp, if_true, decide_eq_decide]; omega
  · simp only [hp, Bool.false_eq_true, if_false, decide_eq_decide]; omega

theorem ringDistance_le_half (hx : x < n) (hy : y < n) : ringDistance x y n ≤ n / 2 := by
  rw [ringDistance_eq hx hy]
  omega

theorem ringPlus_of_tie (hx : x < n) (hy : y < n) (h : 2 * ringDistance x y n = n) : ringPlus x y n = true := by
  rw [ringDistance_eq hx hy] at h
  rw [ringPlus_iff hx hy]
  omega

end

/-! The coordinates of a chip number (Table 1.2). -/

theorem coordinate_eq (chip : BitVec 12) (d : Nat) : coordinate chip d = chip.toNat / 16 ^ d % 16 := by
  rw [coordinate, bitField, Nat.shiftRight_eq_div_pow, Nat.pow_mul, show 4 * d + 3 + 1 - 4 * d = 4 by omega, show 2 ^ 4 = 16 by rfl]

theorem dimension_le (dims : BitVec 12) (d : Nat) : dimension dims d ≤ 16 := by
  have h := coordinate_eq dims d
  change coordinate dims d + 1 ≤ 16
  omega

theorem chip_eq_of_coordinate_eq {x y : BitVec 12} (h : ∀ d < 3, coordinate x d = coordinate y d) : x = y := by
  have h0 := h 0 (by decide)
  have h1 := h 1 (by decide)
  have h2 := h 2 (by decide)
  simp only [coordinate_eq, Nat.reducePow] at h0 h1 h2
  have hx := x.isLt
  have hy := y.isLt
  apply BitVec.eq_of_toNat_eq
  omega

/-- The dimensions X, Y, Z. -/
theorem lt_three_cases {d : Nat} (h : d < 3) : d = 0 ∨ d = 1 ∨ d = 2 := by omega

/-- The chip with one coordinate replaced. -/
def withCoordinate (chip : BitVec 12) (d v : Nat) : BitVec 12 := BitVec.ofNat 12 (chip.toNat - coordinate chip d * 16 ^ d + v * 16 ^ d)

theorem coordinate_withCoordinate (chip : BitVec 12) {d v a : Nat} (hd : d < 3) (hv : v < 16) (ha : a < 3) :
    coordinate (withCoordinate chip d v) a = if a = d then v else coordinate chip a := by
  have hchip := chip.isLt
  simp only [withCoordinate, coordinate_eq, BitVec.toNat_ofNat]
  rcases lt_three_cases hd with rfl | rfl | rfl <;> rcases lt_three_cases ha with rfl | rfl | rfl <;>
    simp only [Nat.reducePow, Nat.reduceEqDiff, if_true, if_false] <;> omega

/-! One hop of a default route. -/

/-- Dimension `d` is the first, in the order X, Y, Z, in which two chips differ. -/
structure FirstDifference (x y : BitVec 12) (d : Nat) : Prop where
  lt : d < 3
  ne : coordinate x d ≠ coordinate y d
  below : ∀ a < d, coordinate x a = coordinate y a

theorem exists_firstDifference {x y : BitVec 12} (h : x ≠ y) : ∃ d, FirstDifference x y d := by
  rcases Decidable.em (coordinate x 0 = coordinate y 0) with h0 | h0
  · rcases Decidable.em (coordinate x 1 = coordinate y 1) with h1 | h1
    · refine ⟨2, by decide, fun h2 => h (chip_eq_of_coordinate_eq fun d hd => ?_), fun a ha => ?_⟩
      · rcases lt_three_cases hd with rfl | rfl | rfl <;> assumption
      · rcases Nat.le_one_iff_eq_zero_or_eq_one.mp (Nat.le_of_lt_succ ha) with rfl | rfl <;> assumption
    · exact ⟨1, by decide, h1, fun a ha => Nat.lt_one_iff.mp ha ▸ h0⟩
  · exact ⟨0, by decide, h0, fun a ha => absurd ha a.not_lt_zero⟩

theorem defaultEntry_self (own dims : BitVec 12) : defaultEntry own dims own = 6 := if_pos rfl

section
variable {own dims dst : BitVec 12} {d : Nat}

theorem defaultEntry_of_firstDifference (hdst : InTorus dims dst) (h : FirstDifference own dst d) :
    defaultEntry own dims dst = ringEntry d (coordinate own d) (coordinate dst d) (dimension dims d) := by
  obtain ⟨hd, hne, hbelow⟩ := h
  have hother : dst ≠ own := by rintro rfl; exact hne rfl
  have hinside : (List.range 3).any (fun d => decide (dimension dims d ≤ coordinate dst d)) = false := by
    simpa [InTorus] using hdst
  rw [defaultEntry, if_neg hother, hinside, if_neg Bool.false_ne_true]
  rcases lt_three_cases hd with rfl | rfl | rfl
  · exact if_pos hne
  · rw [if_neg (not_not_intro (hbelow 0 (by decide)))]; exact if_pos hne
  · rw [if_neg (not_not_intro (hbelow 0 (by decide))), if_neg (not_not_intro (hbelow 1 (by decide)))]

theorem nextChip_ringEntry (hd : d < 3) (y : Nat) :
    nextChip dims own (ringEntry d (coordinate own d) y (dimension dims d)) =
      withCoordinate own d (ringNext (coordinate own d) y (dimension dims d)) := by
  obtain ⟨hdim, hway, -, -, -⟩ := ringEntry_fields hd (coordinate own d) y (dimension dims d)
  simp only [nextChip, hdim, hway, withCoordinate, ringNext]
  cases ringPlus (coordinate own d) y (dimension dims d) <;> rfl

theorem crossesWrap_ringEntry (hd : d < 3) (y : Nat) :
    CrossesWrap dims own (ringEntry d (coordinate own d) y (dimension dims d)) = ringCrosses (coordinate own d) y (dimension dims d) := by
  obtain ⟨hdim, hway, -, -, -⟩ := ringEntry_fields hd (coordinate own d) y (dimension dims d)
  simp only [CrossesWrap, hdim, hway, ringCrosses]
  cases ringPlus (coordinate own d) y (dimension dims d) <;> rfl

/-- A hop moves in its dimension alone. -/
theorem coordinate_nextChip (hown : InTorus dims own) (hdst : InTorus dims dst) (h : FirstDifference own dst d) {a : Nat} (ha : a < 3) :
    coordinate (nextChip dims own (defaultEntry own dims dst)) a =
      if a = d then ringNext (coordinate own d) (coordinate dst d) (dimension dims d) else coordinate own a := by
  have hlt := ringNext_lt (hown d h.lt) (coordinate dst d)
  rw [defaultEntry_of_firstDifference hdst h, nextChip_ringEntry h.lt,
    coordinate_withCoordinate own h.lt (Nat.lt_of_lt_of_le hlt (dimension_le dims d)) ha]

theorem inTorus_nextChip (hown : InTorus dims own) (hdst : InTorus dims dst) (h : FirstDifference own dst d) :
    InTorus dims (nextChip dims own (defaultEntry own dims dst)) := by
  intro a ha
  rw [coordinate_nextChip hown hdst h ha]
  split
  next had => subst had; exact ringNext_lt (hown a ha) _
  next => exact hown a ha

/-- Short of the destination's coordinate the next chip goes on in the same ring. -/
theorem defaultEntry_nextChip (hown : InTorus dims own) (hdst : InTorus dims dst) (h : FirstDifference own dst d)
    (hnext : ringNext (coordinate own d) (coordinate dst d) (dimension dims d) ≠ coordinate dst d) :
    defaultEntry (nextChip dims own (defaultEntry own dims dst)) dims dst =
      ringEntry d (ringNext (coordinate own d) (coordinate dst d) (dimension dims d)) (coordinate dst d) (dimension dims d) := by
  have hat := coordinate_nextChip hown hdst h h.lt
  rw [if_pos rfl] at hat
  have hfirst : FirstDifference (nextChip dims own (defaultEntry own dims dst)) dst d := by
    refine ⟨h.lt, hat ▸ hnext, fun a ha => ?_⟩
    rw [coordinate_nextChip hown hdst h (Nat.lt_trans ha h.lt), if_neg (Nat.ne_of_lt ha)]
    exact h.below a ha
  rw [defaultEntry_of_firstDifference hdst hfirst, hat]

theorem ringHops_eq (dims x y : BitVec 12) (d : Nat) :
    ringHops dims x y d = ringDistance (coordinate x d) (coordinate y d) (dimension dims d) := rfl

theorem ringHops_nextChip_same (hown : InTorus dims own) (hdst : InTorus dims dst) (h : FirstDifference own dst d) :
    ringHops dims own dst d = ringHops dims (nextChip dims own (defaultEntry own dims dst)) dst d + 1 := by
  rw [ringHops_eq, ringHops_eq, coordinate_nextChip hown hdst h h.lt, if_pos rfl]
  exact ringDistance_ringNext (hown d h.lt) (hdst d h.lt) h.ne

theorem ringHops_nextChip_other (hown : InTorus dims own) (hdst : InTorus dims dst) (h : FirstDifference own dst d) {a : Nat}
    (ha : a < 3) (had : a ≠ d) : ringHops dims (nextChip dims own (defaultEntry own dims dst)) dst a = ringHops dims own dst a := by
  rw [ringHops_eq, ringHops_eq, coordinate_nextChip hown hdst h ha, if_neg had]

theorem ringHops_le_half (hown : InTorus dims own) (hdst : InTorus dims dst) (hd : d < 3) :
    ringHops dims own dst d ≤ dimension dims d / 2 := ringDistance_le_half (hown d hd) (hdst d hd)

/-- Where both ways are equal the entry names the port of the + way. -/
theorem defaultEntry_even_of_tie (hown : InTorus dims own) (hdst : InTorus dims dst) (h : FirstDifference own dst d)
    (htie : 2 * ringHops dims own dst d = dimension dims d) : (defaultEntry own dims dst).toNat % 2 = 0 := by
  obtain ⟨-, hway, -⟩ := ringEntry_fields h.lt (coordinate own d) (coordinate dst d) (dimension dims d)
  rw [defaultEntry_of_firstDifference hdst h, hway, ringPlus_of_tie (hown d h.lt) (hdst d h.lt) htie]
  rfl

/-! The dateline class of a default entry: RQC (bit 3), to which RSC (bit 4) is equal. -/

theorem defaultEntry_rqc (hdst : InTorus dims dst) (h : FirstDifference own dst d) :
    (defaultEntry own dims dst).getLsbD 3 = !ringWraps (coordinate own d) (coordinate dst d) (dimension dims d) := by
  obtain ⟨-, -, -, hrqc, -⟩ := ringEntry_fields h.lt (coordinate own d) (coordinate dst d) (dimension dims d)
  rw [defaultEntry_of_firstDifference hdst h, hrqc]

theorem defaultEntry_nextChip_rqc (hown : InTorus dims own) (hdst : InTorus dims dst) (h : FirstDifference own dst d)
    (hnext : ringNext (coordinate own d) (coordinate dst d) (dimension dims d) ≠ coordinate dst d) :
    (defaultEntry (nextChip dims own (defaultEntry own dims dst)) dims dst).getLsbD 3 =
      !ringWraps (ringNext (coordinate own d) (coordinate dst d) (dimension dims d)) (coordinate dst d) (dimension dims d) := by
  obtain ⟨-, -, -, hrqc, -⟩ := ringEntry_fields h.lt (ringNext (coordinate own d) (coordinate dst d) (dimension dims d))
    (coordinate dst d) (dimension dims d)
  rw [defaultEntry_nextChip hown hdst h hnext, hrqc]

theorem crossesWrap_defaultEntry (hdst : InTorus dims dst) (h : FirstDifference own dst d) :
    CrossesWrap dims own (defaultEntry own dims dst) = ringCrosses (coordinate own d) (coordinate dst d) (dimension dims d) := by
  rw [defaultEntry_of_firstDifference hdst h, crossesWrap_ringEntry h.lt]

/-- The hop over the wrap link is of class 0 and the next one of its ring of class 1. -/
theorem class_of_crossesWrap (hown : InTorus dims own) (hdst : InTorus dims dst) (h : FirstDifference own dst d)
    (hcross : CrossesWrap dims own (defaultEntry own dims dst) = true) :
    (defaultEntry own dims dst).getLsbD 3 = false ∧
      (coordinate (nextChip dims own (defaultEntry own dims dst)) d ≠ coordinate dst d →
        (defaultEntry (nextChip dims own (defaultEntry own dims dst)) dims dst).getLsbD 3 = true) := by
  rw [crossesWrap_defaultEntry hdst h] at hcross
  rw [defaultEntry_rqc hdst h, coordinate_nextChip hown hdst h h.lt, if_pos rfl,
    ringWraps_of_ringCrosses (hown d h.lt) (hdst d h.lt) h.ne hcross]
  refine ⟨rfl, fun hnext => ?_⟩
  rw [defaultEntry_nextChip_rqc hown hdst h hnext,
    ringWraps_ringNext_of_ringCrosses (hown d h.lt) (hdst d h.lt) h.ne hcross hnext]
  rfl

/-- Any other hop is of class 1 where it ends its ring, and of the class of the next hop where it does not. -/
theorem class_of_not_crossesWrap (hown : InTorus dims own) (hdst : InTorus dims dst) (h : FirstDifference own dst d)
    (hcross : CrossesWrap dims own (defaultEntry own dims dst) = false) :
    if coordinate (nextChip dims own (defaultEntry own dims dst)) d = coordinate dst d then (defaultEntry own dims dst).getLsbD 3 = true
    else (defaultEntry (nextChip dims own (defaultEntry own dims dst)) dims dst).getLsbD 3 = (defaultEntry own dims dst).getLsbD 3 := by
  rw [crossesWrap_defaultEntry hdst h] at hcross
  rw [defaultEntry_rqc hdst h, coordinate_nextChip hown hdst h h.lt, if_pos rfl]
  split
  next hnext => rw [ringWraps_of_ringNext_eq (hown d h.lt) hcross hnext]; rfl
  next hnext =>
    rw [defaultEntry_nextChip_rqc hown hdst h hnext, ringWraps_ringNext (hown d h.lt) (hdst d h.lt) h.ne hcross hnext]

/-! The whole route: each hop takes one from the distance that is left. -/

/-- The hops left to the destination. -/
def hopsLeft (dims at_ dst : BitVec 12) : Nat := ringHops dims at_ dst 0 + ringHops dims at_ dst 1 + ringHops dims at_ dst 2

theorem hopsLeft_nextChip (hown : InTorus dims own) (hdst : InTorus dims dst) (h : FirstDifference own dst d) :
    hopsLeft dims own dst = hopsLeft dims (nextChip dims own (defaultEntry own dims dst)) dst + 1 := by
  have hsame := ringHops_nextChip_same hown hdst h
  have hother := fun a => ringHops_nextChip_other hown hdst h (a := a)
  have h0 := hother 0 (by decide)
  have h1 := hother 1 (by decide)
  have h2 := hother 2 (by decide)
  rw [hopsLeft, hopsLeft]
  rcases lt_three_cases h.lt with rfl | rfl | rfl <;> omega

theorem hopsTo_hopsLeft (hdst : InTorus dims dst) (n : Nat) :
    ∀ at_, InTorus dims at_ → hopsLeft dims at_ dst = n → hopsTo dims dst n at_ = dst := by
  induction n with
  | zero =>
    intro at_ hat hleft
    refine Decidable.byContradiction fun hne => ?_
    obtain ⟨d, hd⟩ := exists_firstDifference hne
    have hstep := hopsLeft_nextChip hat hdst hd
    omega
  | succ n ih =>
    intro at_ hat hleft
    rw [hopsTo]
    split
    next hhere => exact hhere
    next hne =>
      obtain ⟨d, hd⟩ := exists_firstDifference hne
      have hstep := hopsLeft_nextChip hat hdst hd
      exact ih _ (inTorus_nextChip hat hdst hd) (by omega)

end

/-- Settles O47: the hops left to the destination fall by one at each hop, and round one ring the way and what lies ahead of it are kept
until the wrap link is passed. -/
theorem defaultRoutesDeliver : Obligations.DefaultRoutesDeliver := by
  unfold Obligations.DefaultRoutesDeliver
  refine ⟨fun s hup hheld => ⟨s.fillRoutes, exec_fillDefault_of_up hup hheld, s.fillRoutes_eq_with_routes, routeOf_fillRoutes s⟩,
    fun own dims dst hown hdst => ⟨defaultEntry_self own dims, hopsTo_hopsLeft hdst _ own hown rfl, fun hne => ?hop⟩⟩
  case hop =>
    obtain ⟨d, hd⟩ := exists_firstDifference hne
    have ⟨hlt, hdiff, hbelow⟩ := hd
    obtain ⟨hdim, -, hdetour, hrqc, hrsc⟩ := ringEntry_fields hlt (coordinate own d) (coordinate dst d) (dimension dims d)
    rw [← defaultEntry_of_firstDifference hdst hd] at hdim hdetour hrqc hrsc
    intro e d' next
    rw [show d' = d from hdim]
    exact ⟨hlt, hdiff, hbelow, ringHops_nextChip_same hown hdst hd, ringHops_le_half hown hdst hlt,
      defaultEntry_even_of_tie hown hdst hd, hdetour, hrqc.trans hrsc.symm, class_of_crossesWrap hown hdst hd,
      class_of_not_crossesWrap hown hdst hd⟩

end Sys2Proof.Machine
